-- ==== Sys2Proof/Word.lean ====
section
/-! DEFINITION. The word types of the ZK-8256 (R4, R57) and their plainest arithmetic. -/

namespace Sys2Proof

/-- A 32-bit word: a named register, a queue entry, IMM32. -/
abbrev Word := BitVec 32

/-- A 64-bit value: an address, a PCC sample, a register pair. -/
abbrev DWord := BitVec 64

/-- One byte of vault, global memory or an instruction. -/
abbrev Byte := BitVec 8

/-- A physical address of R82 or a byte offset, as the key of a memory cell. -/
abbrev PAddr := Nat

end Sys2Proof
end

