-- ==== Sys2Proof/Config.lean ====
section
/-! DEFINITION. What the spec leaves to the part, as constants without a body: nothing can be proved
about their values, so a claim holds whatever they are. -/

namespace Sys2Proof.Config

open Sys2Proof

/-- The result that the part proposes for special function `op` (0 FRCP to 7 FTANH, R193) on an
input. The model uses it only within what R193 bounds (DESIGN CHOICE log 5). -/
opaque special (op : Nat) (x : Word) : Word

/-- The part's own non-decreasing function for FSIGM (R193), by the free places of its bits (DESIGN CHOICE log 5). -/
opaque sigmoidSplit (bit pre : Nat) : Int

/-- A free word, by the free-value counter (R6, DESIGN CHOICE log 4). -/
opaque freeWord (draw : Nat) : Word

/-- A free choice between two allowed outcomes, by the free-value counter (R6, R7, DESIGN CHOICE log 4). -/
opaque coin (draw : Nat) : Bool

/-- What the special operand 0x110 + i reads in a handler or service wave where the spec gives its
coordinates no value (R31, R43, DESIGN CHOICE log 22). -/
opaque handlerOperand (i : Nat) : Word

/-- The engine's own estimate of a copy's duration in clk, before the bounds of R234 (DESIGN CHOICE log 4). -/
opaque estimate (draw : Nat) : Nat

/-- Byte `i` of a section of a context frame, as a function of what R383 says the section holds: the spec does not fix the
layout inside it (DESIGN CHOICE log 9). -/
opaque frameByte (section_ : Nat) (content : List Nat) (i : Nat) : Byte

/-- SHA-384 (R421, R422, DESIGN CHOICE log 10). -/
opaque sha384 (data : List Byte) : List Byte

/-- Verification of a signature under ROM key `key` (R421, DESIGN CHOICE log 10). -/
opaque verify (key : Nat) (signed sig : List Byte) : Bool

/-- A signature by the device key of certificate slot 0 (R422, DESIGN CHOICE log 10). -/
opaque sign (data : List Byte) : List Byte

/-- The ROM of the Scegus die, the service-wave firmware, and the fuses with the stage-3
configuration, as they are measured (R422, DESIGN CHOICE log 10). -/
opaque rom : List Byte
opaque serviceFirmware : List Byte
opaque fuses : List Byte

/-- The bytes of an SPDM response with a content: the spec gives some contents and no bytes (R406, DESIGN CHOICE log 10). -/
opaque spdm (message : Nat) (content : List Byte) : List Byte

/-- The die mask that bring-up finds (R419): a die that fails is left out (DESIGN CHOICE log 11). -/
opaque diesUp : BitVec 8

/-- The package index that the optical planes give (R397, R419, DESIGN CHOICE log 11). -/
opaque packageIndex : Nat

/-- The planes whose training passes at bring-up (R399, R419, DESIGN CHOICE log 11). -/
opaque planesUp : BitVec 256

/-- The plane hash of R398 over (source die, source core, home die, lane), and the intermediate
package of R101: hashes that the spec does not give (DESIGN CHOICE log 11). -/
opaque planeHash (die core home lane : Nat) : Nat
opaque bncHash (core count : Nat) : Nat

/-- The home die of an address of a peer package, by the frame placement table that the peer holds (R102, DESIGN
CHOICE log 11). -/
opaque peerHome (pa : Nat) : Nat

/-- Bytes of the ingress queue of a die port of the Scegus die (R400, DESIGN CHOICE log 11). -/
opaque ingressBytes : Nat

/-- The rate code of a back-notice, less 1, before it is cut to four bits (R400, DESIGN CHOICE log 11). -/
opaque rateCode (draw : Nat) : Nat

/-- The Ultra Ethernet peer of an endpoint requires something that the ports leave out, so that no delivery context can be
formed with it (R402, DESIGN CHOICE log 11). -/
opaque ueRequires (endpoint : Nat) : Bool

/-- The choice of the one port of an endpoint's ordered delivery context, among those that it may use (R403,
DESIGN CHOICE log 11). -/
opaque contextPort (endpoint : Nat) : Nat

end Sys2Proof.Config
end

