-- ==== Sys2Proof/Syntax.lean ====
section
/-! DEFINITION. The syntax of everything the table of steps lists: processor instructions with the
fields of R137-R139, collective instructions with the fields of R304, and the events of the part,
each with typed arguments. -/

namespace Sys2Proof

/-- The instruction forms of R136 that hold an instruction. PAD32 is stepped over by the fetch. -/
inductive Form where
  | f64 | f96 | f128
  deriving DecidableEq, Repr

/-- An operand specifier of R143, in fields A, B, C, D, E and F. -/
inductive Src where
  /-- Queue entry q(j), 0x000-0x00F. -/
  | q (j : Nat)
  /-- Named register n(k), 0x010-0x107. -/
  | n (k : Nat)
  /-- Predicate p(i) read as 0 or 1, 0x108-0x10F. -/
  | p (i : Nat)
  /-- Special operand 0x110 + i of R43; i at or above 15 is unassigned. -/
  | special (i : Nat)
  /-- Inline constant, -64 to 63, 0x140-0x1BF. -/
  | const (v : Int)
  /-- Launch word L(j), 0x1C0-0x1DF. -/
  | launch (j : Nat)
  /-- Reserved specifier 0x1E0 + i. -/
  | reserved (i : Nat)
  /-- IMM, 0x1FE. -/
  | imm
  /-- NONE, 0x1FF. -/
  | none
  deriving DecidableEq, Repr

/-- The fields of a processor instruction (R137-R139). Fields that the form does not hold are at
their canonical values: NONE for E and F, zero for X and IMM32. -/
structure Fields where
  form : Form
  qp : BitVec 3
  qn : Bool
  la : BitVec 4
  d : Src
  a : Src
  b : Src
  c : Src
  m : BitVec 10
  imm : Word
  e : Src
  f : Src
  x : BitVec 14
  deriving DecidableEq, Repr

/-- The fields of a collective instruction (R304). -/
structure CFields where
  d : BitVec 4
  a : BitVec 4
  b : BitVec 4
  fa : Bool
  ib : Bool
  op : BitVec 4
  imm : BitVec 40
  deriving DecidableEq, Repr

/-- Privilege levels (R370). The value 2 names no level. -/
inductive Level where
  | user | super | sys
  deriving DecidableEq, Repr

/-- Routing classes (R101), numbered MIN 0, ADP 1, BNC 2 (R214). -/
inductive Route where
  | min | adp | bnc
  deriving DecidableEq, Repr

/-- Scopes (R21), with the codes 1 to 6 of R214. -/
inductive Scope where
  | core | quad | die | pkg | pod | sys
  deriving DecidableEq, Repr

/-- A job binding (R20, R180): its packages, and the queue that its remote messages run under. -/
structure Job where
  packages : List Nat
  queue : Nat
  deriving DecidableEq, Repr

/-- The agent that issued an access, as scopes are tested at the moment of the access (R116). -/
structure Origin where
  pkg : Nat
  wg : Nat
  gang : Nat
  die : Nat
  part : Nat
  job : Option Job
  deriving DecidableEq, Repr

/-- Release records by 8-byte word, as a home keeps them (R123). -/
abbrev RelRecords := List (Nat × (Scope × Origin))

/-- The operations of atomics and reductions (R216). -/
inductive AtomOp where
  | add | min | max | and | or | xor | xchg | cas | faddF32 | faddBf16 | umin | umax
  deriving DecidableEq, Repr

/-- Who writes a register or table: SYS (BAR0, package firmware) or SUPER of a partition (R416). -/
inductive Writer where
  | sys
  | super (part : Nat)
  deriving DecidableEq, Repr

/-- Where a register access is made: the level, die, core and partition it acts on (R202, R416). -/
structure Site where
  level : Level
  die : Nat
  core : Nat
  part : Nat
  deriving DecidableEq, Repr

/-- A host access through BAR2 (R404). -/
inductive HostAccess where
  | read (len : Nat)
  | write (data : List Byte)
  deriving DecidableEq, Repr

/-- An algorithm that an SPDM requester offers: one of the two of R406, or another by its code. -/
inductive SpdmAlgorithm where
  | ecdsaP384
  | sha384
  | other (code : Nat)
  deriving DecidableEq, Repr

/-- A granule of DRAM, by physical address, or of a workgroup's vault, by offset (R103). -/
inductive ErrorSite where
  | dram (pa : PAddr)
  | vault (wg off : Nat)
  deriving DecidableEq, Repr

/-- A window fragment that reaches the package from a remote sender (R293, R296, R303): `port` 32
is the pod fabric with `src` a package, 16 to 31 an Ultra Ethernet port with `src` an endpoint. `bad` lists the
poisoned bytes of `data` (R104). -/
structure RemoteFragment where
  window : Nat
  port : Nat
  src : Nat
  seq : Nat
  phase : Nat
  off : Nat
  data : List Byte
  bad : List Nat := []
  deriving DecidableEq, Repr

/-- An active message (R179): the receiving core, the handler, its payload, its not-before time,
and the sender's package and entry (partition, queue, number). -/
structure ActiveMessage where
  die : Nat
  core : Nat
  entry : DWord
  payload : List Word
  notBefore : Option DWord
  srcPkg : Nat
  part : Nat
  queue : Nat
  number : Nat
  deriving DecidableEq, Repr

/-- What a pod-fabric packet carries (R394): requests to this package's memory, replies to its own
requests, active messages and window fragments. Poisoned bytes (R104) and release records (R123) travel with the
data that they belong to (DESIGN CHOICE log 71). -/
inductive PodPayload where
  | read (pa : PAddr) (len tag : Nat)
  | write (pa : PAddr) (data : List Byte) (bad : List Nat) (rel : Option (Scope × Origin)) (tag : Nat)
  | atomic (op : AtomOp) (wide ret : Bool) (pa : PAddr) (operand compare : DWord) (rel : Option (Scope × Origin)) (tag : Nat)
  /-- A line for the sender's LLC, its only copy where `only` (R97). -/
  | fetch (pa : PAddr) (only : Bool) (tag : Nat)
  /-- A dirty line comes back to its home (R98). -/
  | writeBack (pa : PAddr) (data : List Byte) (bad : List Nat) (recs : RelRecords)
  | message (msg : ActiveMessage)
  | fragment (frag : RemoteFragment)
  /-- What a read, an atomic or a fetch returns; no data where its reader takes POISON. -/
  | reply (tag : Nat) (data : List Byte) (bad : List Nat) (recs : RelRecords)
  deriving DecidableEq, Repr

/-- A pod-fabric packet (R398-R401): source and destination package, the package that this hop goes to (R101), the
partition whose channel it uses, its number per (source, partition), its class, its place in a `.MIN` stream, and
whether the destination's ingress queue was full, which trims it. -/
structure PodPacket where
  src : Nat
  dst : Nat
  hop : Nat
  part : Nat
  number : Nat
  cls : Route
  stream : Nat
  index : Nat
  full : Bool
  payload : PodPayload
  deriving DecidableEq, Repr

/-- One constructor per row of spec/opcode_table.json: the processor instructions, the collective
instructions, the events inside the package, then the events that come from outside it. -/
inductive Instr where
  /-- NOP (R170). -/
  | nop (f : Fields)
  /-- BRA (R171). -/
  | bra (f : Fields)
  /-- BRX (R171). -/
  | brx (f : Fields)
  /-- CALL (R171). -/
  | call (f : Fields)
  /-- CALLX (R171). -/
  | callx (f : Fields)
  /-- RET (R171). -/
  | ret (f : Fields)
  /-- EXIT (R172). -/
  | exit (f : Fields)
  /-- YIELD (R173). -/
  | yield (f : Fields)
  /-- SLEEP (R174). -/
  | sleep (f : Fields)
  /-- SLEEPTO (R174). -/
  | sleepto (f : Fields)
  /-- TRAP (R175). -/
  | trap (f : Fields)
  /-- BKPT (R175). -/
  | bkpt (f : Fields)
  /-- WSYNC (R176). -/
  | wsync (f : Fields)
  /-- IVL (R177). -/
  | ivl (f : Fields)
  /-- LAUNCH (R178). -/
  | launch (f : Fields)
  /-- AMSEND (R179). -/
  | amsend (f : Fields)
  /-- IADD (R182). -/
  | iadd (f : Fields)
  /-- ISUB (R182). -/
  | isub (f : Fields)
  /-- IADD64 (R182). -/
  | iadd64 (f : Fields)
  /-- ISUB64 (R182). -/
  | isub64 (f : Fields)
  /-- IMUL (R182). -/
  | imul (f : Fields)
  /-- IMULH (R182). -/
  | imulh (f : Fields)
  /-- IMAD (R182). -/
  | imad (f : Fields)
  /-- IMADW (R182). -/
  | imadw (f : Fields)
  /-- IMIN (R182). -/
  | imin (f : Fields)
  /-- IMAX (R182). -/
  | imax (f : Fields)
  /-- IABS (R182). -/
  | iabs (f : Fields)
  /-- ISHL (R183). -/
  | ishl (f : Fields)
  /-- ISHR (R183). -/
  | ishr (f : Fields)
  /-- SHF (R183). -/
  | shf (f : Fields)
  /-- LOP3 (R184). -/
  | lop3 (f : Fields)
  /-- POPC (R184). -/
  | popc (f : Fields)
  /-- CLZ (R184). -/
  | clz (f : Fields)
  /-- BREV (R184). -/
  | brev (f : Fields)
  /-- BFE (R185). -/
  | bfe (f : Fields)
  /-- BFI (R185). -/
  | bfi (f : Fields)
  /-- PRMT (R186). -/
  | prmt (f : Fields)
  /-- LEA (R187). -/
  | lea (f : Fields)
  /-- SEL (R187). -/
  | sel (f : Fields)
  /-- MOV (R187). -/
  | mov (f : Fields)
  /-- MOVI (R187). -/
  | movi (f : Fields)
  /-- MOVW (R187). -/
  | movw (f : Fields)
  /-- ICMP (R188). -/
  | icmp (f : Fields)
  /-- ICMP64 (R188). -/
  | icmp64 (f : Fields)
  /-- PLOP (R189). -/
  | plop (f : Fields)
  /-- PPACK (R189). -/
  | ppack (f : Fields)
  /-- PSET (R189). -/
  | pset (f : Fields)
  /-- FADD (R191). -/
  | fadd (f : Fields)
  /-- FMUL (R191). -/
  | fmul (f : Fields)
  /-- FFMA (R191). -/
  | ffma (f : Fields)
  /-- FMIN (R191). -/
  | fmin (f : Fields)
  /-- FMAX (R191). -/
  | fmax (f : Fields)
  /-- FCMP (R192). -/
  | fcmp (f : Fields)
  /-- FRND (R191). -/
  | frnd (f : Fields)
  /-- FRCP (R193). -/
  | frcp (f : Fields)
  /-- FRSQ (R193). -/
  | frsq (f : Fields)
  /-- FSQRT (R193). -/
  | fsqrt (f : Fields)
  /-- FEX2 (R193). -/
  | fex2 (f : Fields)
  /-- FLG2 (R193). -/
  | flg2 (f : Fields)
  /-- FSIN (R193). -/
  | fsin (f : Fields)
  /-- FCOS (R193). -/
  | fcos (f : Fields)
  /-- FTANH (R193). -/
  | ftanh (f : Fields)
  /-- FSIGM (R193). -/
  | fsigm (f : Fields)
  /-- HADD2 (R194). -/
  | hadd2 (f : Fields)
  /-- HMUL2 (R194). -/
  | hmul2 (f : Fields)
  /-- HFMA2 (R194). -/
  | hfma2 (f : Fields)
  /-- HMAX2 (R194). -/
  | hmax2 (f : Fields)
  /-- F2I (R195). -/
  | f2i (f : Fields)
  /-- I2F (R195). -/
  | i2f (f : Fields)
  /-- CVT (R196). -/
  | cvt (f : Fields)
  /-- CVTP (R197). -/
  | cvtp (f : Fields)
  /-- FCLASS (R198). -/
  | fclass (f : Fields)
  /-- WSHFL (R199). -/
  | wshfl (f : Fields)
  /-- WVOTE (R199). -/
  | wvote (f : Fields)
  /-- WREDUX (R200). -/
  | wredux (f : Fields)
  /-- LDV (R213). -/
  | ldv (f : Fields)
  /-- STV (R213). -/
  | stv (f : Fields)
  /-- LD (R215). -/
  | ld (f : Fields)
  /-- ST (R215). -/
  | st (f : Fields)
  /-- ATOM (R217). -/
  | atom (f : Fields)
  /-- RED (R217). -/
  | red (f : Fields)
  /-- FENCE (R218). -/
  | fence (f : Fields)
  /-- PREF (R219). -/
  | pref (f : Fields)
  /-- LDL (R215). -/
  | ldl (f : Fields)
  /-- BUFDECL (R87). -/
  | bufdecl (f : Fields)
  /-- BUFSET (R92). -/
  | bufset (f : Fields)
  /-- BUFQ (R221). -/
  | bufq (f : Fields)
  /-- XCOPY (R231). -/
  | xcopy (f : Fields)
  /-- XGATH (R232). -/
  | xgath (f : Fields)
  /-- XFILL (R233). -/
  | xfill (f : Fields)
  /-- XDRAIN (R231). -/
  | xdrain (f : Fields)
  /-- XSTAT (R236). -/
  | xstat (f : Fields)
  /-- XWAIT (R235). -/
  | xwait (f : Fields)
  /-- LTINIT (R224). -/
  | ltinit (f : Fields)
  /-- LTEXP (R224). -/
  | ltexp (f : Fields)
  /-- LTARR (R224). -/
  | ltarr (f : Fields)
  /-- LTWAIT (R224). -/
  | ltwait (f : Fields)
  /-- LTTRY (R224). -/
  | lttry (f : Fields)
  /-- PHREG (R241). -/
  | phreg (f : Fields)
  /-- PHDROP (R241). -/
  | phdrop (f : Fields)
  /-- PHSIG (R241). -/
  | phsig (f : Fields)
  /-- PHWAIT (R241). -/
  | phwait (f : Fields)
  /-- PHNEXT (R241). -/
  | phnext (f : Fields)
  /-- PHTRY (R241). -/
  | phtry (f : Fields)
  /-- RGROW (R242). -/
  | rgrow (f : Fields)
  /-- RSHRINK (R242). -/
  | rshrink (f : Fields)
  /-- RDCAP (R250). -/
  | rdcap (f : Fields)
  /-- RDRMW (R250). -/
  | rdrmw (f : Fields)
  /-- RDBOARD (R251). -/
  | rdboard (f : Fields)
  /-- RDALIGHT (R250). -/
  | rdalight (f : Fields)
  /-- RDFENCE (R252). -/
  | rdfence (f : Fields)
  /-- RDCANCEL (R252). -/
  | rdcancel (f : Fields)
  /-- OCLAIM (R261). -/
  | oclaim (f : Fields)
  /-- ORELEASE (R261). -/
  | orelease (f : Fields)
  /-- OLOAD (R263). -/
  | oload (f : Fields)
  /-- OFENCE (R264). -/
  | ofence (f : Fields)
  /-- LAYSET (R262). -/
  | layset (f : Fields)
  /-- MSIGN (R267). -/
  | msign (f : Fields)
  /-- MMA (R265). -/
  | mma (f : Fields)
  /-- MWAIT (R257). -/
  | mwait (f : Fields)
  /-- MTRANS (R266). -/
  | mtrans (f : Fields)
  /-- MPERM (R266). -/
  | mperm (f : Fields)
  /-- MRSUM (R266). -/
  | mrsum (f : Fields)
  /-- ACLR (R275). -/
  | aclr (f : Fields)
  /-- AREAD (R276). -/
  | aread (f : Fields)
  /-- ADRAIN (R277). -/
  | adrain (f : Fields)
  /-- AWRITE (R276). -/
  | awrite (f : Fields)
  /-- KNOCK (R271). -/
  | knock (f : Fields)
  /-- QBLK (R278). -/
  | qblk (f : Fields)
  /-- QRES (R279). -/
  | qres (f : Fields)
  /-- DESC (R282). -/
  | desc (f : Fields)
  /-- PGROUP (R285). -/
  | pgroup (f : Fields)
  /-- PTREAD (R286). -/
  | ptread (f : Fields)
  /-- NODEA (R287). -/
  | nodea (f : Fields)
  /-- DGRAD (R288). -/
  | dgrad (f : Fields)
  /-- CWARM (R299). -/
  | cwarm (f : Fields)
  /-- CWSTAT (R300). -/
  | cwstat (f : Fields)
  /-- CSRR (R202). -/
  | csrr (f : Fields)
  /-- CSRW (R202). -/
  | csrw (f : Fields)
  /-- TLBINV (R203). -/
  | tlbinv (f : Fields)
  /-- ERET (R375). -/
  | eret (f : Fields)
  /-- SNAP (R205). -/
  | snap (f : Fields)
  /-- SVCRECV (R206). -/
  | svcrecv (f : Fields)
  /-- SVCREPLY (R206). -/
  | svcreply (f : Fields)
  /-- HALT (R207). -/
  | halt (f : Fields)
  /-- ILL_OPC (R153). -/
  | illOpc (opc : BitVec 8) (f : Fields)
  /-- CNOP (R306). -/
  | cnop (c : CFields)
  /-- CJMP (R307). -/
  | cjmp (c : CFields)
  /-- CBR (R307). -/
  | cbr (c : CFields)
  /-- CEND (R307). -/
  | cend (c : CFields)
  /-- CYIELD (R307). -/
  | cyield (c : CFields)
  /-- CMOV (R307). -/
  | cmov (c : CFields)
  /-- CLDI (R307). -/
  | cldi (c : CFields)
  /-- CADD (R307). -/
  | cadd (c : CFields)
  /-- CSUB (R307). -/
  | csub (c : CFields)
  /-- CAND (R307). -/
  | cand (c : CFields)
  /-- COR (R307). -/
  | cor (c : CFields)
  /-- CSHR (R307). -/
  | cshr (c : CFields)
  /-- CSHL (R307). -/
  | cshl (c : CFields)
  /-- CCMP (R307). -/
  | ccmp (c : CFields)
  /-- CSTAGE (R308). -/
  | cstage (c : CFields)
  /-- CSEEN (R308). -/
  | cseen (c : CFields)
  /-- CREADY (R308). -/
  | cready (c : CFields)
  /-- CCOMB (R309). -/
  | ccomb (c : CFields)
  /-- CPLACE (R312). -/
  | cplace (c : CFields)
  /-- CDROPF (R315). -/
  | cdropf (c : CFields)
  /-- CFWD (R312). -/
  | cfwd (c : CFields)
  /-- CMCAST (R312). -/
  | cmcast (c : CFields)
  /-- CACK (R312). -/
  | cack (c : CFields)
  /-- CSIG (R314). -/
  | csig (c : CFields)
  /-- CCNT (R308). -/
  | ccnt (c : CFields)
  /-- CTIME (R308). -/
  | ctime (c : CFields)
  /-- PACKAGE_RESET (R419). -/
  | packageReset
  /-- LAYOUT_CHANGE_DONE (R413). -/
  | layoutChangeDone
  /-- SLICE_REMAP_DONE (R392). -/
  | sliceRemapDone (die : Nat)
  /-- RECORD_CHECK (R333). -/
  | recordCheck (part queue : Nat)
  /-- ENTRY_ELIGIBLE (R339). -/
  | entryEligible (part queue entry : Nat)
  /-- GANG_PLACE (R343). -/
  | gangPlace (part : Nat)
  /-- PLACEMENT_STARVATION (R343). -/
  | placementStarvation (part queue entry : Nat)
  /-- SLICE_EXPIRY (R352). -/
  | sliceExpiry (gang : Nat)
  /-- GANG_SAVE (R381). -/
  | gangSave (gang : Nat)
  /-- GANG_RESTORE (R384). -/
  | gangRestore (part : Nat)
  /-- WORKGROUP_RETIRE (R172). -/
  | workgroupRetire (wg : Nat)
  /-- ENTRY_COMPLETE (R338). -/
  | entryComplete (part queue entry : Nat)
  /-- ACTIVE_MESSAGE_ARRIVE (R31). -/
  | activeMessageArrive (id : Nat)
  /-- HANDLER_START (R31). -/
  | handlerStart (die core : Nat)
  /-- SERVICE_REQUEST_ARRIVE (R30). -/
  | serviceRequestArrive (die quad : Nat)
  /-- LONG_LATENCY_RESULT (R50). -/
  | longLatencyResult (die core slot lane id : Nat)
  /-- RGROW_GRANT (R52). -/
  | rgrowGrant (die core : Nat)
  /-- INTERVAL_RELOAD (R46). -/
  | intervalReload (die core slot : Nat)
  /-- STORE_QUEUE_DRAIN (R114). -/
  | storeQueueDrain (die core slot : Nat)
  /-- DIRECT_ACCESS_PERFORM (R99). -/
  | directAccessPerform (id : Nat)
  /-- CACHE_FILL (R107). -/
  | cacheFill (die line : Nat)
  /-- DIRECTORY_RECALL (R97). -/
  | directoryRecall (die line : Nat)
  /-- SLEEP_WAKE (R174). -/
  | sleepWake (die core slot lane : Nat)
  /-- LTTRY_TIMEOUT (R224). -/
  | lttryTimeout (die core slot lane : Nat)
  /-- PHTRY_TIMEOUT (R241). -/
  | phtryTimeout (die core slot lane : Nat)
  /-- COPY_TAKEUP (R228). -/
  | copyTakeup (wg : Nat)
  /-- COPY_ARRIVAL (R234). -/
  | copyArrival (wg copy off len : Nat)
  /-- COPY_COMPLETE (R234). -/
  | copyComplete (wg copy : Nat)
  /-- COPY_FAIL (R238). -/
  | copyFail (wg copy off : Nat)
  /-- XWAIT_TIMEOUT (R235). -/
  | xwaitTimeout (die core slot lane : Nat)
  /-- RING_OP_ELIGIBLE (R245). -/
  | ringOpEligible (op : Nat)
  /-- RING_SLOT_PASS (R246). -/
  | ringSlotPass (part station : Nat)
  /-- RING_OP_MISSING (R247). -/
  | ringOpMissing (op : Nat)
  /-- RING_FULL (R251). -/
  | ringFull (op : Nat)
  /-- OLOAD_COMPLETE (R264). -/
  | oloadComplete (wg : Nat) (id : Nat)
  /-- TICKET_COMPLETE (R256). -/
  | ticketComplete (wg : Nat)
  /-- KNOCK_GRANT (R271). -/
  | knockGrant (die core slot lane : Nat)
  /-- TOKEN_GRANT (R350). -/
  | tokenGrant (die core pane : Nat)
  /-- TOKEN_IDLE_RETURN (R350). -/
  | tokenIdleReturn (die core pane : Nat)
  /-- POWER_EVALUATE (R351). -/
  | powerEvaluate (average : Nat) (fast : Nat) (temp : Nat)
  /-- FRAGMENT_ARRIVE (R296). -/
  | fragmentArrive (id : Nat)
  /-- INVOCATION_START (R301). -/
  | invocationStart (window : Nat)
  /-- TIMER_INVOCATION (R308). -/
  | timerInvocation (window : Nat)
  /-- CSIG_ARRIVAL (R314). -/
  | csigArrival (window : Nat)
  /-- PLACEMENT_DELIVER (R313). -/
  | placementDeliver (id : Nat)
  /-- UE_TRANSPORT_ACK (R328). -/
  | ueTransportAck (id : Nat)
  /-- UE_RETRANSMIT (R328). -/
  | ueRetransmit (id : Nat)
  /-- RETRANSMIT_REQUEST (R400). -/
  | retransmitRequest (id : Nat)
  /-- POD_ACK (R401). -/
  | podAck (id : Nat)
  /-- POD_RETRANSMIT_TIMEOUT (R401). -/
  | podRetransmitTimeout (id : Nat)
  /-- PACING_DECAY (R400). -/
  | pacingDecay (dest : Nat)
  /-- ROUTER_POWER_DOWN (R393). -/
  | routerPowerDown (die router : Nat)
  /-- ROUTER_WAKE (R393). -/
  | routerWake (die router : Nat)
  /-- WALK_COMPLETE (R365). -/
  | walkComplete (die tag page : Nat)
  /-- SHOOTDOWN_DELIVER (R366). -/
  | shootdownDeliver (part die : Nat)
  /-- SHOOTDOWN_ACK (R367). -/
  | shootdownAck (part die : Nat)
  /-- IMPRECISE_FAULT_TAKE (R376). -/
  | impreciseFaultTake (wg : Nat)
  /-- SHUTTER_TICK (R424). -/
  | shutterTick
  /-- WINDOW_ARM (R299). -/
  | windowArm (window : Nat)
  /-- RECOVERY_IMAGE (R421). -/
  | recoveryImage (image : List Byte)
  /-- THERMAL_TRIP (R423). -/
  | thermalTrip (temp : Nat)
  /-- GET_VERSION (R406). -/
  | getVersion
  /-- GET_CAPABILITIES (R406). -/
  | getCapabilities
  /-- NEGOTIATE_ALGORITHMS (R406). -/
  | negotiateAlgorithms
  /-- GET_DIGESTS (R406). -/
  | getDigests
  /-- GET_CERTIFICATE (R406). -/
  | getCertificate
  /-- CHALLENGE (R406). -/
  | challenge (nonce : List Byte)
  /-- GET_MEASUREMENTS (R422). -/
  | getMeasurements (nonce : List Byte)
  /-- HOST_BAR2_ACCESS (R404). -/
  | hostBar2Access (off : Nat) (access : HostAccess)
  /-- QDOOR_WRITE (R336). -/
  | qdoorWrite (part queue : Nat) (value : Word) (writer : Level)
  /-- QCFG_WRITE (R337). -/
  | qcfgWrite (part queue : Nat) (value : Word)
  /-- QRING_WRITE (R337). -/
  | qringWrite (part queue num : Nat) (value : Word)
  /-- QPHAL_WRITE (R429). -/
  | qphalWrite (part queue num : Nat) (value : Word)
  /-- PPHAL_WRITE (R430). -/
  | pphalWrite (part num : Nat) (value : Word)
  /-- QROOT_WRITE (R369). -/
  | qrootWrite (part queue num : Nat) (value : Word)
  /-- SROOT_WRITE (R369). -/
  | srootWrite (part num : Nat) (value : Word)
  /-- PREQ_SAVE (R354). -/
  | preqSave (part queue entry : Nat)
  /-- PREQ_KILL (R354). -/
  | preqKill (part queue entry : Nat)
  /-- DBGCTL_GO (R378). -/
  | dbgctlGo (die core slot : Nat)
  /-- DBGCTL_KILL (R378). -/
  | dbgctlKill (die core slot : Nat)
  /-- PARTCTL_GO (R412). -/
  | partctlGo (value : Word) (writer : Option Nat)
  /-- RING_CLEAR (R411). -/
  | ringClear (part : Nat)
  /-- FPTSET_SELECT (R418). -/
  | fptsetSelect (value : Word)
  /-- FPTSET_WRITE (R418). -/
  | fptsetWrite (value : Word) (writer : Writer)
  /-- SLCFG_WRITE (R392). -/
  | slcfgWrite (die : Nat) (value : Word)
  /-- SLMAP_WRITE (R392). -/
  | slmapWrite (die : Nat) (value : Word)
  /-- WINDOW_BIND (R294). -/
  | windowBind (window : Nat) (writer : Writer)
  /-- WINDOW_UNBIND (R297). -/
  | windowUnbind (window : Nat) (writer : Writer)
  /-- PROGRAM_LOAD (R305). -/
  | programLoad (program : Nat) (value : Word)
  /-- ENDPOINT_WRITE (R416). -/
  | endpointWrite (entry word : Nat) (value : DWord) (writer : Writer)
  /-- REGISTER_WRITE (R202). -/
  | registerWrite (num : Nat) (value : Word) (site : Site)
  /-- JOB_BINDING (R20). -/
  | jobBinding (part : Nat) (job : Option Job)
  /-- UNCORRECTABLE_ERROR (R104). -/
  | uncorrectableError (site : ErrorSite)
  /-- POD_PACKET_RECEIVE (R401). -/
  | podPacketReceive (packet : PodPacket)
  /-- BACK_NOTICE (R400). -/
  | backNotice (dest code : Nat)
  /-- NEGATIVE_ACKNOWLEDGEMENT (R402). -/
  | negativeAcknowledgement (id : Nat)
  /-- UE_FRAGMENT_ARRIVE (R328). -/
  | ueFragmentArrive (frag : RemoteFragment)
  /-- POD_TIME_MEASURE (R407). -/
  | podTimeMeasure (reference : Nat) (offset : Int)
  /-- PLANE_FAIL (R399). -/
  | planeFail (plane : Nat)
  /-- SHUTTER_FRAMING_TRIGGER (R424). -/
  | shutterFramingTrigger (tick : DWord)
  /-- SHUTTER_INPUT (R424). -/
  | shutterInput
  deriving DecidableEq, Repr

end Sys2Proof
end

