-- ==== Sys2Proof/Machine/Shapes.lean ====
section
/-! DEFINITION. The shape of each processor instruction: the forms it accepts (R151), the role of
each field, the assigned bits of M and X, what it pushes and its latency (R49), and the checks of
steps 4 to 6 of R155 made from the shape alone. -/

namespace Sys2Proof

/-- The `len` bits of `x` from bit `lo` up, as a number. -/
def bits {w : Nat} (x : BitVec w) (lo len : Nat) : Nat :=
  (x.toNat >>> lo) % 2 ^ len

/-- Bit `i` of `x`. -/
def bit {w : Nat} (x : BitVec w) (i : Nat) : Bool :=
  x.getLsbD i

/-- The number of a specifier (R143). -/
def Src.code : Src → Nat
  | .q j => j
  | .n k => 0x010 + k
  | .p i => 0x108 + i
  | .special i => 0x110 + i
  | .const v => (0x140 + v + (if v < 0 then 128 else 0)).toNat
  | .launch j => 0x1C0 + j
  | .reserved i => 0x1E0 + i
  | .imm => 0x1FE
  | .none => 0x1FF

/-- The specifier of a 9-bit number (R143). -/
def Src.ofCode (c : Nat) : Src :=
  if c < 0x010 then .q c
  else if c < 0x108 then .n (c - 0x010)
  else if c < 0x110 then .p (c - 0x108)
  else if c < 0x140 then .special (c - 0x110)
  else if c < 0x180 then .const ((c : Int) - 0x140)
  else if c < 0x1C0 then .const ((c : Int) - 0x1C0)
  else if c < 0x1E0 then .launch (c - 0x1C0)
  else if c < 0x1FE then .reserved (c - 0x1E0)
  else if c = 0x1FE then .imm
  else .none

/-- The specifier is one a 9-bit field can hold. -/
def Src.inRange : Src → Bool
  | .q j => j < 16
  | .n k => k < 248
  | .p i => i < 8
  | .special i => i < 48
  | .const v => -64 ≤ v && v ≤ 63
  | .launch j => j < 32
  | .reserved i => i < 30
  | .imm => true
  | .none => true

/-- How an instruction uses a source field. -/
inductive Use where
  /-- Not read: the field must hold NONE (R144). -/
  | none
  /-- A 32-bit value. -/
  | s32
  /-- A 64-bit value (R145). -/
  | s64
  /-- An aligned run of `m` registers (R208). -/
  | run (m : Nat)
  /-- `m` registers from any named register on; a specifier of another kind fails with the blocks, at step 6 (R179). -/
  | seq (m : Nat)
  /-- A predicate specifier (R187, R189). -/
  | pred
  /-- A 32-bit value or NONE, as the description says. -/
  | opt32
  deriving DecidableEq, Repr

/-- How an instruction uses its D field. -/
inductive DUse where
  /-- NONE. -/
  | none
  /-- A named register, or NONE. -/
  | reg
  /-- A register pair, or NONE. -/
  | pair
  /-- An aligned run of `m` registers, or NONE. -/
  | run (m : Nat)
  /-- An aligned run of `m` registers; NONE is refused (R206). -/
  | mustRun (m : Nat)
  /-- The two predicate targets of a compare or PLOP (R148, R189). -/
  | preds
  deriving DecidableEq, Repr

/-- The shape of an instruction. `m` and `x` are the conditions that R147 puts on the modifiers. -/
structure Shape where
  f64 : Bool := true
  f96 : Bool := true
  f128 : Bool := false
  d : DUse := .none
  a : Use := .none
  b : Use := .none
  c : Use := .none
  e : Use := .none
  f : Use := .none
  m : Bool := true
  x : Bool := true
  /-- The description gives IMM32 a use of its own. -/
  ownImm : Bool := false
  /-- Long-latency (R49). -/
  long : Bool := false
  /-- Entries pushed, also by a thread whose qualifying predicate is false (R39). -/
  pushes : Nat := 0
  deriving DecidableEq, Repr

/-- Only the bits of `mask` may be set. -/
def only {w : Nat} (x : BitVec w) (mask : Nat) : Bool :=
  x &&& ~~~ (BitVec.ofNat w mask) = 0

/-- Step 4 of R155: the opcode accepts the form. -/
def Shape.formOk (s : Shape) : Form → Bool
  | .f64 => s.f64
  | .f96 => s.f96
  | .f128 => s.f128

/-- A specifier that a 32-bit source may hold (R143). -/
def Src.ok32 (form : Form) : Src → Bool
  | .q _ | .n _ | .p _ | .const _ | .launch _ => true
  | .special i => i < 15
  | .reserved _ | .none => false
  | .imm => form != .f64

/-- A specifier that a 64-bit source may hold (R40, R143, R145). -/
def Src.ok64 (form : Form) : Src → Bool
  | .q j => j < 15
  | .launch j => j % 2 = 0
  | s => s.ok32 form

/-- Step 5 of R155 for one source field (DEDUCED log 32). -/
def Use.ok (form : Form) (u : Use) (s : Src) : Bool :=
  match u with
  | .none => s = .none
  | .s32 => s.ok32 form
  | .s64 => s.ok64 form
  | .run _ => match s with | .n _ => true | _ => false
  | .seq _ => s = .none || s.ok32 form
  | .pred => match s with | .p _ => true | _ => false
  | .opt32 => s = .none || s.ok32 form

/-- The layout of a compare's or PLOP's D field (R148, R189): D[8:6] zero, and the two targets
differ unless both are p0. -/
def predPairOk (d : Src) : Bool :=
  let c := d.code
  c < 64 && (c % 8 ≠ c / 8 || c = 0)

/-- Step 5 of R155 for the D field. -/
def DUse.ok (u : DUse) (d : Src) : Bool :=
  match u with
  | .none => d = .none
  | .reg | .pair | .run _ => match d with | .n _ | .none => true | _ => false
  | .mustRun _ => match d with | .n _ => true | _ => false
  | .preds => predPairOk d

/-- Some field that the instruction reads names IMM. -/
def Shape.namesImm (s : Shape) (f : Fields) : Bool :=
  [(s.a, f.a), (s.b, f.b), (s.c, f.c), (s.e, f.e), (s.f, f.f)].any
    fun p => p.1 ≠ .none && p.2 = .imm

/-- Step 5 of R155: specifiers, unused fields, modifiers, compare layout and lookahead field. -/
def Shape.fieldsOk (s : Shape) (f : Fields) : Bool :=
  s.a.ok f.form f.a && s.b.ok f.form f.b && s.c.ok f.form f.c
    && s.e.ok f.form f.e && s.f.ok f.form f.f && s.d.ok f.d
    && s.m && s.x
    && (f.imm = 0 || s.ownImm || s.namesImm f)
    && (s.long || f.la = 0)

/-- Registers `k` to `k + m - 1`, aligned to `m`, lie in the `c` blocks held (R35, R36, R208). -/
def runHeld (c k m : Nat) : Bool :=
  k % m = 0 && k + m ≤ 8 * c

/-- Step 6 of R155 for one source field, with `c` blocks held. -/
def Use.held (c : Nat) (u : Use) (s : Src) : Bool :=
  match u, s with
  | .s32, .n k | .opt32, .n k => runHeld c k 1
  | .s64, .n k => runHeld c k 2
  | .run m, .n k => runHeld c k m
  | .seq m, .n k => k + m ≤ 8 * c
  | .seq _, _ => false
  | _, _ => true

/-- Step 6 of R155 for the D field. -/
def DUse.held (c : Nat) (u : DUse) (d : Src) : Bool :=
  match u, d with
  | .reg, .n k => runHeld c k 1
  | .pair, .n k => runHeld c k 2
  | .run m, .n k | .mustRun m, .n k => runHeld c k m
  | _, _ => true

/-- Step 6 of R155. -/
def Shape.held (s : Shape) (c : Nat) (f : Fields) : Bool :=
  s.a.held c f.a && s.b.held c f.b && s.c.held c f.c
    && s.e.held c f.e && s.f.held c f.f && s.d.held c f.d

/-- The length of an instruction in bytes (R136). -/
def Form.len : Form → Nat
  | .f64 => 8
  | .f96 => 12
  | .f128 => 16

/-- The fields are canonical: specifiers in range, and nothing in fields the form does not hold. -/
def Fields.canonical (f : Fields) : Bool :=
  f.d.inRange && f.a.inRange && f.b.inRange && f.c.inRange && f.e.inRange && f.f.inRange
    && (match f.form with
        | .f64 => f.imm = 0 && f.e = .none && f.f = .none && f.x = 0
        | .f96 => f.e = .none && f.f = .none && f.x = 0
        | .f128 => true)

/-! ## Shapes shared by several instructions -/

/-- E is read as 64 bits in F128 and absent otherwise (R178, R179). -/
def notBeforeUse (f : Fields) : Use := if f.form = .f128 then .s64 else .none

/-- E is read as 32 bits in F128 and absent otherwise. -/
def eUse (f : Fields) : Use := if f.form = .f128 then .s32 else .none

def shapeBare (f : Fields) : Shape := { m := f.m = 0, x := f.x = 0 }

def shapeA32 (f : Fields) : Shape := { a := .s32, m := f.m = 0, x := f.x = 0 }

def shapeA64 (f : Fields) : Shape := { a := .s64, m := f.m = 0, x := f.x = 0 }

/-- Result register, 32-bit A. -/
def shapeDA (f : Fields) (mask : Nat) : Shape :=
  { d := .reg, a := .s32, m := only f.m mask, x := f.x = 0, pushes := 1 }

/-- Result register, 32-bit A and B. -/
def shapeDAB (f : Fields) (mask : Nat) : Shape :=
  { d := .reg, a := .s32, b := .s32, m := only f.m mask, x := f.x = 0, pushes := 1 }

/-- Result register, 32-bit A, B and C. -/
def shapeDABC (f : Fields) (mask : Nat) : Shape :=
  { d := .reg, a := .s32, b := .s32, c := .s32, m := only f.m mask, x := f.x = 0, pushes := 1 }

/-- Rounding codes 0 to 3 in M[2:0] (R190, R194, R195). -/
def roundOk (f : Fields) : Bool := bits f.m 0 3 ≤ 3

/-- `.UNIT` and `.SYM` are not both set (R190). -/
def clampOk (f : Fields) : Bool := !(bit f.m 3 && bit f.m 9)

/-- The overflow mode of IADD (R181): 3 is reserved. -/
def overflowOk (f : Fields) : Bool := only f.m 3 && f.m ≠ 3

/-- Ordering code at most 6 and class at most 2 (R214). -/
def orderOk (f : Fields) : Bool := bits f.m 5 3 ≤ 6 && bits f.m 2 2 ≤ 2

/-- Register count of a vault access width (R212), 1 for widths up to 32 bits. -/
def vaultWords (w : Nat) : Nat := if w = 3 then 2 else if w = 4 then 4 else 1

/-- D for `n` words: a register, a pair or a run. -/
def dWords (n : Nat) : DUse := if n = 1 then .reg else if n = 2 then .pair else .run n

/-- A source of `n` words. -/
def useWords (n : Nat) : Use := if n = 1 then .s32 else if n = 2 then .s64 else .run n

/-- Element count of an AREAD or AWRITE width code (R276). -/
def tileWords (w : Nat) : Nat := if w = 0 then 1 else if w = 1 then 4 else 8

/-- A BF16-pair instruction (R194). -/
def shapeH2 (f : Fields) (mask : Nat) (c : Use) : Shape :=
  { d := .reg, a := .s32, b := .s32, c := c, m := only f.m mask && roundOk f, x := f.x = 0, pushes := 1 }

/-! ## One shape per instruction, in the order of the opcode map -/

def shapeBra (f : Fields) : Shape := { shapeBare f with f64 := false, ownImm := true }

def shapeCall (f : Fields) : Shape :=
  { f64 := false, d := .pair, m := f.m = 0, x := f.x = 0, ownImm := true, pushes := 2 }

def shapeCallx (f : Fields) : Shape := { d := .pair, a := .s64, m := f.m = 0, x := f.x = 0, pushes := 2 }

def shapeTrap (f : Fields) : Shape := { a := .s32, m := only f.m 1, x := f.x = 0 }

def shapeLaunch (f : Fields) : Shape :=
  { f128 := true, d := .reg, a := .s64, b := .s32, e := notBeforeUse f, m := f.m = 0, x := f.x = 0,
    pushes := 1 }

def shapeAmsend (f : Fields) : Shape :=
  { f128 := true, a := .s32, b := .s64, c := .seq (bits f.m 3 6 + 1), e := notBeforeUse f,
    m := only f.m 0x1FF && bits f.m 0 2 ≠ 3, x := f.x = 0 }

def shapeAddSub (f : Fields) : Shape := { shapeDAB f 3 with m := overflowOk f }

def shapeAddSub64 (f : Fields) : Shape :=
  { d := .pair, a := .s64, b := .s64, m := overflowOk f, x := f.x = 0, pushes := 2 }

def shapeImadw (f : Fields) : Shape :=
  { d := .pair, a := .s32, b := .s32, c := .s64, m := only f.m 1, x := f.x = 0, pushes := 2 }

def shapeLea (f : Fields) : Shape :=
  { d := .pair, a := .s64, b := .s32, m := only f.m 0xF, x := f.x = 0, pushes := 2 }

def shapeSel (f : Fields) : Shape := { shapeDAB f 1 with c := .pred }

def shapeMov (f : Fields) : Shape :=
  { d := if bit f.m 0 then .pair else .reg, a := if bit f.m 0 then .s64 else .s32, m := only f.m 1,
    x := f.x = 0, pushes := if bit f.m 0 then 2 else 1 }

def shapeMovi (f : Fields) : Shape :=
  { f64 := false, d := if bit f.m 0 then .pair else .reg, m := only f.m 1, x := f.x = 0, ownImm := true,
    pushes := if bit f.m 0 then 2 else 1 }

def shapeIcmp (f : Fields) (u : Use) : Shape :=
  { d := .preds, a := u, b := u, m := only f.m 0x7F && bits f.m 3 3 ≤ 5, x := f.x = 0 }

def shapePlop (f : Fields) : Shape :=
  { d := .preds, a := .pred, b := .pred, c := .pred, m := only f.m 0xFF, x := f.x = 0 }

def shapePpack (f : Fields) : Shape := { d := .reg, m := f.m = 0, x := f.x = 0, pushes := 1 }

def shapePset (f : Fields) : Shape := { a := .s32, m := only f.m 0xFE, x := f.x = 0 }

def shapeFarith (f : Fields) : Shape :=
  { shapeDAB f 0x2FF with m := only f.m 0x2FF && roundOk f && clampOk f }

def shapeFfma (f : Fields) : Shape := { shapeDABC f 0x3FF with m := roundOk f && clampOk f }

def shapeFrnd (f : Fields) : Shape := { shapeDA f 0x037 with m := only f.m 0x037 && roundOk f }

def shapeSfu (f : Fields) : Shape := { shapeDA f 0x238 with m := only f.m 0x238 && clampOk f }

def shapeFcmp (f : Fields) : Shape :=
  { d := .preds, a := .s32, b := .s32, m := only f.m 0x1FF && bits f.m 3 4 ≤ 13, x := f.x = 0 }

def shapeF2i (f : Fields) : Shape := { shapeDA f 0xF with m := only f.m 0xF && roundOk f }

def shapeI2f (f : Fields) : Shape :=
  { d := .reg, a := if bit f.m 4 then .s64 else .s32, m := only f.m 0x1F && roundOk f, x := f.x = 0,
    pushes := 1 }

def shapeCvt (f : Fields) : Shape := shapeDABC f 0x7F

def shapeCvtp (f : Fields) : Shape := { shapeDABC f 0xF with c := .opt32 }

def shapeWshfl (f : Fields) : Shape :=
  { d := .reg, a := .s32, b := if bits f.m 0 2 = 3 then .none else .s32,
    m := only f.m 0x1F && bits f.m 2 3 ≤ 5, x := f.x = 0, pushes := 1 }

def shapeWvote (f : Fields) : Shape := { shapeDA f 7 with m := only f.m 7 && bits f.m 0 3 ≤ 5 }

def shapeWredux (f : Fields) : Shape :=
  { shapeDA f 0x1F with m := only f.m 0x1F && bits f.m 0 4 ≤ 10 && f.m ≠ 0x18 }

def shapeLdv (f : Fields) : Shape :=
  { d := dWords (vaultWords (bits f.m 0 3)), a := .s32, b := .s32, m := only f.m 7 && bits f.m 0 3 ≤ 4,
    x := f.x = 0, long := true, pushes := vaultWords (bits f.m 0 3) }

def shapeStv (f : Fields) : Shape :=
  { a := .s32, b := useWords (vaultWords (bits f.m 0 3)), c := .s32, m := only f.m 7 && bits f.m 0 3 ≤ 4,
    x := f.x = 0 }

def shapeLd (f : Fields) : Shape :=
  { d := dWords (vaultWords (bits f.m 0 2)), a := .s64, b := .s32, m := only f.m 0xFF && orderOk f,
    x := f.x = 0, long := true, pushes := vaultWords (bits f.m 0 2) }

def shapeLdl (f : Fields) : Shape :=
  { d := .run (if bits f.m 0 2 = 1 then 8 else 4), a := .s64, b := .s32,
    m := only f.m 0xFF && orderOk f && bits f.m 0 2 ≤ 1, x := f.x = 0, long := true,
    pushes := if bits f.m 0 2 = 1 then 8 else 4 }

def shapeSt (f : Fields) : Shape :=
  { a := .s64, b := useWords (vaultWords (bits f.m 0 2)), c := .s32,
    m := orderOk f && (bits f.m 8 2 = 0 || bits f.m 5 3 ≠ 0), x := f.x = 0 }

/-- The operation, width and class of an atomic are assigned values (R216). -/
def atomOk (f : Fields) : Bool :=
  bits f.m 0 4 ≤ 11 && !(bit f.m 4 && (bits f.m 0 4 = 8 || bits f.m 0 4 = 9))
    && bits f.m 5 2 ≤ 2 && bits f.m 7 3 ≤ 6

def shapeAtom (f : Fields) : Shape :=
  let w : Use := if bit f.m 4 then .s64 else .s32
  { d := if bit f.m 4 then .pair else .reg, a := .s64, b := w, c := if bits f.m 0 4 = 7 then w else .none,
    m := atomOk f, x := f.x = 0, long := true, pushes := if bit f.m 4 then 2 else 1 }

def shapeRed (f : Fields) : Shape :=
  { a := .s64, b := if bit f.m 4 then .s64 else .s32,
    m := atomOk f && bits f.m 0 4 ≠ 6 && bits f.m 0 4 ≠ 7, x := f.x = 0 }

def shapeFence (f : Fields) : Shape :=
  { m := only f.m 0xFF && bits f.m 0 2 ≤ 2 && 1 ≤ bits f.m 2 3 && bits f.m 2 3 ≤ 6
      && (if bits f.m 0 2 = 2 then bits f.m 5 3 = 0 else bits f.m 5 3 ≠ 0), x := f.x = 0 }

def shapePref (f : Fields) : Shape :=
  { a := .s64, b := .s32, m := only f.m 0x1C && bits f.m 2 2 ≤ 2, x := f.x = 0 }

def shapeBufdecl (f : Fields) : Shape :=
  { a := .s32, b := .s32, c := .s32, m := only f.m 1, x := f.x = 0 }

def shapeBufset (f : Fields) : Shape := { a := .s32, m := only f.m 1, x := f.x = 0 }

def shapeBufq (f : Fields) : Shape :=
  { d := .pair, a := .s32, m := only f.m 1, x := f.x = 0, long := true, pushes := 2 }

/-- XCOPY and XDRAIN (R231). -/
def shapeXcopy (f : Fields) : Shape :=
  { f64 := false, f96 := false, f128 := true, d := .pair,
    a := if bit f.x 2 then .s32 else .s64, b := if bit f.x 3 then .s32 else .s64, c := .s32, e := .s32,
    f := if bit f.m 0 then .s32 else .none, m := only f.m 1, x := only f.x 0x7FF && bits f.x 0 2 ≤ 2,
    pushes := 2 }

def shapeXdrain (f : Fields) : Shape :=
  { shapeXcopy f with x := only f.x 0x7E7 && bits f.x 0 2 ≤ 2 }

def shapeXgath (f : Fields) : Shape :=
  { f64 := false, f96 := false, f128 := true, d := .pair, a := .s64, b := .s32, c := .s32, e := .s32,
    f := .s32, m := f.m = 0, x := bits f.x 0 2 ≤ 2, pushes := 2 }

def shapeXfill (f : Fields) : Shape :=
  { f128 := true, d := .pair, a := if bit f.m 2 then .s32 else .s64, b := .s32, c := .s32, e := eUse f,
    m := only f.m 0x1FF && bits f.m 0 2 ≤ 2, x := f.x = 0, pushes := 2 }

def shapeXstat (f : Fields) : Shape := { shapeDA f 0 with long := true }

def shapeXwait (f : Fields) : Shape := { d := .reg, a := .s64, m := only f.m 1, x := f.x = 0, pushes := 1 }

def shapeLtexp (f : Fields) : Shape := { a := .s32, b := .s32, m := only f.m 1, x := f.x = 0 }

def shapeAB (f : Fields) : Shape := { a := .s32, b := .s32, m := f.m = 0, x := f.x = 0 }

/-- LTTRY and PHTRY (R224, R241). -/
def shapeTry (f : Fields) : Shape := shapeDABC f 7

def shapePhreg (f : Fields) : Shape := { shapeDA f 3 with m := only f.m 3 && f.m ≠ 3 }

def shapeRdcap (f : Fields) : Shape :=
  { d := if bit f.m 3 then .pair else .run 16, a := .s32, m := only f.m 0x3F, x := f.x = 0, pushes := if bit f.m 3 then 1 else 17 }

def shapeRdrmw (f : Fields) : Shape :=
  let op := bits f.m 3 3
  { f128 := true, d := if bit f.m 7 then .pair else .none, a := .s32,
    b := if op = 7 then .run 16 else .s64, c := if op = 4 then .s64 else .none, e := eUse f,
    m := (!bit f.m 6 || op = 1 || op = 2) && (f.form ≠ .f128 || op = 7), x := f.x = 0,
    pushes := if bit f.m 7 then 3 else 0 }

def shapeRdboard (f : Fields) : Shape :=
  { a := .s32, b := .run 16, m := only f.m 3, x := f.x = 0, pushes := 1 }

def shapeRdalight (f : Fields) : Shape :=
  { d := .run 16, a := .s32, m := only f.m 3, x := f.x = 0, pushes := 17 }

/-- A result register and no source. -/
def shapeDOnly (f : Fields) : Shape := { d := .reg, m := f.m = 0, x := f.x = 0, pushes := 1 }

def shapeOload (f : Fields) : Shape :=
  { a := .s32, b := .s32, c := .s32, m := only f.m 0xF, x := f.x = 0 }

def shapeLayset (f : Fields) : Shape := { a := .s32, b := .run 8, m := f.m = 0, x := f.x = 0 }

def shapeMsign (f : Fields) : Shape := { a := .s32, m := only f.m 0xF, x := f.x = 0 }

def shapeMma (f : Fields) : Shape :=
  { shapeDABC f 0x3FF with f128 := true, e := eUse f, m := bit f.m 4 || bits f.m 5 4 = 0 }

def shapeMtrans (f : Fields) : Shape := { d := .reg, a := .s32, c := .s32, m := only f.m 7, x := f.x = 0, pushes := 1 }

def shapeMrsum (f : Fields) : Shape := { shapeMtrans f with m := only f.m 0xF }

def shapeAread (f : Fields) : Shape :=
  { d := dWords (tileWords (bits f.m 0 2)), a := .s32, m := only f.m 3 && f.m ≠ 3, x := f.x = 0, long := true,
    pushes := tileWords (bits f.m 0 2) }

def shapeAdrain (f : Fields) : Shape := { shapeDABC f 0xF with c := .opt32 }

def shapeAwrite (f : Fields) : Shape :=
  { a := .s32, b := useWords (tileWords (bits f.m 0 2)), m := only f.m 3 && f.m ≠ 3, x := f.x = 0 }

/-- QBLK and QRES (R258): the value is one register or, with `.X4`, a run of 4. -/
def shapeQuant (f : Fields) (c : Use) : Shape :=
  { d := .pair, a := if bit f.m 3 then .run 4 else .s32, b := .s32, c := c, m := only f.m 0xF, x := f.x = 0,
    pushes := 2 }

def shapeDesc (f : Fields) : Shape :=
  { f64 := false, f96 := false, f128 := true, d := .reg, a := .s32, b := .s32, c := .s32, e := .s32, f := .opt32,
    m := f.m = 0, x := f.x = 0, pushes := 1 }

def shapePtread (f : Fields) : Shape := { shapeDA f 0 with long := true }

def shapeNodea (f : Fields) : Shape :=
  { d := .pair, a := .s64, b := .s32, c := .s32, m := only f.m 1, x := f.x = 0, pushes := 2 }

def shapeDgrad (f : Fields) : Shape := { shapeDABC f 0 with f128 := true, e := eUse f }

def shapeCwarm (f : Fields) : Shape :=
  { d := .pair, a := .s64, b := .s32, m := f.m = 0, x := f.x = 0, pushes := 2 }

def shapeCwstat (f : Fields) : Shape :=
  { d := .pair, a := .s64, m := f.m = 0, x := f.x = 0, long := true, pushes := 2 }

def shapeCsrw (f : Fields) : Shape := { shapeDAB f 3 with m := only f.m 3 && f.m ≠ 3 }

def shapeTlbinv (f : Fields) : Shape :=
  { a := .s64, b := .s32, c := .s32, m := only f.m 3 && f.m ≠ 3, x := f.x = 0 }

def shapeSnap (f : Fields) : Shape := { d := .pair, m := f.m = 0, x := f.x = 0, pushes := 2 }

def shapeSvcrecv (f : Fields) : Shape := { d := .mustRun 8, m := f.m = 0, x := f.x = 0 }

def shapeSvcreply (f : Fields) : Shape := { a := .s32, b := .s64, m := only f.m 1, x := f.x = 0 }

end Sys2Proof
end

