-- ==== Sys2Proof/Machine/Numbers.lean ====
section
/-! DEFINITION. Number formats and arithmetic of 03_numbers: exact dyadic values, rounding (R66-R69),
the IEEE and OCP formats (R58), the tapered formats (R62-R67), and conversions. -/

namespace Sys2Proof

/-- A value of a format, exact: a NaN, an infinity, or (-1)^neg × m × 2^e. A zero keeps its sign. -/
inductive FVal where
  | nan
  | inf (neg : Bool)
  | fin (neg : Bool) (m : Nat) (e : Int)
  deriving DecidableEq, Repr

/-- Rounding modes, in the order of their codes (R66). -/
inductive Mode where
  | rne | rtz | rdn | rup | rsr
  deriving DecidableEq, Repr

def Mode.ofCode (c : Nat) : Mode :=
  if c = 0 then .rne else if c = 1 then .rtz else if c = 2 then .rdn else if c = 3 then .rup else .rsr

/-- An IEEE-like format (R58): exponent and fraction bits, and whether it has infinities. -/
structure Fmt where
  ebits : Nat
  fbits : Nat
  hasInf : Bool
  deriving DecidableEq, Repr

def fp32 : Fmt := ⟨8, 23, true⟩
def bf16 : Fmt := ⟨8, 7, true⟩
def fp16 : Fmt := ⟨5, 10, true⟩
def e4m3 : Fmt := ⟨4, 3, false⟩
def e5m2 : Fmt := ⟨5, 2, true⟩

def Fmt.bias (f : Fmt) : Int := 2 ^ (f.ebits - 1) - 1

/-- The exponent of the least significant bit of a subnormal. -/
def Fmt.emin (f : Fmt) : Int := 1 - f.bias - f.fbits

/-- The sign bit's weight. -/
def Fmt.top (f : Fmt) : Nat := 2 ^ (f.ebits + f.fbits)

/-- The magnitude code of infinity, or in E4M3 the code of its NaN. -/
def Fmt.infCode (f : Fmt) : Nat :=
  if f.hasInf then (2 ^ f.ebits - 1) * 2 ^ f.fbits else f.top - 1

/-- The default NaN (R58). -/
def Fmt.nanCode (f : Fmt) : Nat :=
  if f = e5m2 then 0x7F
  else if f.hasInf then f.infCode + 2 ^ (f.fbits - 1) else f.top - 1

/-- The value of a code (R58). -/
def Fmt.decode (f : Fmt) (c : Nat) : FVal :=
  let neg := c / f.top % 2 = 1
  let mag := c % f.top
  let ex := mag / 2 ^ f.fbits
  let fr := mag % 2 ^ f.fbits
  if mag = f.infCode ∧ f.hasInf then .inf neg
  else if f.infCode ≤ mag then .nan
  else if ex = 0 then .fin neg fr f.emin
  else .fin neg (2 ^ f.fbits + fr) (f.emin + ex - 1)

/-- `m × 2^e` brought to a multiple of 2^q: the quotient, and the remainder over 2^k. -/
def scaleTo (m : Nat) (e q : Int) : Nat × Nat × Nat :=
  if q ≤ e then (m <<< (e - q).toNat, 0, 0)
  else
    let k := (q - e).toNat
    (m >>> k, m % 2 ^ k, k)

/-- Whether a magnitude between two neighbours goes to the larger one (R66); `rem / 2^k` is the part
above the smaller, `even` tells that the smaller has last bit 0, `u` are the bits of RSR (R69). -/
def roundsUp (mode : Mode) (neg even : Bool) (rem k u : Nat) : Bool :=
  if rem = 0 then false
  else match mode with
    | .rne => if 2 * rem = 2 ^ k then !even else decide (2 ^ k < 2 * rem)
    | .rtz => false
    | .rdn => neg
    | .rup => !neg
    | .rsr => decide (u * 2 ^ k < rem * 2 ^ 24)

/-- The overflow result of a mode, as a magnitude code (R68). -/
def Fmt.overflow (f : Fmt) (mode : Mode) (neg satf : Bool) : Nat :=
  if satf then f.infCode - 1
  else if !f.hasInf then f.infCode
  else match mode with
    | .rtz => f.infCode - 1
    | .rdn => if neg then f.infCode else f.infCode - 1
    | .rup => if neg then f.infCode - 1 else f.infCode
    | _ => f.infCode

/-- The code of a value rounded to a format (R11, R68). -/
def Fmt.encode (f : Fmt) (mode : Mode) (satf : Bool) (u : Nat) (x : FVal) : Nat :=
  match x with
  | .nan => f.nanCode
  | .inf neg =>
    (if satf then f.infCode - 1 else f.infCode) + (if neg ∧ (f.hasInf ∨ satf) then f.top else 0)
  | .fin neg m e =>
    let sign := if neg then f.top else 0
    if m = 0 then sign
    else
      let q := max f.emin (e + Nat.log2 m - f.fbits)
      let (lo, rem, k) := scaleTo m e q
      let mag := (if roundsUp mode neg (lo % 2 = 0) rem k u then lo + 1 else lo)
        + (q - f.emin).toNat * 2 ^ f.fbits
      if f.infCode ≤ mag then
        let o := f.overflow mode neg satf
        if !f.hasInf && !satf then o else o + sign
      else mag + sign

/-- FP32 values and their rounding. -/
def f32 (w : Word) : FVal := fp32.decode w.toNat

/-- `round` to FP32 in a mode (R191). -/
def round32 (mode : Mode) (x : FVal) : Word := BitVec.ofNat 32 (fp32.encode mode false 0 x)

/-- `rne(x, FP32)` (R11). -/
def rne32 (x : FVal) : Word := round32 .rne x

def FVal.isNan : FVal → Bool
  | .nan => true
  | _ => false

def FVal.neg : FVal → FVal
  | .nan => .nan
  | .inf s => .inf (!s)
  | .fin s m e => .fin (!s) m e

def FVal.abs : FVal → FVal
  | .nan => .nan
  | .inf _ => .inf false
  | .fin _ m e => .fin false m e

/-- The signed integer of a finite value at the exponent `q`, no larger than its own. -/
def toInt (neg : Bool) (m : Nat) (e q : Int) : Int :=
  let v : Int := (m <<< (e - q).toNat : Nat)
  if neg then -v else v

/-- The exact sum (R10, R191): a zero sum is -0 when both terms are -0, and otherwise +0, or -0 with
`rdn` unless both terms are +0. -/
def FVal.add (rdn : Bool) (x y : FVal) : FVal :=
  match x, y with
  | .nan, _ | _, .nan => .nan
  | .inf a, .inf b => if a = b then .inf a else .nan
  | .inf a, _ | _, .inf a => .inf a
  | .fin a m e, .fin b n g =>
    let q := min e g
    let s := toInt a m e q + toInt b n g q
    if s = 0 then
      if m = 0 ∧ n = 0 ∧ a = b then .fin a 0 0 else .fin rdn 0 0
    else .fin (s < 0) s.natAbs q

/-- The exact product (R10). -/
def FVal.mul (x y : FVal) : FVal :=
  match x, y with
  | .nan, _ | _, .nan => .nan
  | .inf a, .inf b => .inf (a != b)
  | .inf a, .fin b n _ | .fin b n _, .inf a => if n = 0 then .nan else .inf (a != b)
  | .fin a m e, .fin b n g => .fin (a != b) (m * n) (e + g)

/-- The exact product by a power of two. -/
def FVal.scale (x : FVal) (k : Int) : FVal :=
  match x with
  | .fin s m e => .fin s m (e + k)
  | v => v

/-- The comparison of two values that are not NaN, zeros of both signs equal. -/
def FVal.cmp (x y : FVal) : Ordering :=
  match x, y with
  | .inf a, .inf b => if a = b then .eq else if a then .lt else .gt
  | .inf a, _ => if a then .lt else .gt
  | _, .inf b => if b then .gt else .lt
  | .fin a m e, .fin b n g =>
    let q := min e g
    compare (toInt a m e q) (toInt b n g q)
  | _, _ => .eq

def FVal.lt (x y : FVal) : Bool := !x.isNan && !y.isNan && x.cmp y = .lt

def FVal.eq (x y : FVal) : Bool := !x.isNan && !y.isNan && x.cmp y = .eq

/-- The sign of a value; a NaN has none. -/
def FVal.signNeg : FVal → Bool
  | .nan => false
  | .inf s => s
  | .fin s _ _ => s

/-- The default NaN of FP32. -/
def nan32 : Word := 0x7FC00000

/-- A NaN word becomes the default NaN; any other word stays. -/
def quiet32 (w : Word) : Word := if (f32 w).isNan then nan32 else w

/-- The smaller of two FP32 words, -0 below +0 (R191). -/
def fmin32 (a b : Word) : Word :=
  if (f32 a).isNan then quiet32 b
  else if (f32 b).isNan then a
  else match (f32 a).cmp (f32 b) with
    | .lt => a
    | .gt => b
    | .eq => if (f32 a).signNeg then a else b

/-- The larger of two FP32 words, +0 above -0 (R191). -/
def fmax32 (a b : Word) : Word :=
  if (f32 a).isNan then quiet32 b
  else if (f32 b).isNan then a
  else match (f32 a).cmp (f32 b) with
    | .lt => b
    | .gt => a
    | .eq => if (f32 a).signNeg then b else a

/-- `rne(a + b, FP32)` of two words. -/
def fadd32 (a b : Word) : Word := rne32 ((f32 a).add false (f32 b))

/-- The integer that a finite value rounds to, in sign and magnitude. -/
def roundInt (mode : Mode) (u : Nat) (neg : Bool) (m : Nat) (e : Int) : Int :=
  let (lo, rem, k) := scaleTo m e 0
  let v : Int := (if roundsUp mode neg (lo % 2 = 0) rem k u then lo + 1 else lo : Nat)
  if neg then -v else v

/-- `sat` of R12 on integers. -/
def satInt (x lo hi : Int) : Int := if x < lo then lo else if hi < x then hi else x

/-- Conversion to an integer range: round, then saturate; NaN gives 0 (R68). -/
def FVal.toRange (mode : Mode) (u : Nat) (lo hi : Int) : FVal → Int
  | .nan => 0
  | .inf s => if s then lo else hi
  | .fin s m e => satInt (roundInt mode u s m e) lo hi

/-- An integer as a value; zero is +0. -/
def FVal.ofInt (v : Int) : FVal := .fin (v < 0) v.natAbs 0

/-! ## Tapered formats -/

/-- The count of bits equal to bit `w - 1` of `body`, from the top down. -/
def tfRun (body w : Nat) : Nat :=
  let b0 := body.testBit (w - 1)
  ((List.range w).takeWhile fun i => body.testBit (w - 1 - i) = b0).length

/-- The magnitude of a non-zero body, as m × 2^e (R63). -/
def tfMag (body w : Nat) : Nat × Int :=
  let run := tfRun body w
  let k : Int := if body.testBit (w - 1) then run - 1 else -(run : Int)
  let left := w - run - 1
  let ex : Int := if 1 ≤ left ∧ body.testBit (left - 1) then 1 else 0
  let fb := left - 1
  (2 ^ fb + body % 2 ^ fb, 2 * k + ex - fb)

/-- `tf_decode` (R63); NaR is a NaN. -/
def tfDecode (c w : Nat) : FVal :=
  let s := c.testBit w
  let body := c % 2 ^ w
  if body = 0 then (if s then .nan else .fin false 0 0)
  else
    let (m, e) := tfMag body w
    .fin s m e

/-- `m1 × 2^e1 ≤ m2 × 2^e2`. -/
def dyadicLe (m1 : Nat) (e1 : Int) (m2 : Nat) (e2 : Int) : Bool :=
  let q := min e1 e2
  m1 <<< (e1 - q).toNat ≤ m2 <<< (e2 - q).toNat

/-- The largest body whose value is at most the magnitude; body 0 is the value zero (R67). -/
def tfFloor (w m : Nat) (e : Int) : Nat :=
  ((List.range (2 ^ w)).takeWhile fun b =>
    b = 0 || (let (bm, be) := tfMag b w; dyadicLe bm be m e)).length - 1

/-- `tf_encode` (R67), with `u` the bits of RSR. -/
def tfEncode (w : Nat) (mode : Mode) (satf : Bool) (u : Nat) (x : FVal) : Nat :=
  let sign (s : Bool) : Nat := if s then 2 ^ w else 0
  let beyond (s : Bool) : Nat := if satf then sign s + (2 ^ w - 1) else 2 ^ w
  match x with
  | .nan => 2 ^ w
  | .inf s => beyond s
  | .fin s m e =>
    if m = 0 then 0
    else
      let (mm, me) := tfMag (2 ^ w - 1) w
      if !dyadicLe m e mm me then beyond s
      else
        let lo := tfFloor w m e
        let (lm, le) := if lo = 0 then (0, me) else tfMag lo w
        let (hm, he) := tfMag (lo + 1) w
        let q := min (min le e) he
        let v := m <<< (e - q).toNat
        let vl := lm <<< (le - q).toNat
        let vh := hm <<< (he - q).toNat
        -- the part above the lower neighbour over the whole step, as `rem` over `2^k` is not a power
        -- of two here: compare by the two distances
        let up : Bool :=
          if v = vl then false
          else match mode with
            | .rne => if 2 * (v - vl) = vh - vl then lo % 2 = 1 else decide (vh - vl < 2 * (v - vl))
            | .rtz => false
            | .rdn => s
            | .rup => !s
            | .rsr => decide (u * (vh - vl) < (v - vl) * 2 ^ 24)
        let body := if up then lo + 1 else lo
        if body = 0 then 0 else sign s + body

/-! ## Format codes (R70) -/

/-- The width in bits of a format code's element in a register (R61). -/
def fmtBits (code : Nat) : Nat :=
  if code = 0 then 32 else if code = 1 ∨ code = 2 then 16 else 8

/-- The value of an element of a format code. -/
def fmtDecode (code v : Nat) : FVal :=
  match code with
  | 0 => fp32.decode v
  | 1 => bf16.decode v
  | 2 => fp16.decode v
  | 3 => tfDecode (v % 256) 7
  | 4 => tfDecode (v % 64) 5
  | 5 => e4m3.decode v
  | 6 => e5m2.decode v
  | _ => .ofInt (BitVec.ofNat 8 v).toInt

/-- The code of a value in a format (R67, R68). -/
def fmtEncode (code : Nat) (mode : Mode) (satf : Bool) (u : Nat) (x : FVal) : Nat :=
  match code with
  | 0 => fp32.encode mode satf u x
  | 1 => bf16.encode mode satf u x
  | 2 => fp16.encode mode satf u x
  | 3 => tfEncode 7 mode satf u x
  | 4 => tfEncode 5 mode satf u x
  | 5 => e4m3.encode mode satf u x
  | 6 => e5m2.encode mode satf u x
  | _ => (BitVec.ofInt 8 (x.toRange mode u (-128) 127)).toNat

/-- The default NaN of a format, NaR for the tapered ones (R58, R75). -/
def fmtNan (code : Nat) : Nat := fmtEncode code .rne false 0 .nan

/-- Bytes of a row of `n` elements in memory (R61): TF6 packs four to three bytes. -/
def fmtRowBytes (code n : Nat) : Nat :=
  if code = 4 then n * 3 / 4 else n * (fmtBits code / 8)

/-- The 24 bits of `rsr_bits` (R69). -/
def rsrBits (seed : DWord) (idx : Nat) : Nat :=
  let z := seed ^^^ (BitVec.ofNat 64 idx * 0x9E3779B97F4A7C15#64)
  let z := (z ^^^ (z >>> 30)) * 0xBF58476D1CE4E5B9#64
  let z := (z ^^^ (z >>> 27)) * 0x94D049BB133111EB#64
  let z := z ^^^ (z >>> 31)
  bits z 40 24

/-- The split order of R80 over a list: S(i..j) = S(i..m) + S(m+1..j), the left part the largest
power of two below the length. `fuel` bounds the depth. -/
def splitSum {α : Type} (op : α → α → α) : Nat → List α → Option α
  | _, [] => none
  | _, [a] => some a
  | 0, a :: _ => some a
  | fuel + 1, xs =>
    let h := 2 ^ Nat.log2 (xs.length - 1)
    match splitSum op fuel (xs.take h), splitSum op fuel (xs.drop h) with
    | some a, some b => some (op a b)
    | a, none => a
    | none, b => b

end Sys2Proof
end

