-- ==== Sys2Proof/Machine/State.lean ====
section
/-! DEFINITION. The state of one ZK-8256 package as plain data, its reset state, and the two closed
lists of reasons for which the model stops. Cores are numbered over the package: core c of die d is
32 d + c. -/

namespace Sys2Proof.Machine

open Sys2Proof

/-- Why the machine stops with a fault. -/
inductive Fault where
  /-- Raised by `exec` of a processor instruction at a state in which no issue group stands at one
  (R17, R25). `step` never raises it. Safe: the part has no such step. -/
  | noIssueGroup
  /-- Raised by `exec` of a collective instruction at a state in which no executor runs an
  invocation (R301). `step` never raises it. Safe: the part has no such step. -/
  | noInvocation
  deriving DecidableEq, Repr

/-- Why the machine refuses an instruction. -/
inductive Refusal where
  /-- Raised by a dispatch arm whose instruction has no meaning yet. Safe. -/
  | notModelled (mnemonic : String)
  deriving DecidableEq, Repr

/-- A sparse table of words or bytes by key: keys strictly rising, and no entry that holds what an
unlisted key reads as. -/
abbrev Sparse (α : Type) := List (Nat × α)

/-! ## Threads -/

/-- The trap causes of R374. -/
inductive Cause where
  | illOpc | illFetch | illegal | lookahead | priv | translation | permission | poison
  | vaultBounds | vaultState | copyDesc | copyLate | growDeadlock | msignMismatch | ringFull
  | matrixCheck | trap | bkpt
  deriving DecidableEq, Repr

/-- A trap that a thread is to take (R371, R372). `seq` is the place of its instruction in the
wave's program order. -/
structure TrapReq where
  cause : Cause
  epc : DWord
  eval : DWord
  imp : Bool
  toSys : Bool
  seq : Nat
  deriving DecidableEq, Repr

/-- A trap set of R373, but for TVEC. `ecause` is kept as its fields. -/
structure TrapSet where
  epc : DWord
  inTrap : Bool
  plev : BitVec 2
  imp : Bool
  code : Byte
  eval : DWord
  esav : List Word
  deriving DecidableEq, Repr

/-- An entry of the result queue (R37): a value, or word `k` of the pending result `id` (R50). -/
inductive QEntry where
  | val (w : Word)
  | pend (id k : Nat)
  deriving DecidableEq, Repr

/-- A latch by its place: the workgroup whose allocation holds it, and the offset (R85, R222). -/
structure LatchRef where
  wg : Nat
  off : Nat
  deriving DecidableEq, Repr

/-- A phaser by its place (R239): level code, owner (workgroup, gang, die; zero for PKG and POD) and
index. -/
structure PhaserRef where
  level : Nat
  owner : Nat
  index : Nat
  deriving DecidableEq, Repr

/-- A translation in a TLB (R364): the leaf's level and entry, its first virtual page, and the tag,
none for a global or upper-half leaf. -/
structure TlbEntry where
  tag : Option Nat
  level : Nat
  va : Nat
  leaf : DWord
  deriving DecidableEq, Repr

/-- What a parked thread waits for (R209), with what it does at the end. -/
inductive Park where
  /-- SLEEP and SLEEPTO, until PCC reaches the deadline (R174). -/
  | sleep (deadline : Nat)
  /-- WSYNC with its lane mask (R176). -/
  | wsync (mask : Word)
  /-- LTWAIT (R224). -/
  | ltwait (latch : LatchRef) (w : Word)
  /-- LTTRY with its deadline, predicate target and D register (R224). -/
  | lttry (latch : LatchRef) (w : Word) (deadline : Nat) (pred : Nat) (d : Option Nat)
  /-- PHWAIT (R241). -/
  | phwait (ph : PhaserRef) (w : Word)
  /-- PHTRY (R241). -/
  | phtry (ph : PhaserRef) (w : Word) (deadline : Nat) (pred : Nat) (d : Option Nat)
  /-- PHSIG that waits to signal the phase after the open one (R241). -/
  | phsig (ph : PhaserRef) (phase : Word) (d : Option Nat)
  /-- PHNEXT; `signalled` tells whether its signal is given (R241). -/
  | phnext (ph : PhaserRef) (phase : Word) (signalled : Bool) (d : Option Nat)
  /-- XWAIT on a copy number, with the promised time bits and `.NT` (R235). -/
  | xwait (number : Nat) (time : Nat) (nt : Bool) (d : Option Nat)
  /-- RGROW of `g` blocks, by the execution at place `seq`, issued in clk `at_` (R52, R242). -/
  | rgrow (g seq at_ : Nat) (d : Option Nat)
  /-- A ring operation that returns a value (R249). -/
  | ring (op : Nat)
  /-- RDFENCE (R252). -/
  | rdfence (d : Option Nat)
  /-- OCLAIM of the slots of a mask (R261). -/
  | oclaim (mask : DWord) (order : Nat)
  /-- OFENCE, until the OLOADs up to `last` of the wave have written their slots; `order` tells its execution (R264). -/
  | ofence (last order : Nat) (d : Option Nat)
  /-- MWAIT on a ticket (R257). -/
  | mwait (ticket : BitVec 16) (d : Option Nat)
  /-- MMA `.J`, having signed a convergence register (R268). -/
  | sign (cv : Nat) (d : Option Nat)
  /-- KNOCK for tokens of a class (R271). -/
  | knock (cls count order : Nat) (d : Option Nat)
  /-- CWARM waiting for the Scegus die, by its number and the translation used (R299). -/
  | cwarm (va : DWord) (window : Nat) (latch : LatchRef) (id : Nat) (via : Option TlbEntry) (d : Option Nat)
  /-- SVCRECV (R206). -/
  | svcrecv (d : Nat)
  /-- AMSEND whose packet met a full message queue (R31). -/
  | amsend (msg : Nat)
  deriving DecidableEq, Repr

/-- The run state of a thread (R25, R172, R207, R209). -/
inductive Run where
  | running
  /-- Parked at an instruction of `len` bytes. -/
  | parked (p : Park) (len : Nat)
  /-- Halted with a code; GO resumes at `resume` (R207, R378). -/
  | halted (code : Word) (resume : DWord)
  | exited
  deriving DecidableEq, Repr

/-- What a pending long-latency instruction reads (R49). -/
inductive Access where
  /-- Vault bytes of an allocation (R213). -/
  | vault (wg off len : Nat)
  /-- Global bytes, with their path (R215) and the translation used. -/
  | global (pa len : Nat) (va : DWord) (route : Route) (direct : Bool) (acq : Option Scope) (via : Option TlbEntry)
  /-- An atomic on its way or at its service wave (R217). -/
  | atomic (va : DWord) (acq : Bool)
  /-- BUFQ `.B` of a buffer number (R221). -/
  | bufqB (n : Nat)
  /-- BUFQ `.L` of a latch (R221). -/
  | bufqL (latch : LatchRef)
  /-- XSTAT of a copy number (R236). -/
  | xstat (n : Nat)
  /-- CWSTAT of a window, named by a virtual address, with the translation used (R300). -/
  | cwstat (window : Nat) (va : DWord) (via : Option TlbEntry)
  /-- AREAD of a tile position, with the words there at its issue (R276). -/
  | aread (tile row col : Nat) (old : List Word)
  /-- PTREAD of a path trace, with what it held at issue (R286). -/
  | ptread (i : Nat) (old : Word)
  deriving DecidableEq, Repr

/-- A pending long-latency result (R50): its lookahead window, its destination (none when D is NONE), the queue
entries that its push moved out, its words once performed, and how many of them its destination still receives (R53). -/
structure Pending where
  id : Nat
  seq : Nat
  pc : DWord
  left : Nat
  dst : Option Nat
  words : Nat
  access : Access
  lost : List QEntry
  value : Option (List Word)
  kept : Nat := words
  deriving DecidableEq, Repr

/-- A thread (R25, R35, R37, R42, R44, R50, R252, R373). What ends a park writes only registers below `cut`: those above
were in blocks that its wave has returned since (R53); `missAt` is where its access met a TLB miss (R321). -/
structure Thread where
  pc : DWord
  level : Level
  regs : Sparse Word
  queue : List QEntry
  preds : BitVec 8
  pcc : Option DWord
  pass : Nat
  run : Run
  due : Option TrapReq
  pending : List Pending
  super : TrapSet
  sys : TrapSet
  failAlighted : Bool
  failMissing : Bool
  cut : Nat := 248
  missAt : Option DWord := none
  deriving DecidableEq, Repr

/-! ## Waves, store queues, traffic in flight -/

/-- A request to a service wave (R206): the operation, its address and operands, the requester, and
what a release or acquire mark asks (R123). `via` is the translation used; `reply` is the package, channel
and tag of a request from a peer; `origin` is its agent, once it has left its core. -/
structure SvcReq where
  id : Nat
  ret : Bool
  signed : Bool
  wide : Bool
  op : Nat
  pa : Nat
  va : DWord
  operand : DWord
  compare : DWord
  core : Nat
  wave : Nat
  lane : Nat
  seq : Nat
  route : Route
  scope : Option Scope
  via : Option TlbEntry
  reply : Option (Nat × Nat × Nat)
  origin : Option Origin := none
  deriving DecidableEq, Repr

/-- A message in its sender's queue, in flight or in a receiving queue (R179), for core `core` of
package `pkg`. `entry` is the sender's queue entry, none for a message from another package. -/
structure Message where
  id : Nat
  pkg : Nat
  core : Nat
  handler : DWord
  payload : List Word
  notBefore : Option DWord
  entry : Option Nat
  srcPkg : Nat
  part : Nat
  wave : Nat
  lane : Nat
  deriving DecidableEq, Repr

/-- A window fragment (R109, R303): `seq` is the sender's number, `port` the arrival port, `from_` the
agent core, package or endpoint that sent it, and `phase` is none from an agent. `bad` lists the poisoned bytes of
`data` (R104). -/
structure Fragment where
  window : Nat
  off : Nat
  data : List Byte
  bad : List Nat := []
  seq : Nat
  port : Nat
  from_ : Nat
  phase : Option Nat
  deriving DecidableEq, Repr

/-- What an access in a store queue or in flight does. -/
inductive Work where
  /-- A vault store (R213). -/
  | vault (wg off : Nat) (data : List Byte)
  /-- A store to DRAM, host memory or a device register of this package (R215). -/
  | store (pa : Nat) (data : List Byte) (route : Route) (direct : Bool)
  /-- A load performed at its home (R99). -/
  | load (pa len : Nat) (route : Route) (pend : Nat)
  /-- An atomic or a reduction (R217). -/
  | svc (req : SvcReq) (route : Route)
  /-- An active message (R179). -/
  | message (msg : Message) (route : Route)
  /-- A store to a window (R109). -/
  | fragment (frag : Fragment) (route : Route)
  deriving DecidableEq, Repr

/-- A release mark: its scope and its class mask, bit c for class code c (R119). -/
structure RelMark where
  scope : Scope
  mask : BitVec 3
  deriving DecidableEq, Repr

/-- An entry of a wave's store queue, or an access in flight (R114, R125). `level` is that of its thread, `via` the
translation used, `sent` the pod packet that carries it to a peer package, and `residual` tells a store of residuals
(R279). -/
structure Access1 where
  id : Nat
  wave : Nat
  core : Nat
  lane : Nat
  seq : Nat
  origin : Origin
  rel : Option RelMark
  level : Level
  via : Option TlbEntry
  sent : Option Nat
  work : Work
  residual : Bool := false
  deriving DecidableEq, Repr

/-- What a wave runs for (R23, R29, R31). -/
inductive WaveKind where
  | user
  | service
  /-- A handler of a message: the launch words come from the entry, if any. -/
  | handler (entry : Option Nat) (part : Nat)
  deriving DecidableEq, Repr

/-- A wave (R17, R35, R46, R114, R173, R242). -/
structure Wave where
  id : Nat
  core : Nat
  slot : Nat
  kind : WaveKind
  wg : Nat
  index : Nat
  blocks : Nat
  threads : List Thread
  interval : BitVec 31
  resident : Bool
  store : List Access1
  seq : Nat
  lastIssue : Nat
  yieldUntil : Nat
  haltLogged : Bool
  deriving DecidableEq, Repr

/-! ## Vault buffers, copies and engines of a workgroup -/

/-- The states of a DATA buffer (R89), numbered as R221 reads them. -/
inductive BufState where
  | empty | filling | full | draining
  deriving DecidableEq, Repr

/-- A declared buffer (R87, R91). `drains` counts the copies out in progress, and `got` lists the vault ranges written since
it began to fill. -/
structure Buffer where
  base : Nat
  len : Nat
  latch : Bool
  state : BufState
  fill : Nat
  drains : Nat
  got : List (Nat × Nat) := []
  deriving DecidableEq, Repr

/-- The kinds of copy (R227). -/
inductive CopyKind where
  | copy | tensor | gath | fill | drain
  deriving DecidableEq, Repr

/-- The status of a copy (R228, R234, R238). -/
inductive CopyState where
  | waiting
  | active
  | complete
  | failed (code : Nat)
  deriving DecidableEq, Repr

/-- An end of a copy: global, or a vault range of a workgroup. -/
inductive CopyEnd where
  | global (va : DWord)
  | vault (wg off : Nat)
  deriving DecidableEq, Repr

/-- A tensor descriptor (R229). -/
structure Tensor where
  base : DWord
  esize : Nat
  rank : Nat
  extent : List Int
  stride : List Int
  coord : List Int
  box : List Nat
  deriving DecidableEq, Repr

/-- Bytes of a copy that have left and are not all performed (R130): the packets and stores that carry them, with the
translation used (R367), and the count that its latch is owed once they are. -/
structure Owed where
  flights : List (Nat × Option TlbEntry)
  count : Nat
  deriving DecidableEq, Repr

/-- A copy taken into the engine's account (R227-R238). `lane` and `seq` place the release that
published it, `rows` holds the row bytes and `list` the index list of a GATH, `moved` lists the
destination ranges written, and `lines` the lines counted by R319. `drains` is the buffer, by workgroup and number, that
it still keeps DRAINING (R89). -/
structure Copy where
  index : Nat
  wave : Option Nat
  lane : Nat
  seq : Nat
  level : Level
  kind : CopyKind
  route : Route
  src : CopyEnd
  dst : CopyEnd
  len : Nat
  latch : Option LatchRef
  aux : Word
  notBefore : Bool
  stride : Nat
  rows : Nat
  list : Option (Nat × Nat)
  tensor : Option Tensor
  state : CopyState
  moved : List (Nat × Nat)
  token : Option Nat
  lines : List Nat
  owed : List Owed := []
  drains : Option (Nat × Nat) := none
  deriving DecidableEq, Repr

/-- An operand slot: HELD or FREE, marked for release, and its bytes (R254, R261). -/
structure OpSlot where
  held : Bool
  marked : Bool
  markTicket : BitVec 16
  bytes : Sparse Byte
  poison : List Nat
  deriving DecidableEq, Repr

/-- A tree or gradient descriptor (R281). -/
structure TreeDesc where
  base : DWord
  h : Nat
  depth : Nat
  fs : Word
  stride : Nat
  deriving DecidableEq, Repr

/-- The operation of a ticketed instruction with the values it read (R256): slot and tile numbers, the word
of the format slot, vault addresses, a descriptor with its address, the row stride E. `check` is the rotation of a
replay check (R272). -/
inductive TicketKind where
  | mma (a b tile : Nat) (fs : Word) (zero : Bool) (check : Option Nat)
  | mtrans (slot tile : Nat) (fs : Word) (check : Option Nat)
  | mperm (slot tile : Nat) (fs : Word) (perm : Word) (check : Option Nat)
  | mrsum (slot tile : Nat) (fs : Word) (col : Bool) (check : Option Nat)
  | aclr (mask : BitVec 16)
  | adrain (tile pitch : Nat) (dst : Word) (scale : Option Word) (fs : Word) (clr : Bool)
  | desc (addr : Word) (tree : TreeDesc) (x : Word) (e n : Nat) (margin : Option Word)
  | pgroup (perm hist : Word) (depth : Nat)
  | dgrad (addr : Word) (tree : TreeDesc) (x : Word) (e : Nat) (scales : Word)
  deriving DecidableEq, Repr

/-- A tile element that an AWRITE has changed under an operation that reads it: its place in the tile, its value before, and the
thread (R276, R320). -/
structure TileOld where
  at_ : Nat
  old : Word
  wave : Nat
  lane : Nat
  deriving DecidableEq, Repr

/-- A ticketed operation issued and not completed (R256), with the pane that gave its MAT token and the
level of its accesses. `before` holds its sources as they were at issue and before each write since, with what earlier
operations wrote: slots by number, or the gang's vaults by workgroup (R131, R323); `tileOld` the tile elements that AWRITEs
have changed since, with what they were and the thread (R276); `others` the physical ranges that DGRADs of other workgroups have
updated since (R288); `ran`, once it has run, what it sent that is not performed. -/
structure TicketOp where
  ticket : BitVec 16
  wave : Nat
  core : Nat
  pane : Option Nat
  level : Level
  tileSeq : Nat
  kind : TicketKind
  before : List (Nat × Sparse Byte)
  others : List (Nat × Nat)
  tileOld : List TileOld := []
  ran : Option (List (Nat × Option TlbEntry)) := none
  deriving DecidableEq, Repr

/-- An OLOAD in flight (R263): the slot, the format code, the vault chunks in slot order, and the gang's vaults as they
were at issue and before each write since, by workgroup (R131). -/
structure Oload where
  id : Nat
  wave : Nat
  slot : Nat
  chunk : Nat
  code : Nat
  from_ : List (Nat × Nat)
  before : List (Nat × Sparse Byte)
  deriving DecidableEq, Repr

/-- The fields that the first signature of a convergence register records (R268). -/
structure SignFields where
  a : Word
  b : Word
  c : Word
  m : BitVec 10
  e : Option Word
  deriving DecidableEq, Repr

/-- A convergence register that is OPEN (R267); an absent one is IDLE. -/
structure Convergence where
  n : Nat
  count : Nat
  fields : Option SignFields
  deriving DecidableEq, Repr

/-- An imprecise report (R376). -/
structure Report where
  cause : Cause
  number : Nat
  descent : Bool
  wave : Option Nat
  deriving DecidableEq, Repr

/-- Phaser membership (R240): the first phase the member takes part in, and its next unsignalled
phase. -/
structure Member where
  wave : Nat
  sig : Bool
  wait : Bool
  joined : Word
  next : Word
  deriving DecidableEq, Repr

/-- A phaser (R240). -/
structure Phaser where
  phase : Word
  members : List Member
  deriving DecidableEq, Repr

/-- A workgroup (R84-R96, R222-R238, R254-R288, R377). `vaultBase` is its range in the vault, and `seenPages` lists the
translations of destination pages that the acceptance of its copies has met (R228). `residuals` tells by element which wave's
QRES wrote it last, its identity and 2, or 1 for several (R79). `promised` lists the promises of its copies, by number and time bits, and `met` those from before its last restore (R33, R234). -/
structure Workgroup where
  id : Nat
  gang : Nat
  entry : Nat
  member : Nat
  core : Nat
  vaultBase : Nat
  vaultSize : Nat
  vault : Sparse Byte
  poison : List Nat
  buffers : List (Nat × Buffer)
  ringLen : Nat
  pub : Word
  copies : List Copy
  nslots : Nat
  slots : List (Nat × OpSlot)
  layouts : List (Nat × List Word)
  ntiles : Nat
  tiles : List (Nat × Sparse Word)
  cvs : List (Nat × Convergence)
  hasPaths : Bool
  traces : Sparse Word
  issued : BitVec 16
  done : BitVec 16
  ops : List TicketOp
  oloads : List Oload
  conflicts : Nat
  mismatched : List (BitVec 16)
  scopeMiss : Bool
  matrixCheck : Bool
  impOvf : Bool
  reports : List Report
  dbgHalt : Bool
  bulk : Nat
  drain : Nat
  coll : Nat
  phasers : List (Nat × Phaser)
  residuals : Sparse Nat := []
  seenPages : List (DWord × Nat) := []
  promised : List (Nat × Nat) := []
  met : List (Nat × Nat) := []
  deriving DecidableEq, Repr

/-! ## Gangs, entries, queues -/

/-- A ring operation's kind with its operands (R249-R251). -/
inductive RingKind where
  | cap (pair : Bool) (acq : Bool)
  | rmw (op : Nat) (unsigned ret rel : Bool) (operand compare : DWord) (payload : List Word) (mask : BitVec 16)
  | board (payload : List Word) (uniq : Bool)
  | alight (acq : Bool)
  deriving DecidableEq, Repr

/-- A ring operation in a capture table (R245): `eligible` is the clk of its eligibility once known;
`probing` tells a `.UNIQ` board that still watches. `id` is the issue order. -/
structure RingOp where
  id : Nat
  part : Nat
  core : Nat
  wave : Nat
  lane : Nat
  seq : Nat
  tag : Word
  word : Nat
  kind : RingKind
  ord : Bool
  d : Option Nat
  issuedAt : Nat
  eligible : Option Nat
  probing : Bool
  deriving DecidableEq, Repr

/-- A gang that is resident (R18, R352). `expired`: its slice has run out; `asked`: PREQ asks to save it;
`saving`: its save proceeds; `owing`: restored, its heavy tokens not yet granted (R384); `killed`: PREQ killed
it (R354). `savingAt` is the clk in which its save began; `reserved` the place and size of the frame that it is to take, or
that it has left and that is not free yet (R382, R384); `held` its withdrawn ring operations until they are reissued (R384);
`dropped` the waves that a kill has dropped, whose accesses may be on their way (R338). -/
structure Gang where
  id : Nat
  entry : Nat
  index : Nat
  base : Nat
  placedAt : Nat
  expired : Bool
  asked : Bool
  saving : Bool
  owing : Bool
  killed : Bool
  phasers : List (Nat × Phaser)
  savingAt : Nat := 0
  reserved : Option (Nat × Nat) := none
  held : List RingOp := []
  dropped : List Nat := []
  deriving DecidableEq, Repr

/-- A gang in a context frame (R381-R383), with all it holds and the frame's place. -/
structure SavedGang where
  gang : Gang
  wgs : List Workgroup
  waves : List Wave
  ringOps : List RingOp
  frame : Nat
  frameSize : Nat
  deriving DecidableEq, Repr

/-- The fields of a launch record (R330), by their byte offsets in it: 64 words. -/
structure Record where
  words : List Word
  deriving DecidableEq, Repr

/-- Completion statuses (R338). -/
inductive Status where
  | done | launchBad | noFit | depFail | killed
  deriving DecidableEq, Repr

/-- An entry that the command processor has read (R333). `eligibleAt` is set once eligible; `gangs` is
the gang count, known once eligible; `latchLast` is as in Appended; `starved` is set by PLACEMENT_STARVATION;
`status` is set when it is to complete so. `settled` lists its ENTRY dependences that are met (true) or failed (R340). -/
structure Entry where
  id : Nat
  part : Nat
  queue : Nat
  number : Nat
  record : Record
  level : Level
  launcher : Option Nat
  root : Option DWord
  gangs : Option Nat
  eligibleAt : Option Nat
  waitingSince : Option Nat
  placed : Nat
  retired : Nat
  messages : Nat
  notBefore : Option DWord
  latchLast : Option (List (Nat × Word))
  starved : Bool
  status : Option Status
  settled : List (DWord × Bool) := []
  deriving DecidableEq, Repr

/-- A record appended and not yet read: its level, the workgroup whose LAUNCH appended it, its not-before
time, and whether PREQ killed it (R178, R336, R354). `latchLast` holds the phases of that workgroup's latches
as they were last read, once it has retired (R340). -/
structure Appended where
  level : Level
  launcher : Option Nat
  notBefore : Option DWord
  latchLast : Option (List (Nat × Word))
  killed : Bool
  deriving DecidableEq, Repr

/-- A queue with its registers (R335-R337, R369, R382, R429). `appended` lists the entries appended
and not read, oldest first; `finished` the numbers, with status, completed since they entered the
last 4,096. -/
structure Queue where
  en : Bool
  ufeed : Bool
  npok : Bool
  maxPri : Nat
  depth : Nat
  slice : BitVec 16
  tail : BitVec 16
  head : BitVec 16
  ring : DWord
  done : DWord
  phal : DWord
  root : DWord
  ctx : DWord
  ctxFull : Bool
  appended : List Appended
  finished : List (Nat × Status)
  deriving DecidableEq, Repr

/-- A ring slot that is not plainly empty (R244, R247): `ghost` holds the old tag and the revolution
in which it alighted. -/
structure Slot where
  tag : Word
  payload : List Word
  ghost : Option (Word × Nat)
  deriving DecidableEq, Repr

/-- The ring of a partition (R243, R244): when it was formed and last cleared, the stations whose passage
of this clk is done (DEDUCED log 29), and its slots by the position that they held at forming. -/
structure Ring where
  formedAt : Nat
  clearedAt : Nat
  passed : List Nat
  slots : List (Nat × Slot)
  deriving DecidableEq, Repr

/-- A TLBINV (R203): its kind, operands and latch. `toDeliver` lists the dies still to receive it, and
`toAck` those still to acknowledge, with the accesses that each waits for. -/
structure Shootdown where
  id : Nat
  kind : Nat
  va : DWord
  tag : Nat
  latch : LatchRef
  wave : Nat
  lane : Nat
  toDeliver : List Nat
  toAck : List (Nat × List Nat)
  deriving DecidableEq, Repr

/-- The state of a partition number. `lastDie` and `lastPlaced` are the die and the clk of the last
placement (R343); `wasBusy` tells whether R412 found it busy at the end of the last clock. -/
structure Partition where
  queues : List (Nat × Queue)
  qsel : Nat
  preqResult : Nat
  sroot : DWord
  tvec : DWord
  pphal : DWord
  ring : Ring
  lastDie : Option Nat
  lastPlaced : Option Nat
  shootdowns : List Shootdown
  job : Option Job
  wasBusy : Bool
  deriving DecidableEq, Repr

/-! ## Cores and dies -/

/-- A pointer in a walk cache (R364). -/
structure PtrEntry where
  tag : Option Nat
  level : Nat
  va : Nat
  ptr : DWord
  deriving DecidableEq, Repr

/-- Who waits for a walk (R365): a thread standing at `pc`; a prefetch that has passed, with its class, whether it is `.DR`,
and its level (R219); or the operation `pc` of an engine for the workgroup or entry `wave`. -/
structure Waiter where
  core : Nat
  wave : Nat
  lane : Nat
  pc : DWord
  va : DWord
  engine : Bool := false
  fill : Option (Route × Bool × Level) := none
  deriving DecidableEq, Repr

/-- A walk queued or in progress (R365). -/
structure Walk where
  tag : Nat
  page : Nat
  root : DWord
  busy : Bool
  stale : Bool
  waiters : List Waiter
  deriving DecidableEq, Repr

/-- A fault in which a walk for an engine has ended, and the poisoned table entry that it met, if any (R362, R365). -/
structure WalkFail where
  who : Waiter
  tag : Nat
  cause : Cause
  table : Option Nat
  deriving DecidableEq, Repr

/-- A pane's stock of MAT tokens, by the clks at which each came, the oldest first (R350). -/
structure Stock where
  since : List Nat
  deriving DecidableEq, Repr

/-- A core: drained blocks by the results they wait for (R53), the message queue (R31), the replay
registers (R274), token stocks, TLB, fragment counts per window (R327), counters of R424. `code` is its instruction cache:
32-byte blocks of DRAM and host memory by number, as they were first fetched since it was invalidated (R142). -/
structure Core where
  draining : List (List Nat)
  messages : List Message
  tileSeq : Nat
  mchkctl : Word
  mchkcnt : Word
  mchkmis : Word
  replayFaults : List Nat
  stocks : List (Nat × Stock)
  tlb : List TlbEntry
  code : List (Nat × List Byte)
  fragSeq : Sparse Nat
  issued : Nat
  tokenStall : Nat
  deriving DecidableEq, Repr

/-- A service wave's queue, and the requests that wait at the quad's router (R29, R30); `taken` are
those removed by SVCRECV and not yet answered (R206). -/
structure Service where
  queue : List SvcReq
  waiting : List SvcReq
  taken : List SvcReq
  deriving DecidableEq, Repr

/-- A line present in a die's LLC (R97, R98, R107): whether it is awaiting its fill, whether it is
dirty, and the class of the last access that wrote it (DESIGN CHOICE log 16). For a line of a peer package, `only` tells
the only copy, and `asked` the request that is out for it. -/
structure Line where
  filling : Bool
  dirty : Bool
  cls : Route
  only : Bool := false
  asked : Option Nat := none
  deriving DecidableEq, Repr

/-- A router's sleep state (R393). -/
structure Router where
  asleep : Bool
  idleSince : Nat
  awakeUntil : Nat
  deriving DecidableEq, Repr

/-- A compute die's registers and tables; `failed` holds the faults of walks that engines have still to take (R365), and `hits`
and `misses` count by LLC slice (R390, R424). -/
structure Die where
  xrloc : Word
  xrrem : Word
  dbgCore : Nat
  dbgSlot : Nat
  log : List (Nat × List Word)
  mchead : Word
  mcsel : Nat
  cecnt : Word
  slOn : BitVec 8
  slBusy : Bool
  slMap : BitVec 24
  rslpEn : Bool
  rslpIdle : Nat
  routers : List (Nat × Router)
  tlb : List TlbEntry
  ptrs : List PtrEntry
  walks : List Walk
  failed : List WalkFail
  walkcnt : Word
  lines : List (Nat × Line)
  hits : Sparse Nat
  misses : Sparse Nat
  snapsel : Word
  snap : Sparse DWord
  deriving DecidableEq, Repr

/-! ## The Scegus die -/

/-- The state of a window's phase (R295). -/
inductive PhaseState where
  | idle | armed | done | failed
  deriving DecidableEq, Repr

/-- An invocation of a collective program (R301, R302): its fragment, program counter, steps run and
registers k0-k15; a suspended one is `due` once a later invocation of its window has ended (R307). -/
structure Invocation where
  frag : Fragment
  timer : Bool
  phase : Nat
  pc : Nat
  steps : Nat
  k : List DWord
  due : Bool := false
  deriving DecidableEq, Repr

/-- A completed node of the combine tree in staging (R309), over the contributors from `lo` to before
`hi`; `bad` lists its elements with a poisoned source (R104). -/
structure TreeNode where
  blk : Nat
  lo : Nat
  hi : Nat
  value : List Word
  bad : List Nat := []
  deriving DecidableEq, Repr

/-- A window (R289-R303, R417). `record` is the binding record in force; `stalled` names the accesses
in flight that a full hold queue stopped; `took` is the clk, port and sender of the last fragment that reached its
executor (R296). -/
structure Window where
  bound : Bool
  refused : Bool
  record : List Byte
  owner : Nat
  reason : Nat
  late : Nat
  phi : Nat
  state : PhaseState
  hold : List Fragment
  stalled : List Nat
  queue : List Fragment
  running : Option Invocation
  suspended : List Invocation
  seen : List Nat
  counters : Sparse Nat
  raw : Sparse Byte
  rawPoison : List Nat
  nodes : List TreeNode
  present : List (Nat × Nat)
  blkOps : List (Nat × Nat)
  latch : Option LatchRef
  armEntry : Nat
  armWg : Nat
  timer : Option Nat
  sigs : List (Nat × Bool)
  failCode : Nat
  failSignal : Bool
  destSeq : Sparse Nat
  took : Nat × Nat × Nat := (0, 0, 0)
  deriving DecidableEq, Repr

/-- A placement or forward begun by an invocation (R312, R313); `sends` counts the times that one over
Ultra Ethernet was sent. -/
inductive Placed where
  | vault (entry wg off : Nat) (latch : Option Nat) (data : List Byte)
  | global (pa : Nat) (data : List Byte)
  | ue (uep mode window off : Nat) (seq phase : Nat) (isWindow : Bool) (data : List Byte) (sends : Nat)
  | window (pkg window off seq phase : Nat) (data : List Byte)
  deriving DecidableEq, Repr

/-- A placement in progress, by the window and phase that began it; `sent` lists the pod packets that carry
it to a peer, `port` is the Ultra Ethernet port that took it last (R403), and `bad` lists the poisoned bytes of its data (R104). -/
structure Placement where
  id : Nat
  window : Nat
  phase : Nat
  bad : List Nat := []
  sent : List Nat := []
  port : Option Nat := none
  what : Placed
  deriving DecidableEq, Repr

/-- A collective program's store (R305, R417). -/
structure Program where
  words : Sparse DWord
  loaded : List Instr
  status : Nat
  deriving DecidableEq, Repr

/-- A packet kept until its destination acknowledges it (R401): its plane, 256 for none yet; whether it moved
there from a failed plane (R399); what made its source send it again, true for a request (DEDUCED log 64); and the clk at
which it has left its plane's transmit queue (R398). -/
structure Kept where
  id : Nat
  packet : PodPacket
  plane : Nat
  sentAt : Nat
  moved : Bool
  resent : Option Bool
  leaves : Nat := 0
  deriving DecidableEq, Repr

/-- A packet of class `.BNC` that this package passes on (R101, R398), in a plane's transmit queue until `leaves`. -/
structure Relayed where
  packet : PodPacket
  plane : Nat
  leaves : Nat
  deriving DecidableEq, Repr

/-- What the package tells a sender (R328, R400, R401, R402). -/
inductive Signal where
  /-- An acknowledgement of packet `number` of a source's partition. -/
  | ack (src part number : Nat)
  /-- A retransmit request for a trimmed packet. -/
  | again (src part number : Nat)
  /-- A back-notice to a source, with its rate code. -/
  | notice (src code : Nat)
  /-- A transport acknowledgement, or a negative one, of an Ultra Ethernet fragment. -/
  | ueAck (port endpoint seq : Nat) (ok : Bool)
  deriving DecidableEq, Repr

/-- The pod fabric and Ultra Ethernet transport of this package (R397-R402). `ways` holds the plane of each `.MIN` stream
by destination; `bounced` counts the `.BNC` requests of each core (R101); `ingress` holds packets that a full queue stops
(R395); `signals` what the package tells senders in this clk. -/
structure Fabric where
  planes : BitVec 256
  kept : List Kept
  codes : List (Nat × (Nat × Nat))
  seen : List (Nat × Nat × Nat)
  minNext : List ((Nat × Nat × Nat) × Nat)
  heldMin : List PodPacket
  sendNumber : List ((Nat × Nat) × Nat)
  sendStream : List ((Nat × Nat) × Nat)
  ways : List ((Nat × Nat) × Nat)
  bounced : Sparse Nat
  relayed : List Relayed
  ingress : List PodPacket
  signals : List Signal
  deriving DecidableEq, Repr

/-- The package power controller and token pools (R349-R351, R423). -/
structure Power where
  matSize : Nat
  matLimit : Nat
  collSize : Nat
  drainSize : Nat
  bulkSize : Nat
  collLimit : Nat
  drainLimit : Nat
  bulkLimit : Nat
  matOut : Nat
  collOut : Nat
  drainOut : Nat
  bulkOut : Nat
  nextCore : Nat
  stopped : Bool
  cap : Nat
  avg : Nat
  temp : Nat
  throt : Nat
  tripped : Bool
  deriving DecidableEq, Repr

/-- Bring-up, partition, time, shutter and attestation registers (R407, R411, R418-R424). `shown` tells for PDSET, PBOUND
and PRING.JOIN, by bit 0 to 2, whether it reads its new value while a change runs (R427); `measuredAt` is the clk of the last
offset measurement, and `offer` what the requester's message of NEGOTIATE_ALGORITHMS offers (R406). -/
structure System where
  drshare : Nat
  lock : Bool
  ref_ : Nat
  offset : Int
  lockRun : Nat
  slew : Int
  parStatus : Nat
  layout : BitVec 3
  newLayout : Option (BitVec 3)
  shown : BitVec 3
  fptFrame : Nat
  ready : Bool
  stage : Nat
  err : Nat
  pkgid : Nat
  dies : BitVec 8
  measures : List (Nat × List Byte)
  slotA : List Byte
  slotB : List Byte
  minSvn : Nat
  revoked : BitVec 4
  snapExt : Bool
  snapPod : Bool
  snapAt : Option Nat
  snapTick : DWord
  msix : List Nat
  responses : List (List Byte)
  measuredAt : Option Nat := none
  offer : List SpdmAlgorithm := []
  deriving DecidableEq, Repr

/-! ## The whole state -/

/-- Who acts in this step (DESIGN CHOICE log 1). -/
inductive Agent where
  | none
  /-- The issue group of these lanes of the wave `wave` (R25). -/
  | group (wave : Nat) (lanes : List Nat)
  /-- The executor of this window's running invocation (R301). -/
  | executor (window : Nat)
  deriving DecidableEq, Repr

/-- What moves next (DESIGN CHOICE log 1): an event, an issue of the wave in a slot, an executor, a service wave's
firmware, the clock; a granule that comes to hold a correctable error (R103), an access of the host through BAR0 (R404), or
the offer of an SPDM requester (R406). -/
inductive Move where
  | event (i : Instr)
  | issue (core slot : Nat)
  | executor (window : Nat)
  | service (quad : Nat)
  | tick
  | softError (site : ErrorSite)
  | bar0 (off : Nat) (access : HostAccess)
  | spdmOffer (offer : List SpdmAlgorithm)
  deriving DecidableEq, Repr

/-- A direct write that arrived at its home in this clk (R112): its core, its lane and its bytes. -/
structure Arrived where
  core : Nat
  lane : Nat
  pa : Nat
  len : Nat
  deriving DecidableEq, Repr

/-- A LAUNCH that appended to a queue in this clk, by the place of its thread (R336), with its destination and the address
after it (R355). -/
structure Launched where
  part : Nat
  queue : Nat
  place : Nat
  d : Option Nat := none
  pc : DWord := 0
  deriving DecidableEq, Repr

/-- The whole machine. `lent` lists the lines of this package whose only copy a peer's LLC holds (R97). -/
structure State where
  clk : Nat
  pcc : DWord
  mem : List Host.Cell
  poison : List Nat
  soft : List ErrorSite
  releases : RelRecords
  lent : List Nat
  arrivals : List Arrived
  launched : List Launched
  frames : Sparse Byte
  waves : List Wave
  wgs : List Workgroup
  gangs : List Gang
  saved : List SavedGang
  entries : List Entry
  parts : List (Nat × Partition)
  cores : List (Nat × Core)
  dies : List (Nat × Die)
  services : List (Nat × Service)
  diePh : List (Nat × Phaser)
  pkgPh : List (Nat × Phaser)
  podPh : List (Nat × Phaser)
  tvec : DWord
  net : List Access1
  blocked : List Nat
  ringOps : List RingOp
  windows : List (Nat × Window)
  wtable : Sparse Byte
  programs : List (Nat × Program)
  endpoints : Sparse DWord
  placements : List Placement
  fabric : Fabric
  power : Power
  system : System
  cur : Agent
  agenda : List Move
  turn : Nat
  draws : Nat
  nextId : Nat
  deriving DecidableEq, Repr

/-! ## Values at reset -/

/-- A trap set at the start of a wave (R373). -/
def TrapSet.reset : TrapSet :=
  { epc := 0, inTrap := false, plev := 0, imp := false, code := 0, eval := 0, esav := [0, 0, 0, 0] }

/-- A phaser when it is allotted (R240). -/
def Phaser.reset : Phaser := { phase := 0, members := [] }

/-- A queue at reset (R337, R369, R382, R429). -/
def Queue.reset : Queue :=
  { en := false, ufeed := false, npok := false, maxPri := 0, depth := 4, slice := 0x0800, tail := 0, head := 0,
    ring := 0, done := 0, phal := 0, root := 0, ctx := 0, ctxFull := false, appended := [], finished := [] }

/-- A ring at package reset (R244). -/
def Ring.reset : Ring := { formedAt := 0, clearedAt := 0, passed := [], slots := [] }

/-- A partition number at reset. -/
def Partition.reset : Partition :=
  { queues := [], qsel := 0, preqResult := 0, sroot := 0, tvec := 0, pphal := 0, ring := Ring.reset,
    lastDie := none, lastPlaced := none, shootdowns := [], job := none, wasBusy := false }

/-- A core at reset (R24, R274; counters of R424 and stocks by DESIGN CHOICE log 17). -/
def Core.reset : Core :=
  { draining := [], messages := [], tileSeq := 0, mchkctl := 0, mchkcnt := 0, mchkmis := 0, replayFaults := [],
    stocks := [], tlb := [], code := [], fragSeq := [], issued := 0, tokenStall := 0 }

/-- A service wave's queue at reset. -/
def Service.reset : Service := { queue := [], waiting := [], taken := [] }

/-- A router at reset: awake (DESIGN CHOICE log 17). -/
def Router.reset : Router := { asleep := false, idleSince := 0, awakeUntil := 0 }

/-- A die at reset (R318, R369, R378-R380, R391, R393, R424). -/
def Die.reset : Die :=
  { xrloc := 0, xrrem := 0, dbgCore := 0, dbgSlot := 0, log := [], mchead := 0, mcsel := 0,
    cecnt := 0, slOn := 0xFF, slBusy := false, slMap := 0xFAC688, rslpEn := true, rslpIdle := 1024, routers := [],
    tlb := [], ptrs := [], walks := [], failed := [], walkcnt := 0, lines := [], hits := [], misses := [], snapsel := 0, snap := [] }

/-- A window number at reset: unbound (R295, R417). -/
def Window.reset : Window :=
  { bound := false, refused := false, record := [], owner := 0, reason := 0, late := 0, phi := 0, state := .idle,
    hold := [], stalled := [], queue := [], running := none, suspended := [], seen := [], counters := [], raw := [],
    rawPoison := [],
    nodes := [], present := [], blkOps := [], latch := none, armEntry := 0, armWg := 0, timer := none, sigs := [],
    failCode := 0, failSignal := false, destSeq := [] }

/-- A collective program number at reset: empty (R417). -/
def Program.reset : Program := { words := [], loaded := [], status := 0 }

/-- The fabric at reset: no live plane (DESIGN CHOICE log 17). -/
def Fabric.reset : Fabric :=
  { planes := 0, kept := [], codes := [], seen := [], minNext := [], heldMin := [], sendNumber := [],
    sendStream := [], ways := [], bounced := [], relayed := [], ingress := [], signals := [] }

/-- The power controller at reset (R349, R351, R423; current heavy limits by DESIGN CHOICE log 17). -/
def Power.reset : Power :=
  { matSize := 768, matLimit := 768, collSize := 64, drainSize := 32, bulkSize := 64, collLimit := 64, drainLimit := 32,
    bulkLimit := 64, matOut := 0, collOut := 0, drainOut := 0, bulkOut := 0, nextCore := 0, stopped := false, cap := 4800,
    avg := 0, temp := 0, throt := 100, tripped := false }

/-- Registers of R396, R407, R411, R418, R419, R422 and R424 at reset; flash and fuses by DESIGN CHOICE log 17. -/
def System.reset : System :=
  { drshare := 4, lock := false, ref_ := 0, offset := 0, lockRun := 0, slew := 0, parStatus := 0, layout := 0b111,
    newLayout := none, shown := 0, fptFrame := 0, ready := false, stage := 0, err := 0, pkgid := 0, dies := 0,
    measures := [], slotA := [], slotB := [], minSvn := 0, revoked := 0, snapExt := false, snapPod := false,
    snapAt := none, snapTick := 0, msix := [], responses := [] }

/-- The machine right after package reset. -/
def State.reset : State :=
  { clk := 0, pcc := 0, mem := [], poison := [], soft := [], releases := [], lent := [], arrivals := [], launched := [], frames := [], waves := [], wgs := [],
    gangs := [], saved := [], entries := [], parts := [], cores := [], dies := [], services := [], diePh := [],
    pkgPh := [], podPh := [], tvec := 0, net := [], blocked := [], ringOps := [], windows := [],
    wtable := [], programs := [], endpoints := [], placements := [], fabric := Fabric.reset,
    power := Power.reset, system := System.reset, cur := .none, agenda := [], turn := 0, draws := 0, nextId := 0 }

end Sys2Proof.Machine
end

