-- ==== Sys2Proof/Machine/Ops.lean ====
section
/-! DEFINITION. The named operations over the parts of the state: sparse tables, lookups and updates,
the result queue, partitions, the machine-check log, and taking a trap and returning from one. -/

namespace Sys2Proof

/-- The register that a D field names. -/
def Src.reg : Src → Option Nat
  | .n k => some k
  | _ => Option.none

/-! ## Levels -/

/-- The number of a level (R370). -/
def Level.code : Level → Nat
  | .user => 0
  | .super => 1
  | .sys => 3

/-- The level of a number; 2 names none. -/
def Level.ofCode (c : Nat) : Option Level :=
  if c = 0 then some .user else if c = 1 then some .super else if c = 3 then some .sys else Option.none

def Level.le (a b : Level) : Bool := decide (Level.code a ≤ Level.code b)

/-- The lower of two levels. -/
def Level.min (a b : Level) : Level := if Level.le a b then a else b

/-! ## Scopes, classes -/

/-- The scope of a code of R214. -/
def Scope.ofCode (c : Nat) : Option Scope :=
  match c with
  | 1 => some .core
  | 2 => some .quad
  | 3 => some .die
  | 4 => some .pkg
  | 5 => some .pod
  | 6 => some .sys
  | _ => none

/-- The number of a class (R214). -/
def Route.code : Route → Nat
  | .min => 0
  | .adp => 1
  | .bnc => 2

def Route.ofCode (c : Nat) : Route := if c = 0 then .min else if c = 1 then .adp else .bnc

end Sys2Proof

namespace Sys2Proof.Machine

open Sys2Proof

/-! ## Sparse tables and tables by key -/

/-- What a sparse table holds at a key; `d` is what an unlisted key reads as. -/
def sget {α : Type} (d : α) : Sparse α → Nat → α
  | [], _ => d
  | (a, v) :: l, k => if k < a then d else if k = a then v else sget d l k

/-- A sparse table with one key changed, in canonical form. -/
def sset {α : Type} [DecidableEq α] (d : α) : Sparse α → Nat → α → Sparse α
  | [], k, v => if v = d then [] else [(k, v)]
  | (a, u) :: l, k, v =>
    if k < a then (if v = d then (a, u) :: l else (k, v) :: (a, u) :: l)
    else if k = a then (if v = d then l else (k, v) :: l)
    else (a, u) :: sset d l k v

/-- The keys are above `lo`, strictly rising, and no entry holds `d`. -/
def swfFrom {α : Type} [DecidableEq α] (d : α) : Option Nat → Sparse α → Bool
  | _, [] => true
  | lo, (a, v) :: l => (match lo with | none => true | some b => decide (b < a)) && decide (v ≠ d) && swfFrom d (some a) l

/-- The canonical form of a sparse table. -/
def swf {α : Type} [DecidableEq α] (d : α) (l : Sparse α) : Bool := swfFrom d none l

/-- A run of bytes of a sparse table. -/
def sbytes (l : Sparse Byte) (k n : Nat) : List Byte :=
  let near := l.filter fun p => decide (k ≤ p.1 ∧ p.1 < k + n)
  (List.range n).map fun i => sget 0 near (k + i)

/-- The entries that a run of bytes from key `k` on makes. -/
def srun (k : Nat) : List Byte → Sparse Byte
  | [] => []
  | b :: bs => if b = 0 then srun (k + 1) bs else (k, b) :: srun (k + 1) bs

/-- A sparse table with a run of bytes written. -/
def swrite (l : Sparse Byte) (k : Nat) (bs : List Byte) : Sparse Byte :=
  (l.filter fun p => decide (p.1 < k)) ++ srun k bs ++ l.filter fun p => decide (k + bs.length ≤ p.1)

/-- What a table holds at a key, if anything. -/
def look {α : Type} : List (Nat × α) → Nat → Option α
  | [], _ => none
  | (a, v) :: l, k => if a = k then some v else look l k

/-- What a table holds at a key, or a default. -/
def lookD {α : Type} (d : α) (l : List (Nat × α)) (k : Nat) : α := (look l k).getD d

/-- A table with one key set. -/
def put {α : Type} : List (Nat × α) → Nat → α → List (Nat × α)
  | [], k, v => [(k, v)]
  | (a, u) :: l, k, v => if a = k then (a, v) :: l else (a, u) :: put l k v

/-- A table without a key. -/
def drop {α : Type} (l : List (Nat × α)) (k : Nat) : List (Nat × α) := l.filter fun p => p.1 ≠ k

/-- A list with element `i` changed. -/
def setAt {α : Type} : List α → Nat → α → List α
  | [], _, _ => []
  | _ :: l, 0, v => v :: l
  | a :: l, i + 1, v => a :: setAt l i v

/-- Element `i` of a list of words, 0 beyond its end. -/
def word (l : List Word) (i : Nat) : Word := l.getD i 0

/-- The little-endian words of bytes. -/
def wordsOf : Nat → List Byte → List Word
  | 0, _ => []
  | n + 1, bs => (bs.take 4).foldr (fun b (acc : Word) => (acc <<< 8) ||| b.zeroExtend 32) 0 :: wordsOf n (bs.drop 4)

/-- The little-endian bytes of words. -/
def bytesOf (ws : List Word) : List Byte :=
  ws.flatMap fun w => [w.extractLsb' 0 8, w.extractLsb' 8 8, w.extractLsb' 16 8, w.extractLsb' 24 8]

/-- A 64-bit value from its low and high words. -/
def pair (lo hi : Word) : DWord := hi ++ lo

def loWord (v : DWord) : Word := v.extractLsb' 0 32

def hiWord (v : DWord) : Word := v.extractLsb' 32 32

/-! ## Lookups and updates -/

namespace State

def core (s : State) (c : Nat) : Core := lookD Core.reset s.cores c

def setCore (s : State) (c : Nat) (v : Core) : State := { s with cores := put s.cores c v }

def die (s : State) (d : Nat) : Die := lookD Die.reset s.dies d

def setDie (s : State) (d : Nat) (v : Die) : State := { s with dies := put s.dies d v }

def partition (s : State) (p : Nat) : Partition := lookD Partition.reset s.parts p

def setPartition (s : State) (p : Nat) (v : Partition) : State := { s with parts := put s.parts p v }

def queue (s : State) (p q : Nat) : Queue := lookD Queue.reset (s.partition p).queues q

def setQueue (s : State) (p q : Nat) (v : Queue) : State :=
  s.setPartition p { s.partition p with queues := put (s.partition p).queues q v }

def service (s : State) (quad : Nat) : Service := lookD Service.reset s.services quad

def setService (s : State) (quad : Nat) (v : Service) : State := { s with services := put s.services quad v }

def window (s : State) (w : Nat) : Window := lookD Window.reset s.windows w

def setWindow (s : State) (w : Nat) (v : Window) : State := { s with windows := put s.windows w v }

def program (s : State) (g : Nat) : Program := lookD Program.reset s.programs g

def setProgram (s : State) (g : Nat) (v : Program) : State := { s with programs := put s.programs g v }

def wave? (s : State) (id : Nat) : Option Wave := s.waves.find? fun w => w.id = id

def setWave (s : State) (v : Wave) : State :=
  { s with waves := s.waves.map fun w => if w.id = v.id then v else w }

def wg? (s : State) (id : Nat) : Option Workgroup := s.wgs.find? fun w => w.id = id

def setWg (s : State) (v : Workgroup) : State :=
  { s with wgs := s.wgs.map fun w => if w.id = v.id then v else w }

def gang? (s : State) (id : Nat) : Option Gang := s.gangs.find? fun g => g.id = id

def setGang (s : State) (v : Gang) : State :=
  { s with gangs := s.gangs.map fun g => if g.id = v.id then v else g }

def entry? (s : State) (id : Nat) : Option Entry := s.entries.find? fun e => e.id = id

def setEntry (s : State) (v : Entry) : State :=
  { s with entries := s.entries.map fun e => if e.id = v.id then v else e }

def thread? (s : State) (wave lane : Nat) : Option Thread :=
  (s.wave? wave).bind fun w => w.threads[lane]?

def setThread (s : State) (wave lane : Nat) (t : Thread) : State :=
  { s with waves := s.waves.map fun w =>
      if w.id = wave then { w with threads := setAt w.threads lane t } else w }

/-- A thread changed by a function; nothing where it does not stand. -/
def modThread (s : State) (wave lane : Nat) (g : Thread → Thread) : State :=
  match s.thread? wave lane with
  | some t => s.setThread wave lane (g t)
  | none => s

def modWg (s : State) (id : Nat) (g : Workgroup → Workgroup) : State :=
  { s with wgs := s.wgs.map fun w => if w.id = id then g w else w }

def modEntry (s : State) (id : Nat) (g : Entry → Entry) : State :=
  { s with entries := s.entries.map fun e => if e.id = id then g e else e }

/-- A new identity number. -/
def fresh (s : State) : State := { s with nextId := s.nextId + 1 }

/-- The state after one free value is drawn (DESIGN CHOICE log 4). -/
def drawn (s : State) : State := { s with draws := s.draws + 1 }

/-- The state with that many draws taken. -/
def drawnBy (s : State) (n : Nat) : State := { s with draws := s.draws + n }

end State

/-! ## Waves and threads -/

/-- The thread has not exited. -/
def Thread.live (t : Thread) : Bool := t.run ≠ .exited

/-- All threads of the wave have exited (R172). -/
def Wave.exited (w : Wave) : Bool := w.threads.all fun t => !t.live

def Wave.isUser (w : Wave) : Bool := w.kind = .user

/-- The wave that holds a slot of a core. -/
def State.waveAt (s : State) (core slot : Nat) : Option Wave :=
  s.waves.find? fun w => w.core = core && w.slot = slot && !w.exited

/-- A thread is eligible (R25): running, with no trap due and no closed lookahead window (R50). -/
def Thread.eligible (t : Thread) : Bool :=
  t.run = .running && t.due.isNone && t.pending.all fun p => p.left ≠ 0

/-- Named register `k` (R35). -/
def Thread.reg (t : Thread) (k : Nat) : Word := sget 0 t.regs k

def Thread.setReg (t : Thread) (k : Nat) (v : Word) : Thread := { t with regs := sset 0 t.regs k v }

/-- Registers from `k` on receive words. -/
def Thread.setRegs (t : Thread) (k : Nat) : List Word → Thread
  | [] => t
  | v :: vs => Thread.setRegs (t.setReg k v) (k + 1) vs

/-- Predicate p(i): p0 reads true (R42). -/
def Thread.pred (t : Thread) (i : Nat) : Bool := i = 0 || t.preds.getLsbD i

/-- A write to p0 is discarded (R42). -/
def Thread.setPred (t : Thread) (i : Nat) (v : Bool) : Thread :=
  if i = 0 then t
  else { t with preds := (t.preds &&& ~~~(1#8 <<< i)) ||| (if v then 1#8 <<< i else 0) }

/-- Push one entry (R37). -/
def Thread.pushEntry (t : Thread) (e : QEntry) : Thread := { t with queue := (e :: t.queue).take 16 }

def Thread.push (t : Thread) (v : Word) : Thread := t.pushEntry (.val v)

/-- Push words, the first of the list first. -/
def Thread.pushAll (t : Thread) : List Word → Thread
  | [] => t
  | v :: vs => Thread.pushAll (t.push v) vs

/-- Write a destination, none for NONE (R38). -/
def Thread.writeD (t : Thread) (d : Option Nat) (ws : List Word) : Thread :=
  match d with
  | some k => t.setRegs k ws
  | none => t

/-- Deliver a result of words in register order: pushed highest first, so that q0 holds word 0, and
written to the destination (R38, R208). -/
def Thread.result (t : Thread) (d : Option Nat) (ws : List Word) : Thread :=
  (t.pushAll ws.reverse).writeD d ws

/-- The qualifying predicate (R146). -/
def Thread.qual (t : Thread) (f : Fields) : Bool := t.pred f.qp.toNat != f.qn

def Thread.advance (t : Thread) (len : Nat) : Thread := { t with pc := t.pc + BitVec.ofNat 64 len }

/-- An instruction has issued: each open lookahead window shrinks by one (R50). -/
def Thread.countIssue (t : Thread) : Thread :=
  { t with pending := t.pending.map fun p => { p with left := p.left - 1 } }

/-- A thread at the start of a wave (R25, R35, R37, R42, R44, R373) (DEDUCED log 73). -/
def Thread.start (pc : DWord) (level : Level) : Thread :=
  { pc := pc, level := level, regs := [], queue := List.replicate 16 (.val 0), preds := 0, pcc := none, pass := 0,
    run := .running, due := none, pending := [], super := TrapSet.reset, sys := TrapSet.reset, failAlighted := false,
    failMissing := false }

/-! ## Dies, cores, partitions -/

/-- The die of a core. -/
def dieOf (core : Nat) : Nat := core / 32

/-- The quad of a core, over the package. -/
def quadOf (core : Nat) : Nat := core / 4

/-- Core 0 of a quad (R15). -/
def isQuadHead (core : Nat) : Bool := core % 4 = 0

/-- The layout codes of R409: the partition of each quarter. -/
def layoutParts (code : Nat) : Option (List Nat) :=
  match code with
  | 0b000 => some [0, 1, 2, 3]
  | 0b001 => some [0, 0, 2, 3]
  | 0b010 => some [0, 1, 2, 2]
  | 0b011 => some [0, 0, 2, 2]
  | 0b111 => some [0, 0, 0, 0]
  | _ => none

/-- The partition of a die under a layout. -/
def partOfIn (code die : Nat) : Nat := ((layoutParts code).getD [0, 0, 0, 0]).getD (die / 2) 0

/-- The dies of a partition under a layout, ascending (R409). -/
def dieSetIn (code p : Nat) : List Nat :=
  (List.range 8).filter fun d => partOfIn code d = p

def State.partOf (s : State) (die : Nat) : Nat := partOfIn s.system.layout.toNat die

def State.dieSet (s : State) (p : Nat) : List Nat := dieSetIn s.system.layout.toNat p

/-- Which partitions exist. -/
def State.partsNow (s : State) : List Nat := (List.range 4).filter fun p => s.dieSet p ≠ []

/-- A partition exists. -/
def State.exists_ (s : State) (p : Nat) : Bool := s.dieSet p ≠ []

/-- The entry that a workgroup belongs to. -/
def State.entryOfWg (s : State) (wg : Nat) : Option Entry :=
  (s.wg? wg).bind fun g => s.entry? g.entry

/-- The entry whose launch words and address space a wave runs under. -/
def State.entryOfWave (s : State) (w : Wave) : Option Entry :=
  match w.kind with
  | .user => s.entryOfWg w.wg
  | .service => none
  | .handler e _ => e.bind s.entry?

/-- The partition that a wave runs in. -/
def State.partOfWave (s : State) (w : Wave) : Nat := s.partOf (dieOf w.core)

/-- A 32-bit word of a launch record (R330). -/
def Record.word (r : Record) (byte : Nat) : Word := r.words.getD (byte / 4) 0

/-- A byte of a launch record. -/
def Record.byte (r : Record) (i : Nat) : Nat := bits (r.word i) (8 * (i % 4)) 8

/-- A 64-bit field of a launch record. -/
def Record.dword (r : Record) (byte : Nat) : DWord := pair (r.word byte) (r.word (byte + 4))

def Record.entryPc (r : Record) : DWord := r.dword 0
def Record.gx (r : Record) : Nat := (r.word 16).toNat
def Record.gy (r : Record) : Nat := (r.word 20).toNat
def Record.gsize (r : Record) : Nat := r.byte 28
def Record.nwaves (r : Record) : Nat := r.byte 29
def Record.blocks (r : Record) : Nat := r.byte 30
def Record.ringLog (r : Record) : Nat := r.byte 31
def Record.nslots (r : Record) : Nat := r.byte 32
def Record.ntiles (r : Record) : Nat := r.byte 33
def Record.paths (r : Record) : Nat := r.byte 34
def Record.corePh (r : Record) : Nat := r.byte 35 % 16
def Record.quadPh (r : Record) : Nat := r.byte 35 / 16
def Record.flags (r : Record) : Word := r.word 36
def Record.cosched (r : Record) : Bool := r.flags.getLsbD 0
def Record.early (r : Record) : Bool := r.flags.getLsbD 1
def Record.preemptible (r : Record) : Bool := r.flags.getLsbD 2
def Record.indirect (r : Record) : Bool := r.flags.getLsbD 3
def Record.priority (r : Record) : Nat := bits r.flags 4 2
def Record.seed (r : Record) : DWord := r.dword 40
def Record.nb (r : Record) : DWord := r.dword 48
def Record.dieBase (r : Record) : Nat := r.byte 56
def Record.dieCnt (r : Record) : Nat := r.byte 57
def Record.pkgBase (r : Record) : Nat := bits (r.word 56) 16 16
def Record.pkgCnt (r : Record) : Nat := bits (r.word 60) 0 16
def Record.podBase (r : Record) : Nat := r.byte 62
def Record.podCnt (r : Record) : Nat := r.byte 63
def Record.dep (r : Record) (i : Nat) : DWord := r.dword (64 + 8 * i)
def Record.fs (r : Record) (i : Nat) : Word := r.word (96 + 4 * i)
def Record.launch (r : Record) (j : Nat) : Word := r.word (128 + 4 * j)

/-- Vault bytes rounded up to 64 KiB (R84). -/
def Record.vault (r : Record) : Nat := ((r.word 24).toNat + 65535) / 65536 * 65536

/-- Copy ring entries (R225). -/
def Record.ringLen (r : Record) : Nat := if r.ringLog = 0 then 0 else 2 ^ r.ringLog

/-- The linear workgroup index (R19). -/
def State.linearWg (s : State) (g : Workgroup) : Nat :=
  match s.gang? g.gang, s.entry? g.entry with
  | some gang, some e => gang.index * e.record.gsize + g.member
  | _, _ => 0

/-- The agent that a wave is, for scopes (R116). -/
def State.originOf (s : State) (w : Wave) : Origin :=
  { pkg := s.system.pkgid, wg := w.wg, gang := ((s.wg? w.wg).map fun g => g.gang).getD 0, die := dieOf w.core, part := s.partOfWave w,
    job := (s.partition (s.partOfWave w)).job }

/-! ## The machine-check log -/

/-- Write an entry of a die's machine-check log (R379) (DEDUCED log 37). -/
def State.logCheck (s : State) (die core kind cause tile w1 : Nat) (pa : Nat) : State :=
  let d := s.die die
  let w0 := kind * 2 ^ 28 + cause % 256 * 2 ^ 20 + tile % 16 * 2 ^ 16 + s.system.pkgid % 32 * 2 ^ 8
    + die % 8 * 2 ^ 5 + core % 32
  let e : List Word :=
    [BitVec.ofNat 32 w0, BitVec.ofNat 32 w1, BitVec.ofNat 32 pa, BitVec.ofNat 32 (pa / 2 ^ 32), loWord s.pcc,
      hiWord s.pcc, 0, 0]
  s.setDie die { d with log := put d.log (d.mchead.toNat % 256) e, mchead := d.mchead + 1 }

/-! ## Traps -/

/-- The code of a cause (R374). -/
def Cause.code : Cause → Nat
  | .illOpc => 1
  | .illFetch => 2
  | .illegal => 3
  | .lookahead => 4
  | .priv => 5
  | .translation => 6
  | .permission => 7
  | .poison => 8
  | .vaultBounds => 9
  | .vaultState => 10
  | .copyDesc => 11
  | .copyLate => 12
  | .growDeadlock => 13
  | .msignMismatch => 14
  | .ringFull => 15
  | .matrixCheck => 16
  | .trap => 17
  | .bkpt => 18

/-- The cause is a fault: neither an event nor a software trap (R374). -/
def Cause.isFault : Cause → Bool
  | .matrixCheck | .trap | .bkpt => false
  | _ => true

/-- A thread is to take a trap. The one of the earlier instruction prevails, since a return to it runs
the later one again. -/
def Thread.raise (t : Thread) (r : TrapReq) : Thread :=
  match t.due with
  | some old => if old.seq ≤ r.seq then t else { t with due := some r, pc := r.epc }
  | none => { t with due := some r }

/-- A precise fault at the thread's instruction. -/
def Thread.fault (t : Thread) (c : Cause) (eval : DWord) (seq : Nat) : Thread :=
  t.raise { cause := c, epc := t.pc, eval := eval, imp := false, toSys := false, seq := seq }

/-- ILLEGAL raised by a step of R155. -/
def Thread.illegal (t : Thread) (step seq : Nat) : Thread := t.fault .illegal (BitVec.ofNat 64 step) seq

/-- The trap set of a level. -/
def Thread.trapSet (t : Thread) (l : Level) : TrapSet := if l = .sys then t.sys else t.super

def Thread.setTrapSet (t : Thread) (l : Level) (x : TrapSet) : Thread :=
  if l = .sys then { t with sys := x } else { t with super := x }

/-- TVEC of a level for a partition (R373). -/
def State.tvecOf (s : State) (part : Nat) (l : Level) : DWord :=
  if l = .sys then s.tvec else (s.partition part).tvec

/-- The level accepts a trap of the thread: not busy, and enabled (R371). -/
def State.accepts (s : State) (part : Nat) (t : Thread) (l : Level) : Bool :=
  !(t.trapSet l).inTrap && (s.tvecOf part l).getLsbD 0

/-- The level that a trap enters: the higher of its target and the thread's level, or the next one
above that accepts it (R371). -/
def State.trapLevel (s : State) (part : Nat) (t : Thread) (r : TrapReq) : Option Level :=
  let start : List Level := if r.toSys || t.level = .sys then [.sys] else [.super, .sys]
  start.find? fun l => s.accepts part t l

/-- A handler's first address: TVEC.BASE (R373). -/
def vectorBase (tvec : DWord) : DWord := tvec &&& ~~~31#64

/-- Trap entry at a level (R372). -/
def Thread.enter (t : Thread) (l : Level) (tvec : DWord) (r : TrapReq) : Thread :=
  let x := t.trapSet l
  let x' : TrapSet :=
    { x with
      epc := r.epc, inTrap := true, plev := BitVec.ofNat 2 t.level.code, imp := r.imp, code := BitVec.ofNat 8 r.cause.code,
      eval := r.eval }
  { t.setTrapSet l x' with level := l, pc := vectorBase tvec, due := none }

/-- A thread takes the trap that is due, or halts where no level accepts it (R371). -/
def State.takeTrap (s : State) (part : Nat) (t : Thread) (r : TrapReq) : Thread :=
  match s.trapLevel part t r with
  | some l => t.enter l (s.tvecOf part l) r
  | none => { t with due := none, run := .halted 0xFFFFFFFF t.pc }

/-- The return from a trap at the thread's level (R375), or the cause and EVAL of its fault. -/
def Thread.leave (t : Thread) : Except (Cause × DWord) Thread :=
  match t.level with
  | .user => .error (.priv, 0)
  | l =>
    let x := t.trapSet l
    match Level.ofCode x.plev.toNat with
    | none => .error (.illegal, 7)
    | some back =>
      if !x.inTrap then .error (.illegal, 7)
      else if !back.le l then .error (.illegal, 7)
      else if bits x.epc 0 2 ≠ 0 then .error (.illFetch, x.epc)
      else .ok { t.setTrapSet l { x with inTrap := false } with level := back, pc := x.epc }

end Sys2Proof.Machine
end

