-- ==== Sys2Proof/Machine/Operands.lean ====
section
/-! DEFINITION. Reading operands in every form of R143 and R145, the special operands of R16 and R43,
and the lookahead check of R50. -/

namespace Sys2Proof.Machine

open Sys2Proof

/-- What a special operand 0x110 + i reads in a user wave (R16, R43); PCC.LO and PCC.HI are not among
these. -/
def userSpecial (s : State) (w : Wave) (lane i : Nat) : Word :=
  match s.wg? w.wg with
  | none => 0
  | some g =>
    let e := s.entry? g.entry
    let x := (e.map fun e => e.record.gx).getD 1
    let y := (e.map fun e => e.record.gy).getD 1
    let lin := s.linearWg g
    BitVec.ofNat 32 <|
      match i with
      | 1 => lane
      | 2 => w.index
      | 3 => lin % x
      | 4 => lin / x % y
      | 5 => lin / (x * y)
      | 6 => ((s.gang? g.gang).map fun g => g.index).getD 0
      | 7 => w.core % 32
      | 8 => w.core % 32 / 4
      | 9 => dieOf w.core
      | 10 => s.system.pkgid
      | 13 => (e.map fun e => e.record.nwaves).getD 1
      | 14 => (e.map fun e => e.record.gsize).getD 1
      | _ => 0

/-- What a special operand reads in a handler or service wave: its placement, and free values where the
spec gives the wave no coordinates (DESIGN CHOICE log 22). -/
def otherSpecial (s : State) (w : Wave) (lane i : Nat) : Word :=
  match i with
  | 0 => 0
  | 1 => BitVec.ofNat 32 lane
  | 7 => BitVec.ofNat 32 (w.core % 32)
  | 8 => BitVec.ofNat 32 (w.core % 32 / 4)
  | 9 => BitVec.ofNat 32 (dieOf w.core)
  | 10 => BitVec.ofNat 32 s.system.pkgid
  | i => Config.handlerOperand i

/-- The 64-bit PCC sample that PCC.HI reads: the latch, or the counter (R44) (DEDUCED log 39). -/
def Thread.pccSample (s : State) (t : Thread) : DWord := t.pcc.getD s.pcc

/-- A special operand (R43, R44). -/
def special (s : State) (w : Wave) (lane : Nat) (t : Thread) (i : Nat) : Word :=
  if i = 11 then loWord s.pcc
  else if i = 12 then hiWord (t.pccSample s)
  else match w.kind with
    | .user => userSpecial s w lane i
    | _ => otherSpecial s w lane i

/-- A launch word (R45); zero for a handler of another package's message (R180). -/
def launchWord (s : State) (w : Wave) (j : Nat) : Word :=
  ((s.entryOfWave w).map fun e => e.record.launch j).getD 0

/-- A queue entry's value; a pending one is refused before it is read (R50). -/
def QEntry.word : QEntry → Word
  | .val v => v
  | .pend _ _ => 0

/-- Queue entry q(j) (R40). -/
def Thread.q (t : Thread) (j : Nat) : Word := ((t.queue[j]?).map QEntry.word).getD 0

/-- A source read as 32 bits (R143). -/
def read32 (s : State) (w : Wave) (lane : Nat) (t : Thread) (f : Fields) (o : Src) : Word :=
  match o with
  | .q j => t.q j
  | .n k => t.reg k
  | .p i => if t.pred i then 1 else 0
  | .special i => special s w lane t i
  | .const v => BitVec.ofInt 32 v
  | .launch j => launchWord s w j
  | .imm => f.imm
  | .reserved _ | .none => 0

/-- A source read as 64 bits (R36, R40, R145). -/
def read64 (s : State) (w : Wave) (lane : Nat) (t : Thread) (f : Fields) (o : Src) : DWord :=
  match o with
  | .q j => pair (t.q j) (t.q (j + 1))
  | .n k => pair (t.reg k) (t.reg (k + 1))
  | .const v => BitVec.ofInt 64 v
  | .launch j => pair (launchWord s w j) (launchWord s w (j + 1))
  | .imm => f.imm.signExtend 64
  | o => (read32 s w lane t f o).zeroExtend 64

/-- A run of `m` registers, in register order (R208). -/
def readRun (t : Thread) (o : Src) (m : Nat) : List Word :=
  match o with
  | .n k => (List.range m).map fun i => t.reg (k + i)
  | _ => []

/-- A source of `n` words: one, a pair, or a run (R208). -/
def readWords (s : State) (w : Wave) (lane : Nat) (t : Thread) (f : Fields) (o : Src) (n : Nat) : List Word :=
  if n = 1 then [read32 s w lane t f o]
  else if n = 2 then [loWord (read64 s w lane t f o), hiWord (read64 s w lane t f o)]
  else readRun t o n

/-- A predicate specifier (R187, R189). -/
def readPred (t : Thread) : Src → Bool
  | .p i => t.pred i
  | _ => false

/-! ## The lookahead check -/

/-- Words that a source use reads. -/
def useCount : Use → Nat
  | .none | .pred => 0
  | .s32 | .opt32 => 1
  | .s64 => 2
  | .run m | .seq m => m

/-- Registers that a D use writes. -/
def dCount : DUse → Nat
  | .none | .preds => 0
  | .reg => 1
  | .pair => 2
  | .run m | .mustRun m => m

/-- Registers `k` to `k + m - 1` meet the destination of a pending result. -/
def Thread.pendingReg (t : Thread) (k m : Nat) : Bool :=
  t.pending.any fun p =>
    match p.dst with
    | some d => decide (k < d + p.kept ∧ d < k + m)
    | none => false

def QEntry.isPending : QEntry → Bool
  | .val _ => false
  | .pend _ _ => true

/-- Entries q(j) to q(j + m - 1) hold a pending one. -/
def Thread.pendingEntry (t : Thread) (j m : Nat) : Bool := ((t.queue.drop j).take m).any QEntry.isPending

/-- A source use meets a pending result (R50). -/
def Thread.pendingSrc (t : Thread) (u : Use) (o : Src) : Bool :=
  match o with
  | .q j => t.pendingEntry j (useCount u)
  | .n k => decide (useCount u ≠ 0) && t.pendingReg k (useCount u)
  | _ => false

/-- A D use meets the destination of a pending result (R50). -/
def Thread.pendingDst (t : Thread) (u : DUse) (o : Src) : Bool :=
  match o with
  | .n k => decide (dCount u ≠ 0) && t.pendingReg k (dCount u)
  | _ => false

/-- The specifier that meets a pending result, in the order A, B, C, E, F, D (R50, R374). -/
def Thread.lookahead (t : Thread) (sh : Shape) (f : Fields) : Option Src :=
  if t.pendingSrc sh.a f.a then some f.a
  else if t.pendingSrc sh.b f.b then some f.b
  else if t.pendingSrc sh.c f.c then some f.c
  else if t.pendingSrc sh.e f.e then some f.e
  else if t.pendingSrc sh.f f.f then some f.f
  else if t.pendingDst sh.d f.d then some f.d
  else none

/-- An instruction that reads PCC.LO sets the thread's time latch (R44). -/
def Thread.sampled (t : Thread) (s : State) (sh : Shape) (f : Fields) : Thread :=
  let reads (u : Use) (o : Src) : Bool := u ≠ .none && o = .special 11
  if reads sh.a f.a || reads sh.b f.b || reads sh.c f.c || reads sh.e f.e || reads sh.f f.f then
    { t with pcc := some s.pcc }
  else t

end Sys2Proof.Machine
end

