-- ==== Sys2Proof/Machine/Flags.lean ====
section
/-! DEFINITION. The predicates as flags: the conditions of the compares (R188, R192) and the combining
types of R149. -/

namespace Sys2Proof.Machine

open Sys2Proof

/-- The two targets of a compare or PLOP: D[2:0] and D[5:3] (R148). -/
def predTargets (d : Src) : Nat × Nat := (d.code % 8, d.code / 8 % 8)

/-- A combining type on the condition `c` and the old value `o` of the first target: the new values of
the two targets (R149). -/
def combine (ty : Nat) (o c : Bool) : Bool × Bool :=
  match ty with
  | 0 | 1 => (c, !c)
  | 2 => (o && c, !(o && c))
  | 3 => (o || c, !(o || c))
  | 4 => (o != c, !(o != c))
  | 5 => (o && !c, !(o && !c))
  | 6 => (o || !c, !(o || !c))
  | _ => (o && c, o && !c)

/-- A compare's update of its targets in a thread whose qualifying predicate is true (R149). -/
def Thread.compare (t : Thread) (d : Src) (ty : Nat) (c : Bool) : Thread :=
  let (p1, p2) := predTargets d
  let (v1, v2) := combine ty (t.pred p1) c
  (t.setPred p1 v1).setPred p2 v2

/-- A compare in a thread whose qualifying predicate is false: UNC clears both targets (R149). -/
def Thread.compareOff (t : Thread) (d : Src) (ty : Nat) : Thread :=
  if ty = 1 then
    let (p1, p2) := predTargets d
    (t.setPred p1 false).setPred p2 false
  else t

/-- The integer conditions of R188 on an ordering. -/
def intCond (code : Nat) (lt eq : Bool) : Bool :=
  match code with
  | 0 => eq
  | 1 => !eq
  | 2 => lt
  | 3 => lt || eq
  | 4 => !(lt || eq)
  | _ => !lt

/-- The conditions of FCMP (R192). -/
def floatCond (code : Nat) (x y : FVal) : Bool :=
  let un := x.isNan || y.isNan
  let lt := x.lt y
  let gt := y.lt x
  let eq := x.eq y
  match code with
  | 0 => eq
  | 1 => !un && !eq
  | 2 => lt
  | 3 => lt || eq
  | 4 => gt
  | 5 => gt || eq
  | 6 => !un
  | 7 => un
  | 8 => eq || un
  | 9 => !eq
  | 10 => lt || un
  | 11 => lt || eq || un
  | 12 => gt || un
  | _ => gt || eq || un

end Sys2Proof.Machine
end

