-- ==== Sys2Proof/Machine/Exec.lean ====
section
/-! DEFINITION. How an issue group executes an instruction (R25, R155, R156): the checks that every
thread takes, the threads whose qualifying predicate is false (R39), the lookahead check (R50), and
the effect per thread or per wave (R167, R210). -/

namespace Sys2Proof.Machine

open Sys2Proof

/-- What an instruction does in one thread. -/
inductive TRes where
  /-- It completes or parks: the state around it and the thread after it. -/
  | done (s : State) (t : Thread)
  /-- It faults, with its cause and EVAL. -/
  | fault (c : Cause) (eval : DWord)
  /-- It meets poison at a physical address, which is logged (R104). -/
  | poison (eval : DWord) (pa : Nat)
  /-- It waits at issue: the state after what it asked for. -/
  | hold (s : State)

/-- What a wave instruction does (R210). -/
inductive WRes where
  /-- It completes or parks: the state around it, and each participating thread by its lane. -/
  | done (s : State) (g : Nat → Thread → Thread)
  /-- Each participating thread faults. -/
  | fault (c : Cause) (eval : DWord)
  /-- Every thread of the group faults. -/
  | faultAll (c : Cause) (eval : DWord)
  /-- It waits at issue. -/
  | hold

/-- The checks of steps 3 to 6 of R155: the level needed, then form, fields and blocks held (DEDUCED log 38) (DEDUCED log 74). -/
def checkIssue (need : Level) (level : Level) (sh : Shape) (f : Fields) (blocks : Nat) : Option (Cause × DWord) :=
  if !need.le level then some (.priv, 0)
  else if !sh.formOk f.form then some (.illegal, 4)
  else if !sh.fieldsOk f then some (.illegal, 5)
  else if !sh.held blocks f then some (.illegal, 6)
  else none

/-- Each lane's thread takes a fault. -/
def faultLanes (s : State) (wave : Nat) (lanes : List Nat) (c : Cause) (eval : DWord) (seq : Nat) : State :=
  lanes.foldl (fun s lane => s.modThread wave lane fun t => t.fault c eval seq) s

/-- Zeros pushed by a thread whose qualifying predicate is false (R39). -/
def Thread.pushZeros (t : Thread) (n : Nat) : Thread := t.pushAll (List.replicate n 0)

/-- The thread at issue: its windows counted, its time latch set where PCC.LO is read. -/
def Thread.issued (t : Thread) (s : State) (sh : Shape) (f : Fields) : Thread := t.countIssue.sampled s sh f

/-- The wave at issue, each thread as it issues the instruction. -/
def Wave.issued (w : Wave) (s : State) (sh : Shape) (f : Fields) : Wave :=
  { w with threads := w.threads.map fun t => t.issued s sh f }

/-- An instruction in a thread whose qualifying predicate is false (R39, R171). -/
def Thread.off (t : Thread) (sh : Shape) (f : Fields) : Thread :=
  (t.countIssue.pushZeros sh.pushes).advance f.form.len

/-- The level of the first of some lanes. -/
def Wave.levelOf (w : Wave) (lanes : List Nat) : Level :=
  match lanes with
  | l :: _ => ((w.threads[l]?).map fun t => t.level).getD .user
  | [] => .user

/-- An instruction of the issue group that stands at one; `k` receives its wave, with the instruction
counted in program order, and its lanes. -/
def withGroup (s : State) (k : State → Wave → List Nat → State) : Host.Outcome State Fault Refusal :=
  match s.cur with
  | .group wave lanes =>
    match s.wave? wave with
    | some w =>
      let w := { w with seq := w.seq + 1 }
      .next (k (s.setWave w) w lanes)
    | none => .fault .noIssueGroup
  | _ => .fault .noIssueGroup

/-- One thread of a group executes its part. -/
def runLane (sh : Shape) (f : Fields) (seq : Nat) (off : Thread → Thread)
    (body : State → Wave → Nat → Thread → TRes) (wave : Nat) (s : State) (lane : Nat) : State :=
  match s.wave? wave with
  | none => s
  | some w =>
    match w.threads[lane]? with
    | none => s
    | some t =>
      if !t.qual f then s.setThread wave lane (off t)
      else
        match t.lookahead sh f with
        | some o => s.setThread wave lane (t.fault .lookahead (BitVec.ofNat 64 o.code) seq)
        | none =>
          match body s w lane (t.issued s sh f) with
          | .done s' t' => s'.setThread wave lane t'
          | .fault c e => s.setThread wave lane (t.fault c e seq)
          | .poison e pa =>
            (s.logCheck (dieOf w.core) w.core 1 0 0 0 pa).setThread wave lane (t.fault .poison e seq)
          | .hold s' => s'

/-- An instruction whose threads each act on their own, in ascending lane order (R111). -/
def execLanes (need : Level) (sh : Shape) (f : Fields) (off : Thread → Thread)
    (body : State → Wave → Nat → Thread → TRes) (s : State) : Host.Outcome State Fault Refusal :=
  withGroup s fun s w lanes =>
    match checkIssue need (w.levelOf lanes) sh f w.blocks with
    | some (c, e) => faultLanes s w.id lanes c e w.seq
    | none => lanes.foldl (runLane sh f w.seq off body w.id) s

/-- An unprivileged instruction of the usual kind. -/
def execEach (sh : Shape) (f : Fields) (body : State → Wave → Nat → Thread → TRes) (s : State) :
    Host.Outcome State Fault Refusal :=
  execLanes .user sh f (fun t => t.off sh f) body s

/-- An instruction that changes only its own thread and cannot fault: `g` gives the thread after it,
before the step past the instruction. -/
def execPure (sh : Shape) (f : Fields) (g : State → Wave → Nat → Thread → Thread) (s : State) :
    Host.Outcome State Fault Refusal :=
  execEach sh f (fun s w lane t => .done s ((g s w lane t).advance f.form.len)) s

/-- An instruction that changes only its own thread, or faults (DESIGN CHOICE log 7). -/
def execTry (sh : Shape) (f : Fields) (g : State → Wave → Nat → Thread → Except (Cause × DWord) Thread) (s : State) :
    Host.Outcome State Fault Refusal :=
  execEach sh f (fun s w lane t =>
    match g s w lane t with
    | .ok t' => .done s (t'.advance f.form.len)
    | .error (c, e) => .fault c e) s

/-- The lanes whose qualifying predicate is true. -/
def Wave.onLanes (w : Wave) (f : Fields) (lanes : List Nat) : List Nat :=
  lanes.filter fun l => ((w.threads[l]?).map fun t => t.qual f).getD false

/-- The lanes whose qualifying predicate is true and that read no pending result. -/
def Wave.clearLanes (w : Wave) (sh : Shape) (f : Fields) (lanes : List Nat) : List Nat :=
  (w.onLanes f lanes).filter fun l => ((w.threads[l]?).map fun t => (t.lookahead sh f).isNone).getD false

/-- All values of a list are equal. -/
def allSame {α : Type} [DecidableEq α] : List α → Bool
  | [] => true
  | a :: l => l.all fun b => b = a

/-- The parts of a wave instruction in threads that do not take part: zeros for a false qualifying
predicate, LOOKAHEAD for a pending operand. -/
def runOthers (sh : Shape) (f : Fields) (w : Wave) (s : State) (lane : Nat) : State :=
  s.modThread w.id lane fun t =>
    if !t.qual f then t.off sh f
    else match t.lookahead sh f with
      | some o => t.fault .lookahead (BitVec.ofNat 64 o.code) w.seq
      | none => t

/-- POISON met in a vault is logged with the vault offset (R104). -/
def logVault (s : State) (w : Wave) (c : Cause) (eval : DWord) : State :=
  if c = .poison then s.logCheck (dieOf w.core) w.core 1 0 0 0 (eval.toNat % 2 ^ 30) else s

/-- A wave instruction (R210): one effect for the group when some qualifying predicate is true; the
operand values `vals` must agree. -/
def execWaveAt (need : Level) (sh : Shape) (f : Fields) (vals : State → Wave → Nat → Thread → List Word)
    (body : State → Wave → List Nat → List Word → WRes) (s : State) : Host.Outcome State Fault Refusal :=
  withGroup s fun s w lanes =>
    match checkIssue need (w.levelOf lanes) sh f w.blocks with
    | some (c, e) => faultLanes s w.id lanes c e w.seq
    | none =>
      let on := w.clearLanes sh f lanes
      let vs := on.map fun l => ((w.threads[l]?).map fun t => vals s w l (t.issued s sh f)).getD []
      let others (s : State) : State := lanes.foldl (runOthers sh f w) s
      match on, vs with
      | _ :: _, v :: _ =>
        if !allSame vs then faultLanes s w.id lanes .illegal 7 w.seq
        else
          match body s w on v with
          | .done s' g =>
            on.foldl (fun s lane => s.modThread w.id lane fun t => g lane (t.issued s sh f)) (others s')
          | .fault c e => faultLanes (logVault (others s) w c e) w.id on c e w.seq
          | .faultAll c e => faultLanes s w.id lanes c e w.seq
          | .hold => s
      | _, _ => others s

/-- An unprivileged wave instruction. -/
def execWave (sh : Shape) (f : Fields) (vals : State → Wave → Nat → Thread → List Word)
    (body : State → Wave → List Nat → List Word → WRes) (s : State) : Host.Outcome State Fault Refusal :=
  execWaveAt .user sh f vals body s

/-- Park a thread at an instruction (R209). -/
def Thread.park (t : Thread) (p : Park) (f : Fields) : Thread := { t with run := .parked p f.form.len, cut := 248 }

/-- What ends a park writes its destination, but for registers of blocks returned since (R53). -/
def Thread.lateD (t : Thread) (d : Option Nat) (ws : List Word) : Thread :=
  t.writeD d (match d with | some k => ws.take (t.cut - k) | none => ws)

/-- A thread leaves its park: past the instruction, with a result. -/
def Thread.unpark (t : Thread) (len : Nat) (d : Option Nat) (ws : List Word) : Thread :=
  ({ (t.pushAll ws.reverse).lateD d ws with run := .running }).advance len

end Sys2Proof.Machine
end

