-- ==== Sys2Proof/Machine/Pod.lean ====
section
/-! DEFINITION. Packets that leave for peer packages over the pod fabric: streams, planes, transmit queues and
intermediate packages (R101, R398, R399, R401). -/

namespace Sys2Proof.Machine

open Sys2Proof

/-- A number in a table by a pair, zero where it is not listed. -/
def pairGet (l : List ((Nat × Nat) × Nat)) (k : Nat × Nat) : Nat :=
  ((l.find? fun p => p.1 = k).map fun p => p.2).getD 0

def pairSet (l : List ((Nat × Nat) × Nat)) (k : Nat × Nat) (v : Nat) : List ((Nat × Nat) × Nat) :=
  (k, v) :: l.filter fun p => p.1 ≠ k

/-! ## Transmit queues (R398, R400) -/

/-- 64-byte beats of a packet: those of its data, and at least one (DESIGN CHOICE log 82). -/
def podBeats (k : PodPacket) : Nat :=
  let n := match k.payload with
    | .write _ d _ _ _ | .writeBack _ d _ _ | .reply _ d _ _ => d.length
    | .message m => 4 * m.payload.length
    | .fragment g => g.data.length
    | _ => 0
  max 1 ((n + 63) / 64)

/-- The clk that a beat takes on a lane of 8 GB/s, at rate code `code` (R397, R400, DESIGN CHOICE log 82). -/
def beatClk (code : Nat) : Nat := 17 * 2 ^ code

/-- The rate code and the clk of the last notice from a destination. -/
def Fabric.code (f : Fabric) (dest : Nat) : Nat × Nat := lookD (0, 0) f.codes dest

/-- The clks at which the packets of a plane's transmit queue to a package leave it. -/
def Fabric.leaving (f : Fabric) (plane hop clk : Nat) : List Nat :=
  ((f.kept.filter fun k => k.plane = plane && k.packet.hop = hop && decide (clk < k.leaves)).map fun k => k.leaves)
    ++ (f.relayed.filter fun k => k.plane = plane && k.packet.hop = hop && decide (clk < k.leaves)).map fun k => k.leaves

/-- The clk at which a packet that joins a plane's transmit queue now leaves it. -/
def Fabric.leavesAt (f : Fabric) (k : PodPacket) (plane clk : Nat) : Nat :=
  (f.leaving plane k.hop clk).foldl max clk + podBeats k * beatClk (f.code k.hop).1

/-! ## Planes (R398, R399) -/

/-- The live planes. -/
def livePlanes (planes : BitVec 256) : List Nat := (List.range 256).filter fun p => planes.getLsbD p

/-- The plane that a `.MIN` stream hashes to over the live ones (R398); 256 where none is live. -/
def hashPlane (planes : BitVec 256) (stream : Nat) : Nat :=
  match livePlanes planes with
  | [] => 256
  | p :: ps =>
    let k := stream - 1
    (p :: ps).getD (Config.planeHash (k / 4096) (k / 128 % 32) (k / 16 % 8) (k % 16) % (ps.length + 1)) p

/-- The live plane whose transmit queue to a package is shortest, the lowest of them (R398, DESIGN CHOICE log 82). -/
def Fabric.shortest (f : Fabric) (hop clk : Nat) : Nat :=
  match livePlanes f.planes with
  | [] => 256
  | p :: ps => ps.foldl (fun b x => if (f.leaving x hop clk).length < (f.leaving b hop clk).length then x else b) p

/-- The plane of a packet: a stream keeps the one that it first hashed to (R398, R399). -/
def Fabric.planeOf (f : Fabric) (k : PodPacket) (clk : Nat) : Nat :=
  if k.stream = 0 then f.shortest k.hop clk
  else match f.ways.find? fun w => w.1 = (k.dst, k.stream) with
    | some w => w.2
    | none => hashPlane f.planes k.stream

/-- The stream of a `.MIN` access of a core to a home die and lane (R125, R398); 0 for a packet of no stream. -/
def streamOf (cls : Route) (core home lane : Nat) : Nat :=
  if cls = .min then core * 128 + home % 8 * 16 + lane % 16 + 1 else 0

/-- A `.MIN` stream is held while a packet of it that left a failed plane is not acknowledged (R399). -/
def Fabric.streamHeld (f : Fabric) (dst stream : Nat) : Bool :=
  stream ≠ 0 && f.kept.any fun k => k.packet.dst = dst && k.packet.stream = stream && k.moved

/-- A kept packet goes out on a plane now. -/
def Fabric.emit (f : Fabric) (k : Kept) (clk : Nat) : Kept :=
  let p := f.planeOf k.packet clk
  { k with plane := p, sentAt := clk, leaves := if p = 256 then 0 else f.leavesAt k.packet p clk }

/-- The stream of a packet that went out on a plane keeps it. -/
def Fabric.settleWay (f : Fabric) (k : Kept) : Fabric :=
  if k.packet.stream = 0 || k.plane = 256 then f
  else { f with ways := pairSet f.ways (k.packet.dst, k.packet.stream) k.plane }

/-! ## Sending (R101, R398, R401) -/

/-- The intermediate package of a `.BNC` packet: neither its source nor its destination (R101). -/
def intermediate (src dst core count : Nat) : Nat :=
  ((List.range 32).filter fun p => p ≠ src && p ≠ dst).getD (Config.bncHash core count % 30) dst

/-- Where a packet travels: its source core, its home die and its lane (R398). -/
structure PodPath where
  core : Nat
  home : Nat
  lane : Nat
  deriving DecidableEq, Repr

/-- A packet is sent to a peer and kept until it is acknowledged (R398, R401): its identity is returned. -/
def State.sendPod (s : State) (dst part : Nat) (cls : Route) (path : PodPath) (payload : PodPayload) : State × Nat :=
  let f := s.fabric
  let stream := streamOf cls path.core path.home path.lane
  let count := sget 0 f.bounced path.core
  let packet : PodPacket :=
    { src := s.system.pkgid, dst := dst, hop := if cls = .bnc then intermediate s.system.pkgid dst path.core count else dst,
      part := part, number := pairGet f.sendNumber (dst, part), cls := cls, stream := stream,
      index := if stream = 0 then 0 else pairGet f.sendStream (dst, stream), full := false, payload := payload }
  let kept : Kept :=
    { id := s.nextId, packet := packet, plane := 256, sentAt := s.clk, moved := false, resent := none }
  let kept := if f.streamHeld dst stream then kept else f.emit kept s.clk
  let f := f.settleWay kept
  ({ s.fresh with fabric := { f with
      kept := f.kept ++ [kept]
      sendNumber := pairSet f.sendNumber (dst, part) (packet.number + 1)
      sendStream := if stream = 0 then f.sendStream else pairSet f.sendStream (dst, stream) (packet.index + 1)
      bounced := if cls = .bnc then sset 0 f.bounced path.core (count + 1) else f.bounced } }, s.nextId)

/-- The path of an access of a core to an address of a peer (R102, R125). -/
def peerPath (core pa lane : Nat) : PodPath := { core := core, home := Config.peerHome pa, lane := lane }

/-- A packet for another package is passed on as `.ADP` (R101, R398). -/
def State.relay (s : State) (k : PodPacket) : State :=
  let f := s.fabric
  let k := { k with hop := k.dst }
  let p := f.shortest k.hop s.clk
  { s with fabric := { f with
      relayed := (f.relayed.filter fun r => decide (s.clk < r.leaves)) ++ [{ packet := k, plane := p, leaves := if p = 256 then s.clk + 1 else f.leavesAt k p s.clk }] } }

/-- The package tells a sender something. -/
def State.signal (s : State) (x : Signal) : State :=
  { s with fabric := { s.fabric with signals := s.fabric.signals ++ [x] } }

end Sys2Proof.Machine
end

