-- ==== Sys2Proof/Machine/Memory.lean ====
section
/-! DEFINITION. Global memory of the package: physical addresses (R82, R83), homes (R13, R102), bytes with
ECC and poison (R103-R105), release records (R123), and the lines of each die's LLC (R97-R99). -/

namespace Sys2Proof.Machine

open Sys2Proof

/-! ## Physical addresses (R82) -/

def paPkg (pa : Nat) : Nat := pa / 2 ^ 47 % 32
def paSpace (pa : Nat) : Nat := pa / 2 ^ 44 % 8
def paOffset (pa : Nat) : Nat := pa % 2 ^ 44

/-- Bytes of DRAM of a package: 576 GiB. -/
def dramSize : Nat := 576 * 2 ^ 30

/-- A physical address of a space of a package. -/
def mkPa (pkg space off : Nat) : Nat := pkg * 2 ^ 47 + space * 2 ^ 44 + off

/-- A physical address that R83 refuses: a reserved space, or DRAM beyond its end. -/
def paBad (pa : Nat) : Bool :=
  decide (4 ≤ paSpace pa) || (paSpace pa = 0 && decide (dramSize ≤ paOffset pa))

/-- The address is DRAM of this package. -/
def State.ownDram (s : State) (pa : Nat) : Bool := paPkg pa = s.system.pkgid && paSpace pa = 0

/-- Bits of an address. -/
def paBits (pa lo len : Nat) : Nat := pa / 2 ^ lo % 2 ^ len

/-- `home_die` (R13): placement 0 DIELOCAL, 1 IL4K, 2 IL64K, on a die set. -/
def homeDie (pa place die : Nat) (set : List Nat) : Nat :=
  if place = 0 then die
  else
    let sh := if place = 1 then 12 else 16
    let h := paBits pa sh 3 ^^^ paBits pa (sh + 3) 3 ^^^ paBits pa (sh + 6) 3 ^^^ paBits pa (sh + 9) 3
    set.getD (h % set.length) 0

/-- The frame placement entry of an address's frame (R102, R418). -/
def State.frameEntry (s : State) (pa : Nat) : Byte := sget 0 s.frames (paOffset pa / 2 ^ 16)

def frameValid (e : Byte) : Bool := e.getLsbD 0
def framePlace (e : Byte) : Nat := bits e 1 2
def frameDie (e : Byte) : Nat := bits e 3 3
def framePart (e : Byte) : Nat := bits e 6 2

/-- The frame of an address of this package belongs to a partition (R361). -/
def State.frameOwned (s : State) (part pa : Nat) : Bool :=
  let e := s.frameEntry pa
  frameValid e && framePart e = part

/-- The address is DRAM of a peer package. -/
def State.peerDram (s : State) (pa : Nat) : Bool := paPkg pa ≠ s.system.pkgid && paSpace pa = 0

/-- The home die of an address of this package (R102): that of the frame placement table, also where the page entry says
otherwise; a die outside the partition's set counts as its lowest, so that no other partition's die serves the frame (R8)
(DESIGN CHOICE log 78). -/
def State.home (s : State) (pa : Nat) : Nat :=
  let e := s.frameEntry pa
  let set := s.dieSet (framePart e)
  let d := homeDie pa (framePlace e) (frameDie e) set
  if set.contains d then d else set.getD 0 d

/-- The lane of R125. -/
def minLane (pa : Nat) : Nat := paBits pa 7 4 ^^^ paBits pa 11 4 ^^^ paBits pa 15 4 ^^^ paBits pa 19 4

/-- The quad of the home die that serves an address (R100). -/
def serviceQuad (pa : Nat) : Nat := paBits pa 7 3 ^^^ paBits pa 10 3

/-! ## Granules (R103) -/

/-- The granules that a range touches. -/
def granules (pa n : Nat) : List Nat :=
  if n = 0 then [] else (List.range ((pa + n - 1) / 32 - pa / 32 + 1)).map fun i => pa / 32 + i

/-- The range covers all of a granule (R105). -/
def covers (pa n g : Nat) : Bool := decide (pa ≤ 32 * g ∧ 32 * g + 32 ≤ pa + n)

/-- Some granule of a range is poisoned. -/
def poisonedIn (poison : List Nat) (pa n : Nat) : Bool := (granules pa n).any poison.contains

/-- The poison after a write: cleared where all of a granule is written (R105). -/
def clearPoison (poison : List Nat) (pa n : Nat) : List Nat :=
  poison.filter fun g => !covers pa n g

/-- Poison added to granules. -/
def addPoison (poison gs : List Nat) : List Nat :=
  gs.foldl (fun p g => if p.contains g then p else p ++ [g]) poison

/-- The granules whose other bytes hold an error that a write merges with (R105). -/
def merged (poison : List Nat) (pa n : Nat) : List Nat :=
  (granules pa n).filter fun g => poison.contains g && !covers pa n g

/-- The bytes of a range that poisoned granules hold. -/
def badBytes (poison : List Nat) (at_ n : Nat) : List Nat := (List.range n).filter fun i => poison.contains ((at_ + i) / 32)

/-- Listed bytes as those of the `n` from `lo` on. -/
def badPart (bad : List Nat) (lo n : Nat) : List Nat := (bad.filter fun i => decide (lo ≤ i ∧ i < lo + n)).map fun i => i - lo

/-- The granules that listed bytes of a range lie in. -/
def badGranules (at_ : Nat) (bad : List Nat) : List Nat := addPoison [] (bad.map fun i => (at_ + i) / 32)

/-- Each corrected error of a read is counted and its data written back (R103, R380) (DESIGN CHOICE log 21). -/
def State.correct (s : State) (die : Nat) (sites : List ErrorSite) : State :=
  let hit := s.soft.filter fun e => sites.contains e
  if hit = [] then s
  else
    let d := s.die die
    let n := min (d.cecnt.toNat + hit.length) (2 ^ 32 - 1)
    { s.setDie die { d with cecnt := BitVec.ofNat 32 n } with soft := s.soft.filter fun e => !sites.contains e }

/-! ## Bytes -/

/-- Bytes of this package's DRAM or of host memory (DESIGN CHOICE log 3). -/
def State.peek (s : State) (pa n : Nat) : List Byte := sbytes s.mem pa n

/-- A read of DRAM or host memory that is not poisoned, with its corrections (R103). -/
def State.readDone (s : State) (pa n : Nat) : State :=
  s.correct (s.home pa) ((granules pa n).map fun g => .dram (32 * g))

/-- The aligned 8-byte words that a range touches. -/
def words8 (pa n : Nat) : List Nat :=
  if n = 0 then [] else (List.range ((pa + n - 1) / 8 - pa / 8 + 1)).map fun i => pa / 8 + i

/-- The release records after a write (R123): each word's record replaced, or cleared. -/
def record (rs : RelRecords) (ws : List Nat) (r : Option (Scope × Origin)) : RelRecords :=
  ws.foldl (fun rs w => match r with | some x => put rs w x | none => drop rs w) rs

/-- The records that words hold. -/
def recordsOf (rs : RelRecords) (ws : List Nat) : RelRecords := rs.filter fun r => ws.contains r.1

/-- The die whose log takes an event of an address: its home, or that of the core for a peer's line. -/
def State.logDie (s : State) (core pa : Nat) : Nat := if s.ownDram pa then s.home pa else dieOf core

/-- A write to DRAM or host memory, performed: its bytes, the poison (R105), the log of a merge, and
the release records (R123). -/
def State.poke (s : State) (core pa : Nat) (data : List Byte) (rel : Option (Scope × Origin)) : State :=
  let n := data.length
  let s1 := (merged s.poison pa n).foldl (fun s g => s.logCheck (s.logDie core pa) core 2 0 0 0 (32 * g)) s
  { s1 with
    mem := swrite s1.mem pa data
    poison := clearPoison s1.poison pa n
    releases := record s1.releases (words8 pa n) rel }

/-- A write by an engine: the bytes, and each granule that one of a poisoned source lands in poisoned (R104). -/
def State.pokePoison (s : State) (core pa : Nat) (data : List Byte) (bad : List Nat) (rel : Option (Scope × Origin)) : State :=
  let s1 := s.poke core pa data rel
  { s1 with poison := addPoison s1.poison (badGranules pa bad) }

/-! ## Lines of the LLC (R97-R99, R107) -/

def lineOf (pa : Nat) : Nat := pa / 128

/-- The code of a line's slice (R390). -/
def sliceCode (pa : Nat) : Nat := paBits pa 7 3 ^^^ paBits pa 12 3 ^^^ paBits pa 17 3 ^^^ paBits pa 22 3

/-- The row of a line's slice. -/
def sliceRow (pa : Nat) : Nat := paBits pa 10 2 ^^^ paBits pa 15 2 ^^^ paBits pa 20 2

/-- The column that serves a code. -/
def mapColumn (m : BitVec 24) (code : Nat) : Nat := bits m (3 * code) 3

/-- The slice of a die that holds a line (R390). -/
def Die.slice (d : Die) (pa : Nat) : Nat := 8 * sliceRow pa + mapColumn d.slMap (sliceCode pa)

/-- The lines that a range touches. -/
def linesIn (pa n : Nat) : List Nat :=
  if n = 0 then [] else (List.range ((pa + n - 1) / 128 - pa / 128 + 1)).map fun i => pa / 128 + i

/-- Unpredictable bytes that the spec does not bound: those that another package holds (DESIGN CHOICE log 11). -/
def freeBytes (draw : Nat) : Nat → List Byte
  | 0 => []
  | n + 1 => (Config.freeWord draw).extractLsb' 0 8 :: freeBytes (draw + 1) n

/-- Bytes that nobody may rely on: each the one that stood there, or zero (R6, R91, R92, DESIGN CHOICE log 14). -/
def openBytes (draw : Nat) : List Byte → List Byte
  | [] => []
  | b :: bs => (if Config.coin draw then b else 0) :: openBytes (draw + 1) bs

/-- The content of a line is set: its bytes, poison and release records. -/
def State.setLine (s : State) (line : Nat) (data : List Byte) (bad : List Nat) (recs : RelRecords) : State :=
  let pa := 128 * line
  { s with
    mem := swrite s.mem pa data
    poison := addPoison (clearPoison s.poison pa 128) (badGranules pa bad)
    releases := recs ++ record s.releases (words8 pa 128) none }

/-- The lines of a range whose only copy a peer's LLC holds come back to their home (R97): what the peer wrote there is a
free value (DESIGN CHOICE log 11). -/
def State.reclaim (s : State) (pa n : Nat) : State :=
  ((linesIn pa n).filter s.lent.contains).foldl (fun s k =>
    { s.setLine k (freeBytes s.draws 128) [] [] with lent := s.lent.filter fun x => x ≠ k, draws := s.draws + 128 }) s

/-- A die's copy of a line goes. A dirty one of a peer's line is written back to its home, in the class of the last access
that wrote it (R97, R98). -/
def State.dropLine (s : State) (die line : Nat) : State :=
  match look (s.die die).lines line with
  | none => s
  | some l =>
    let d := s.die die
    let pa := 128 * line
    let t := s.setDie die { d with lines := drop d.lines line }
    if !s.peerDram pa || t.dies.any fun p => (look p.2.lines line).isSome then t
    else
      let t := if l.dirty then
          (t.sendPod (paPkg pa) (t.partOf die) l.cls (peerPath (32 * die) pa (minLane pa))
            (.writeBack pa (t.peek pa 128) (badBytes t.poison pa 128) (recordsOf t.releases (words8 pa 128)))).1
        else t
      t.setLine line (List.replicate 128 0) [] []

/-- Lines of a slice: 3 MiB (R1). -/
def sliceLines : Nat := 24576

/-- A die makes room in a slice for one more line: where it is full, one whose fill has come goes (R1); the choice is open
(R7, DESIGN CHOICE log 16). -/
def State.makeRoom (s : State) (die pa : Nat) : State :=
  let d := s.die die
  if d.lines.length < sliceLines then s
  else
    let same := d.lines.filter fun l => d.slice (128 * l.1) = d.slice pa
    let old := same.filter fun l => !l.2.filling
    if same.length < sliceLines || old = [] then s
    else { s.dropLine die ((old[(Config.freeWord s.draws).toNat % old.length]?.map fun l => l.1).getD 0) with draws := s.draws + 1 }

/-- An access that looks a line up counts a hit or a miss of its slice (R424). -/
def State.countLine (s : State) (die pa : Nat) : State :=
  let d := s.die die
  let x := d.slice pa
  if (look d.lines (lineOf pa)).isSome then s.setDie die { d with hits := sset 0 d.hits x (sget 0 d.hits x + 1) }
  else s.setDie die { d with misses := sset 0 d.misses x (sget 0 d.misses x + 1) }

/-- A copy of a line is in a die's LLC from now on; `write` makes it the only, dirty copy (R97, R98). One that was not
there starts a fill (R107). -/
def State.placeLine (s : State) (die pa : Nat) (cls : Route) (write : Bool) : State :=
  let k := lineOf pa
  let s := s.reclaim pa 1
  let others := if write then s.dies.map fun p => if p.1 = die then p else (p.1, { p.2 with lines := drop p.2.lines k })
    else s.dies
  let s := { s with dies := others }
  let d := s.die die
  match look d.lines k with
  | some l => s.setDie die { d with lines := put d.lines k { l with dirty := l.dirty || write, cls := if write then cls else l.cls } }
  | none =>
    let s := s.makeRoom die pa
    let d := s.die die
    s.setDie die { d with lines := put d.lines k { filling := true, dirty := write, cls := cls } }

/-- A cached access touches a line of a die's LLC. -/
def State.touchLine (s : State) (die pa : Nat) (cls : Route) (write : Bool) : State :=
  (s.countLine die pa).placeLine die pa cls write

/-- A direct write invalidates every copy (R99). -/
def State.invalidate (s : State) (pa n : Nat) : State :=
  let ks := linesIn pa n
  let s := s.reclaim pa n
  { s with dies := s.dies.map fun p => (p.1, { p.2 with lines := p.2.lines.filter fun l => !ks.contains l.1 }) }

/-- A direct read recalls dirty copies (R99). -/
def State.recall (s : State) (pa : Nat) : State :=
  let s := s.reclaim pa 1
  { s with dies := s.dies.map fun p =>
      (p.1, { p.2 with lines := p.2.lines.map fun l => if l.1 = lineOf pa then (l.1, { l.2 with dirty := false }) else l }) }

/-! ## Cached lines of peer packages (R97, R98, R113) -/

/-- A die's LLC can serve a cached access to a peer's line: a copy whose fill has come, for a write the only one. -/
def State.lineServes (s : State) (die pa : Nat) (write : Bool) : Bool :=
  match look (s.die die).lines (lineOf pa) with
  | some l => !l.filling && (!write || l.only)
  | none => false

/-- A die whose copy of a peer's line cannot serve a use asks its home for one, for a write for the only one, in the class
of the access (R97, R98). -/
def State.askLine (s : State) (die core pa : Nat) (cls : Route) (write : Bool) : State :=
  let k := lineOf pa
  let l := look (s.die die).lines k
  if s.lineServes die pa write || ((l.map fun l => l.asked.isSome).getD false) then s
  else
    let s := if l.isNone then s.makeRoom die pa else s
    let (s, id) := s.sendPod (paPkg pa) (s.partOf die) cls (peerPath core pa (minLane pa)) (.fetch (128 * k) write s.nextId)
    let d := s.die die
    s.setDie die { d with
      lines := put d.lines k { filling := true, dirty := false, cls := cls, only := write, asked := some id } }

/-- A cached access to a peer's line that its die cannot serve is a miss, and asks for the line. -/
def State.fetchLine (s : State) (die core pa : Nat) (cls : Route) (write : Bool) : State :=
  let asked := ((look (s.die die).lines (lineOf pa)).bind fun l => l.asked).isSome
  if s.lineServes die pa write || asked then s
  else
    let d := s.die die
    (s.setDie die { d with misses := sset 0 d.misses (d.slice pa) (sget 0 d.misses (d.slice pa) + 1) }).askLine die core pa cls write

/-- The reply to a fetch fills the line of the die that asked for it; where it is the only copy, the others go. -/
def State.fillFetched (s : State) (tag : Nat) (data : List Byte) (bad : List Nat) (recs : RelRecords) : State :=
  match s.dies.findSome? fun p => (p.2.lines.find? fun l => l.2.asked = some tag).map fun l => (p.1, l) with
  | none => s
  | some (die, k, l) =>
    let s := s.setLine k data bad recs
    { s with dies := s.dies.map fun p =>
        if p.1 = die then (p.1, { p.2 with lines := put p.2.lines k { l with filling := false, asked := none } })
        else if l.only then (p.1, { p.2 with lines := drop p.2.lines k })
        else (p.1, { p.2 with lines := p.2.lines.map fun x => if x.1 = k then (x.1, { x.2 with only := false, dirty := false }) else x }) }

/-! ## Scopes (R116, R122, R123) -/

/-- The scope of agent `a` includes agent `b` (R116). -/
def includes (sc : Scope) (a b : Origin) : Bool :=
  let here := decide (a.pkg = b.pkg)
  match sc with
  | .core => here && a.wg = b.wg
  | .quad => here && a.gang = b.gang
  | .die => here && a.die = b.die
  | .pkg => here && a.part = b.part
  | .pod => (here && a.part = b.part) || match a.job, b.job with
    | some x, some y => x.packages = y.packages && (!here || x.queue = y.queue)
    | _, _ => false
  | .sys => true

/-- An acquire by a workgroup's wave that read words with these records: SCOPE_MISS where a kept release does not
include it (R123). -/
def State.acquired (s : State) (recs : RelRecords) (sc : Scope) (o : Origin) : State :=
  if recs.any fun r => !(includes r.2.1 r.2.2 o && includes sc o r.2.2) then s.modWg o.wg fun g => { g with scopeMiss := true } else s

end Sys2Proof.Machine
end

