-- ==== Sys2Proof/Machine/Csr.lean ====
section
/-! DEFINITION. Control registers and their levels (R202), and the layout of device-register space (R416). -/

namespace Sys2Proof.Machine

open Sys2Proof

/-- A number lies in a range. -/
def within (lo hi n : Nat) : Bool := decide (lo ≤ n ∧ n ≤ hi)

/-- Registers reached at SUPER (R202): the SUPER trap set, those of a workgroup, a queue's context pool, the
frame placement table, the replay check, the line counters and the pool, the queue registers, PREQ, QPHAL and
the translation registers. -/
def superReg (n : Nat) : Bool :=
  within 0x300 0x30A n || within 0x320 0x323 n || within 0x354 0x355 n || within 0x3C0 0x3C2 n || within 0x3D0 0x3D2 n
    || within 0x3E0 0x3E8 n || within 0x3ED 0x3F5 n

/-- Registers reached at SYS: the SYS trap set, debug and machine-check registers, those of the network, the
partitions, bring-up, heat, snapshots and power. -/
def sysReg (n : Nat) : Bool :=
  within 0x310 0x31A n || n = 0x324 || within 0x330 0x33A n || within 0x340 0x344 n || within 0x350 0x353 n
    || within 0x356 0x359 n || within 0x360 0x365 n || within 0x3E9 0x3EC n

/-- The level of a register number; none where no map assigns it (DEDUCED log 61). -/
def csrLevel (n : Nat) : Option Level :=
  if superReg n then some .super else if sysReg n then some .sys else none

/-- Registers held per thread (R373), without TVEC. -/
def threadReg (n : Nat) : Bool := within 0x302 0x30A n || within 0x312 0x31A n

/-- Package-wide registers. -/
def packageReg (n : Nat) : Bool :=
  within 0x310 0x311 n || within 0x343 0x344 n || within 0x350 0x355 n || within 0x358 0x359 n || within 0x360 0x362 n
    || within 0x3E9 0x3EC n

/-- Registers of a partition. -/
def partReg (n : Nat) : Bool :=
  within 0x300 0x301 n || within 0x322 0x323 n || within 0x356 0x357 n || within 0x3E0 0x3E8 n || within 0x3ED 0x3F3 n

/-- Registers of a queue that its own block holds (R416). -/
def queueReg (n : Nat) : Bool := within 0x3E1 0x3E8 n || within 0x3EE 0x3F1 n

/-! ## Device-register space (R416) -/

/-- What 8 bytes of device-register space are. -/
inductive DevSlot where
  | package (num : Nat)
  | part (p num : Nat)
  | queue (p q num : Nat)
  | window (w at_ : Nat)
  | endpoint (e i : Nat)
  | program (g i : Nat)
  | pgctl (g : Nat)
  | none
  deriving DecidableEq, Repr

/-- The slot at an offset. -/
def devSlot (off : Nat) : DevSlot :=
  if off < 0x4000 then .package (off / 8)
  else if within 0x1000000 0x4FFFFFF off then
    let p := off / 0x1000000 - 1
    let r := off % 0x1000000
    if r < 0x4000 then .part p (r / 8)
    else if within 0x100000 0x103FFF r then .queue p ((r - 0x100000) / 0x100) (0x3E0 + r % 0x100 / 8)
    else .none
  else if within 0x8000000 0x87FFFFF off then .window ((off - 0x8000000) / 0x800) (off % 0x800 / 8 * 8)
  else if within 0x8800000 0x880FFFF off then .endpoint ((off - 0x8800000) / 64) (off / 8 % 8)
  else if within 0x8900000 0x897FFFF off then .program ((off - 0x8900000) / 0x800) (off / 8 % 256)
  else if within 0x8980000 0x89807FF off then .pgctl ((off - 0x8980000) / 8)
  else .none

/-- A thread at a level, of a partition of this package or of none, may reach a slot. -/
def DevSlot.open_ (x : DevSlot) (level : Level) (part : Option Nat) : Bool :=
  let mine (p n : Nat) : Bool :=
    level = .sys || (level = .super && part = some p && ((csrLevel n).map fun l => l.le level).getD true)
  match x with
  | .package _ | .program _ _ | .pgctl _ => level = .sys
  | .part p n | .queue p _ n => mine p n
  | .window _ _ | .endpoint _ _ | .none => level ≠ .user

/-- The offsets of the slots that a range touches. -/
def devSlots (off n : Nat) : List Nat := (words8 off n).map fun k => 8 * k

/-- An access may reach its device registers; one of another space always may. -/
def State.devOpen (s : State) (level : Level) (part pa n : Nat) : Bool :=
  if paSpace pa ≠ 2 then true
  else
    let own := if paPkg pa = s.system.pkgid then some part else none
    (devSlots (paOffset pa) n).all fun o => (devSlot o).open_ level own

end Sys2Proof.Machine
end

