-- ==== Sys2Proof/Machine/OpcodeMap.lean ====
section
/-! DEFINITION. The opcode map of R152 and the collective opcodes of R306, as maps between an
instruction and its code and fields, and the shape of each processor instruction. -/

namespace Sys2Proof

/-- The opcode, fields and shape of a processor instruction (R152). An unassigned opcode (R153) has
the shape of no instruction and is given no entry. -/
def Instr.proc : Instr → Option (BitVec 8 × Fields × Shape)
  | .nop f => some (0x00, f, shapeBare f)
  | .bra f => some (0x01, f, shapeBra f)
  | .brx f => some (0x02, f, shapeA64 f)
  | .call f => some (0x03, f, shapeCall f)
  | .callx f => some (0x04, f, shapeCallx f)
  | .ret f => some (0x05, f, shapeA64 f)
  | .exit f => some (0x06, f, shapeBare f)
  | .yield f => some (0x07, f, shapeBare f)
  | .sleep f => some (0x08, f, shapeA32 f)
  | .sleepto f => some (0x09, f, shapeA64 f)
  | .trap f => some (0x0A, f, shapeTrap f)
  | .bkpt f => some (0x0B, f, shapeA32 f)
  | .wsync f => some (0x0C, f, shapeA32 f)
  | .ivl f => some (0x0D, f, shapeA32 f)
  | .launch f => some (0x0E, f, shapeLaunch f)
  | .amsend f => some (0x0F, f, shapeAmsend f)
  | .iadd f => some (0x10, f, shapeAddSub f)
  | .isub f => some (0x11, f, shapeAddSub f)
  | .iadd64 f => some (0x12, f, shapeAddSub64 f)
  | .isub64 f => some (0x13, f, shapeAddSub64 f)
  | .imul f => some (0x14, f, shapeDAB f 0)
  | .imulh f => some (0x15, f, shapeDAB f 1)
  | .imad f => some (0x16, f, shapeDABC f 0)
  | .imadw f => some (0x17, f, shapeImadw f)
  | .imin f => some (0x18, f, shapeDAB f 1)
  | .imax f => some (0x19, f, shapeDAB f 1)
  | .iabs f => some (0x1A, f, shapeDA f 1)
  | .ishl f => some (0x1B, f, shapeDAB f 1)
  | .ishr f => some (0x1C, f, shapeDAB f 3)
  | .shf f => some (0x1D, f, shapeDABC f 3)
  | .lop3 f => some (0x1E, f, shapeDABC f 0xFF)
  | .popc f => some (0x1F, f, shapeDA f 0)
  | .clz f => some (0x20, f, shapeDA f 0)
  | .brev f => some (0x21, f, shapeDA f 0)
  | .bfe f => some (0x22, f, shapeDAB f 1)
  | .bfi f => some (0x23, f, shapeDABC f 0)
  | .prmt f => some (0x24, f, shapeDABC f 0)
  | .lea f => some (0x25, f, shapeLea f)
  | .sel f => some (0x26, f, shapeSel f)
  | .mov f => some (0x27, f, shapeMov f)
  | .movi f => some (0x28, f, shapeMovi f)
  | .movw f => some (0x29, f, shapeDAB f 1)
  | .icmp f => some (0x2A, f, shapeIcmp f .s32)
  | .icmp64 f => some (0x2B, f, shapeIcmp f .s64)
  | .plop f => some (0x30, f, shapePlop f)
  | .ppack f => some (0x31, f, shapePpack f)
  | .pset f => some (0x32, f, shapePset f)
  | .fadd f => some (0x38, f, shapeFarith f)
  | .fmul f => some (0x39, f, shapeFarith f)
  | .ffma f => some (0x3A, f, shapeFfma f)
  | .fmin f => some (0x3B, f, shapeDAB f 0xF0)
  | .fmax f => some (0x3C, f, shapeDAB f 0xF0)
  | .fcmp f => some (0x3D, f, shapeFcmp f)
  | .frnd f => some (0x3E, f, shapeFrnd f)
  | .frcp f => some (0x3F, f, shapeSfu f)
  | .frsq f => some (0x40, f, shapeSfu f)
  | .fsqrt f => some (0x41, f, shapeSfu f)
  | .fex2 f => some (0x42, f, shapeSfu f)
  | .flg2 f => some (0x43, f, shapeSfu f)
  | .fsin f => some (0x44, f, shapeSfu f)
  | .fcos f => some (0x45, f, shapeSfu f)
  | .ftanh f => some (0x46, f, shapeSfu f)
  | .fsigm f => some (0x47, f, shapeSfu f)
  | .hadd2 f => some (0x48, f, shapeH2 f 0xFF .none)
  | .hmul2 f => some (0x49, f, shapeH2 f 0xFF .none)
  | .hfma2 f => some (0x4A, f, shapeH2 f 0x1FF .s32)
  | .hmax2 f => some (0x4B, f, shapeH2 f 0xF0 .none)
  | .f2i f => some (0x4C, f, shapeF2i f)
  | .i2f f => some (0x4D, f, shapeI2f f)
  | .cvt f => some (0x4E, f, shapeCvt f)
  | .cvtp f => some (0x4F, f, shapeCvtp f)
  | .fclass f => some (0x50, f, shapeDA f 0)
  | .wshfl f => some (0x60, f, shapeWshfl f)
  | .wvote f => some (0x61, f, shapeWvote f)
  | .wredux f => some (0x62, f, shapeWredux f)
  | .ldv f => some (0x68, f, shapeLdv f)
  | .stv f => some (0x69, f, shapeStv f)
  | .ld f => some (0x6A, f, shapeLd f)
  | .st f => some (0x6B, f, shapeSt f)
  | .atom f => some (0x6C, f, shapeAtom f)
  | .red f => some (0x6D, f, shapeRed f)
  | .fence f => some (0x6E, f, shapeFence f)
  | .pref f => some (0x6F, f, shapePref f)
  | .ldl f => some (0x70, f, shapeLdl f)
  | .bufdecl f => some (0x71, f, shapeBufdecl f)
  | .bufset f => some (0x72, f, shapeBufset f)
  | .bufq f => some (0x73, f, shapeBufq f)
  | .xcopy f => some (0x78, f, shapeXcopy f)
  | .xgath f => some (0x79, f, shapeXgath f)
  | .xfill f => some (0x7A, f, shapeXfill f)
  | .xdrain f => some (0x7B, f, shapeXdrain f)
  | .xstat f => some (0x7C, f, shapeXstat f)
  | .xwait f => some (0x7D, f, shapeXwait f)
  | .ltinit f => some (0x80, f, shapeAB f)
  | .ltexp f => some (0x81, f, shapeLtexp f)
  | .ltarr f => some (0x82, f, shapeDAB f 0)
  | .ltwait f => some (0x83, f, shapeAB f)
  | .lttry f => some (0x84, f, shapeTry f)
  | .phreg f => some (0x88, f, shapePhreg f)
  | .phdrop f => some (0x89, f, shapeA32 f)
  | .phsig f => some (0x8A, f, shapeDA f 0)
  | .phwait f => some (0x8B, f, shapeAB f)
  | .phnext f => some (0x8C, f, shapeDA f 0)
  | .phtry f => some (0x8D, f, shapeTry f)
  | .rgrow f => some (0x8E, f, shapeDA f 0)
  | .rshrink f => some (0x8F, f, shapeDA f 0)
  | .rdcap f => some (0x90, f, shapeRdcap f)
  | .rdrmw f => some (0x91, f, shapeRdrmw f)
  | .rdboard f => some (0x92, f, shapeRdboard f)
  | .rdalight f => some (0x93, f, shapeRdalight f)
  | .rdfence f => some (0x94, f, shapeDOnly f)
  | .rdcancel f => some (0x95, f, shapeDOnly f)
  | .oclaim f => some (0xA0, f, shapeA64 f)
  | .orelease f => some (0xA1, f, shapeA64 f)
  | .oload f => some (0xA2, f, shapeOload f)
  | .ofence f => some (0xA3, f, shapeDOnly f)
  | .layset f => some (0xA4, f, shapeLayset f)
  | .msign f => some (0xA5, f, shapeMsign f)
  | .mma f => some (0xA6, f, shapeMma f)
  | .mwait f => some (0xA7, f, shapeDA f 0)
  | .mtrans f => some (0xA8, f, shapeMtrans f)
  | .mperm f => some (0xA9, f, shapeDABC f 7)
  | .mrsum f => some (0xAA, f, shapeMrsum f)
  | .aclr f => some (0xAB, f, shapeDA f 0)
  | .aread f => some (0xAC, f, shapeAread f)
  | .adrain f => some (0xAD, f, shapeAdrain f)
  | .awrite f => some (0xAE, f, shapeAwrite f)
  | .knock f => some (0xAF, f, shapeDAB f 1)
  | .qblk f => some (0xB0, f, shapeQuant f .none)
  | .qres f => some (0xB1, f, shapeQuant f .s32)
  | .desc f => some (0xB8, f, shapeDesc f)
  | .pgroup f => some (0xB9, f, shapeDABC f 0)
  | .ptread f => some (0xBA, f, shapePtread f)
  | .nodea f => some (0xBB, f, shapeNodea f)
  | .dgrad f => some (0xBC, f, shapeDgrad f)
  | .cwarm f => some (0xC0, f, shapeCwarm f)
  | .cwstat f => some (0xC1, f, shapeCwstat f)
  | .csrr f => some (0xE0, f, shapeDA f 0)
  | .csrw f => some (0xE1, f, shapeCsrw f)
  | .tlbinv f => some (0xE2, f, shapeTlbinv f)
  | .eret f => some (0xE3, f, shapeBare f)
  | .snap f => some (0xE4, f, shapeSnap f)
  | .svcrecv f => some (0xE5, f, shapeSvcrecv f)
  | .svcreply f => some (0xE6, f, shapeSvcreply f)
  | .halt f => some (0xE7, f, shapeA32 f)
  | .cnop _ => none
  | .cjmp _ => none
  | .cbr _ => none
  | .cend _ => none
  | .cyield _ => none
  | .cmov _ => none
  | .cldi _ => none
  | .cadd _ => none
  | .csub _ => none
  | .cand _ => none
  | .cor _ => none
  | .cshr _ => none
  | .cshl _ => none
  | .ccmp _ => none
  | .cstage _ => none
  | .cseen _ => none
  | .cready _ => none
  | .ccomb _ => none
  | .cplace _ => none
  | .cdropf _ => none
  | .cfwd _ => none
  | .cmcast _ => none
  | .cack _ => none
  | .csig _ => none
  | .ccnt _ => none
  | .ctime _ => none
  | .packageReset .. => none
  | .recoveryImage .. => none
  | .thermalTrip .. => none
  | .getVersion .. => none
  | .getCapabilities .. => none
  | .negotiateAlgorithms .. => none
  | .getDigests .. => none
  | .getCertificate .. => none
  | .challenge .. => none
  | .getMeasurements .. => none
  | .hostBar2Access .. => none
  | .qdoorWrite .. => none
  | .qcfgWrite .. => none
  | .qringWrite .. => none
  | .qphalWrite .. => none
  | .pphalWrite .. => none
  | .qrootWrite .. => none
  | .srootWrite .. => none
  | .preqSave .. => none
  | .preqKill .. => none
  | .dbgctlGo .. => none
  | .dbgctlKill .. => none
  | .partctlGo .. => none
  | .layoutChangeDone .. => none
  | .ringClear .. => none
  | .fptsetSelect .. => none
  | .fptsetWrite .. => none
  | .slcfgWrite .. => none
  | .slmapWrite .. => none
  | .sliceRemapDone .. => none
  | .windowBind .. => none
  | .windowUnbind .. => none
  | .programLoad .. => none
  | .endpointWrite .. => none
  | .registerWrite .. => none
  | .recordCheck .. => none
  | .entryEligible .. => none
  | .gangPlace .. => none
  | .placementStarvation .. => none
  | .sliceExpiry .. => none
  | .gangSave .. => none
  | .gangRestore .. => none
  | .workgroupRetire .. => none
  | .entryComplete .. => none
  | .activeMessageArrive .. => none
  | .handlerStart .. => none
  | .serviceRequestArrive .. => none
  | .longLatencyResult .. => none
  | .rgrowGrant .. => none
  | .intervalReload .. => none
  | .storeQueueDrain .. => none
  | .directAccessPerform .. => none
  | .cacheFill .. => none
  | .directoryRecall .. => none
  | .sleepWake .. => none
  | .lttryTimeout .. => none
  | .phtryTimeout .. => none
  | .copyTakeup .. => none
  | .copyArrival .. => none
  | .copyComplete .. => none
  | .copyFail .. => none
  | .xwaitTimeout .. => none
  | .ringOpEligible .. => none
  | .ringSlotPass .. => none
  | .ringOpMissing .. => none
  | .ringFull .. => none
  | .oloadComplete .. => none
  | .ticketComplete .. => none
  | .knockGrant .. => none
  | .tokenGrant .. => none
  | .tokenIdleReturn .. => none
  | .powerEvaluate .. => none
  | .fragmentArrive .. => none
  | .invocationStart .. => none
  | .timerInvocation .. => none
  | .csigArrival .. => none
  | .placementDeliver .. => none
  | .ueFragmentArrive .. => none
  | .ueTransportAck .. => none
  | .ueRetransmit .. => none
  | .podPacketReceive .. => none
  | .backNotice .. => none
  | .retransmitRequest .. => none
  | .podAck .. => none
  | .podRetransmitTimeout .. => none
  | .pacingDecay .. => none
  | .planeFail .. => none
  | .podTimeMeasure .. => none
  | .routerPowerDown .. => none
  | .routerWake .. => none
  | .walkComplete .. => none
  | .shootdownDeliver .. => none
  | .shootdownAck .. => none
  | .impreciseFaultTake .. => none
  | .shutterTick .. => none
  | .shutterInput .. => none
  | .shutterFramingTrigger .. => none
  | .illOpc .. => none
  | .uncorrectableError .. => none
  | .negativeAcknowledgement .. => none
  | .jobBinding .. => none
  | .windowArm .. => none

/-- The processor instruction of an opcode; an unassigned one raises ILL_OPC (R152, R153). -/
def Instr.ofOpc (opc : BitVec 8) (f : Fields) : Instr :=
  match opc.toNat with
  | 0x00 => .nop f
  | 0x01 => .bra f
  | 0x02 => .brx f
  | 0x03 => .call f
  | 0x04 => .callx f
  | 0x05 => .ret f
  | 0x06 => .exit f
  | 0x07 => .yield f
  | 0x08 => .sleep f
  | 0x09 => .sleepto f
  | 0x0A => .trap f
  | 0x0B => .bkpt f
  | 0x0C => .wsync f
  | 0x0D => .ivl f
  | 0x0E => .launch f
  | 0x0F => .amsend f
  | 0x10 => .iadd f
  | 0x11 => .isub f
  | 0x12 => .iadd64 f
  | 0x13 => .isub64 f
  | 0x14 => .imul f
  | 0x15 => .imulh f
  | 0x16 => .imad f
  | 0x17 => .imadw f
  | 0x18 => .imin f
  | 0x19 => .imax f
  | 0x1A => .iabs f
  | 0x1B => .ishl f
  | 0x1C => .ishr f
  | 0x1D => .shf f
  | 0x1E => .lop3 f
  | 0x1F => .popc f
  | 0x20 => .clz f
  | 0x21 => .brev f
  | 0x22 => .bfe f
  | 0x23 => .bfi f
  | 0x24 => .prmt f
  | 0x25 => .lea f
  | 0x26 => .sel f
  | 0x27 => .mov f
  | 0x28 => .movi f
  | 0x29 => .movw f
  | 0x2A => .icmp f
  | 0x2B => .icmp64 f
  | 0x30 => .plop f
  | 0x31 => .ppack f
  | 0x32 => .pset f
  | 0x38 => .fadd f
  | 0x39 => .fmul f
  | 0x3A => .ffma f
  | 0x3B => .fmin f
  | 0x3C => .fmax f
  | 0x3D => .fcmp f
  | 0x3E => .frnd f
  | 0x3F => .frcp f
  | 0x40 => .frsq f
  | 0x41 => .fsqrt f
  | 0x42 => .fex2 f
  | 0x43 => .flg2 f
  | 0x44 => .fsin f
  | 0x45 => .fcos f
  | 0x46 => .ftanh f
  | 0x47 => .fsigm f
  | 0x48 => .hadd2 f
  | 0x49 => .hmul2 f
  | 0x4A => .hfma2 f
  | 0x4B => .hmax2 f
  | 0x4C => .f2i f
  | 0x4D => .i2f f
  | 0x4E => .cvt f
  | 0x4F => .cvtp f
  | 0x50 => .fclass f
  | 0x60 => .wshfl f
  | 0x61 => .wvote f
  | 0x62 => .wredux f
  | 0x68 => .ldv f
  | 0x69 => .stv f
  | 0x6A => .ld f
  | 0x6B => .st f
  | 0x6C => .atom f
  | 0x6D => .red f
  | 0x6E => .fence f
  | 0x6F => .pref f
  | 0x70 => .ldl f
  | 0x71 => .bufdecl f
  | 0x72 => .bufset f
  | 0x73 => .bufq f
  | 0x78 => .xcopy f
  | 0x79 => .xgath f
  | 0x7A => .xfill f
  | 0x7B => .xdrain f
  | 0x7C => .xstat f
  | 0x7D => .xwait f
  | 0x80 => .ltinit f
  | 0x81 => .ltexp f
  | 0x82 => .ltarr f
  | 0x83 => .ltwait f
  | 0x84 => .lttry f
  | 0x88 => .phreg f
  | 0x89 => .phdrop f
  | 0x8A => .phsig f
  | 0x8B => .phwait f
  | 0x8C => .phnext f
  | 0x8D => .phtry f
  | 0x8E => .rgrow f
  | 0x8F => .rshrink f
  | 0x90 => .rdcap f
  | 0x91 => .rdrmw f
  | 0x92 => .rdboard f
  | 0x93 => .rdalight f
  | 0x94 => .rdfence f
  | 0x95 => .rdcancel f
  | 0xA0 => .oclaim f
  | 0xA1 => .orelease f
  | 0xA2 => .oload f
  | 0xA3 => .ofence f
  | 0xA4 => .layset f
  | 0xA5 => .msign f
  | 0xA6 => .mma f
  | 0xA7 => .mwait f
  | 0xA8 => .mtrans f
  | 0xA9 => .mperm f
  | 0xAA => .mrsum f
  | 0xAB => .aclr f
  | 0xAC => .aread f
  | 0xAD => .adrain f
  | 0xAE => .awrite f
  | 0xAF => .knock f
  | 0xB0 => .qblk f
  | 0xB1 => .qres f
  | 0xB8 => .desc f
  | 0xB9 => .pgroup f
  | 0xBA => .ptread f
  | 0xBB => .nodea f
  | 0xBC => .dgrad f
  | 0xC0 => .cwarm f
  | 0xC1 => .cwstat f
  | 0xE0 => .csrr f
  | 0xE1 => .csrw f
  | 0xE2 => .tlbinv f
  | 0xE3 => .eret f
  | 0xE4 => .snap f
  | 0xE5 => .svcrecv f
  | 0xE6 => .svcreply f
  | 0xE7 => .halt f
  | _ => .illOpc opc f

/-- How a collective instruction uses a field (R306): `d` whether D is written, `a` and `b` whether
the sources are read, and whether OP and IMM hold allowed values. -/
structure CShape where
  d : Bool := false
  a : Bool := false
  b : Bool := false
  op : Bool
  imm : Bool
  deriving DecidableEq, Repr

/-- IMM is used only as source b. -/
def immB (c : CFields) : Bool := c.ib || c.imm = 0

/-- IMM of CFWD and CACK: [2:0] the entry, every other bit zero. With IB the same bits are source b. -/
def entryImm (c : CFields) : Bool := c.imm.toNat < 8

/-- IMM of CPLACE: [2:0] the entry and, with `.STG`, [17:8] the length less one. -/
def placeImm (c : CFields) : Bool :=
  if c.op = 1 then only c.imm 0x3FF07 else c.imm.toNat < 8

/-- The opcode, fields and use of a collective instruction (R306). -/
def Instr.coll : Instr → Option (BitVec 6 × CFields × CShape)
  | .cnop c => some (0x00, c, { op := c.op = 0, imm := c.imm = 0 })
  | .cjmp c => some (0x01, c, { op := c.op = 0, imm := c.imm.toNat < 256 })
  | .cbr c => some (0x02, c, { a := true, op := c.op.toNat ≤ 1, imm := c.imm.toNat < 256 })
  | .cend c => some (0x03, c, { op := c.op = 0, imm := c.imm = 0 })
  | .cyield c => some (0x04, c, { op := c.op = 0, imm := c.imm.toNat < 256 })
  | .cmov c => some (0x08, c, { d := true, a := true, op := c.op = 0, imm := c.imm = 0 })
  | .cldi c => some (0x09, c, { d := true, op := c.op = 0, imm := true })
  | .cadd c => some (0x0A, c, { d := true, a := true, b := true, op := c.op = 0, imm := immB c })
  | .csub c => some (0x0B, c, { d := true, a := true, b := true, op := c.op = 0, imm := immB c })
  | .cand c => some (0x0C, c, { d := true, a := true, b := true, op := c.op = 0, imm := immB c })
  | .cor c => some (0x0D, c, { d := true, a := true, b := true, op := c.op = 0, imm := immB c })
  | .cshr c => some (0x0E, c, { d := true, a := true, b := true, op := c.op = 0, imm := immB c })
  | .cshl c => some (0x0F, c, { d := true, a := true, b := true, op := c.op = 0, imm := immB c })
  | .ccmp c => some (0x10, c, { d := true, a := true, b := true, op := c.op.toNat ≤ 5, imm := immB c })
  | .cstage c => some (0x18, c, { a := true, op := c.op = 0, imm := c.imm = 0 })
  | .cseen c => some (0x19, c, { d := true, a := true, b := true, op := c.op = 0, imm := immB c })
  | .cready c => some (0x1A, c, { d := true, a := c.op = 0, op := c.op.toNat ≤ 1, imm := c.imm = 0 })
  | .ccomb c => some (0x1B, c, { d := true, a := true, b := true, op := c.op.toNat ≤ 3, imm := immB c })
  | .cplace c => some (0x1C, c, { a := true, b := c.op ≠ 0, op := c.op.toNat ≤ 3, imm := placeImm c })
  | .cdropf c => some (0x1D, c, { op := c.op.toNat ≤ 1, imm := c.imm = 0 })
  | .cfwd c => some (0x20, c, { a := true, b := c.op ≠ 0, op := c.op.toNat ≤ 1, imm := entryImm c })
  | .cmcast c => some (0x21, c, { a := true, op := c.op = 0, imm := c.imm ≠ 0 && c.imm.toNat < 256 })
  | .cack c => some (0x22, c, { a := true, b := true, op := c.op = 0, imm := entryImm c })
  | .csig c => some (0x23, c, { b := true, op := c.op.toNat ≤ 1, imm := immB c })
  | .ccnt c => some (0x24, c, { d := true, a := true, b := true, op := c.op = 0, imm := immB c })
  | .ctime c => some (0x25, c, { d := c.op = 0, a := c.op ≠ 0, op := c.op.toNat ≤ 1, imm := c.imm = 0 })
  | .nop _ => none
  | .bra _ => none
  | .brx _ => none
  | .call _ => none
  | .callx _ => none
  | .ret _ => none
  | .exit _ => none
  | .yield _ => none
  | .sleep _ => none
  | .sleepto _ => none
  | .trap _ => none
  | .bkpt _ => none
  | .wsync _ => none
  | .ivl _ => none
  | .launch _ => none
  | .amsend _ => none
  | .iadd _ => none
  | .isub _ => none
  | .iadd64 _ => none
  | .isub64 _ => none
  | .imul _ => none
  | .imulh _ => none
  | .imad _ => none
  | .imadw _ => none
  | .imin _ => none
  | .imax _ => none
  | .iabs _ => none
  | .ishl _ => none
  | .ishr _ => none
  | .shf _ => none
  | .lop3 _ => none
  | .popc _ => none
  | .clz _ => none
  | .brev _ => none
  | .bfe _ => none
  | .bfi _ => none
  | .prmt _ => none
  | .lea _ => none
  | .sel _ => none
  | .mov _ => none
  | .movi _ => none
  | .movw _ => none
  | .icmp _ => none
  | .icmp64 _ => none
  | .plop _ => none
  | .ppack _ => none
  | .pset _ => none
  | .fadd _ => none
  | .fmul _ => none
  | .ffma _ => none
  | .fmin _ => none
  | .fmax _ => none
  | .fcmp _ => none
  | .frnd _ => none
  | .frcp _ => none
  | .frsq _ => none
  | .fsqrt _ => none
  | .fex2 _ => none
  | .flg2 _ => none
  | .fsin _ => none
  | .fcos _ => none
  | .ftanh _ => none
  | .fsigm _ => none
  | .hadd2 _ => none
  | .hmul2 _ => none
  | .hfma2 _ => none
  | .hmax2 _ => none
  | .f2i _ => none
  | .i2f _ => none
  | .cvt _ => none
  | .cvtp _ => none
  | .fclass _ => none
  | .wshfl _ => none
  | .wvote _ => none
  | .wredux _ => none
  | .ldv _ => none
  | .stv _ => none
  | .ld _ => none
  | .st _ => none
  | .atom _ => none
  | .red _ => none
  | .fence _ => none
  | .pref _ => none
  | .ldl _ => none
  | .bufdecl _ => none
  | .bufset _ => none
  | .bufq _ => none
  | .xcopy _ => none
  | .xgath _ => none
  | .xfill _ => none
  | .xdrain _ => none
  | .xstat _ => none
  | .xwait _ => none
  | .ltinit _ => none
  | .ltexp _ => none
  | .ltarr _ => none
  | .ltwait _ => none
  | .lttry _ => none
  | .phreg _ => none
  | .phdrop _ => none
  | .phsig _ => none
  | .phwait _ => none
  | .phnext _ => none
  | .phtry _ => none
  | .rgrow _ => none
  | .rshrink _ => none
  | .rdcap _ => none
  | .rdrmw _ => none
  | .rdboard _ => none
  | .rdalight _ => none
  | .rdfence _ => none
  | .rdcancel _ => none
  | .oclaim _ => none
  | .orelease _ => none
  | .oload _ => none
  | .ofence _ => none
  | .layset _ => none
  | .msign _ => none
  | .mma _ => none
  | .mwait _ => none
  | .mtrans _ => none
  | .mperm _ => none
  | .mrsum _ => none
  | .aclr _ => none
  | .aread _ => none
  | .adrain _ => none
  | .awrite _ => none
  | .knock _ => none
  | .qblk _ => none
  | .qres _ => none
  | .desc _ => none
  | .pgroup _ => none
  | .ptread _ => none
  | .nodea _ => none
  | .dgrad _ => none
  | .cwarm _ => none
  | .cwstat _ => none
  | .csrr _ => none
  | .csrw _ => none
  | .tlbinv _ => none
  | .eret _ => none
  | .snap _ => none
  | .svcrecv _ => none
  | .svcreply _ => none
  | .halt _ => none
  | .packageReset .. => none
  | .recoveryImage .. => none
  | .thermalTrip .. => none
  | .getVersion .. => none
  | .getCapabilities .. => none
  | .negotiateAlgorithms .. => none
  | .getDigests .. => none
  | .getCertificate .. => none
  | .challenge .. => none
  | .getMeasurements .. => none
  | .hostBar2Access .. => none
  | .qdoorWrite .. => none
  | .qcfgWrite .. => none
  | .qringWrite .. => none
  | .qphalWrite .. => none
  | .pphalWrite .. => none
  | .qrootWrite .. => none
  | .srootWrite .. => none
  | .preqSave .. => none
  | .preqKill .. => none
  | .dbgctlGo .. => none
  | .dbgctlKill .. => none
  | .partctlGo .. => none
  | .layoutChangeDone .. => none
  | .ringClear .. => none
  | .fptsetSelect .. => none
  | .fptsetWrite .. => none
  | .slcfgWrite .. => none
  | .slmapWrite .. => none
  | .sliceRemapDone .. => none
  | .windowBind .. => none
  | .windowUnbind .. => none
  | .programLoad .. => none
  | .endpointWrite .. => none
  | .registerWrite .. => none
  | .recordCheck .. => none
  | .entryEligible .. => none
  | .gangPlace .. => none
  | .placementStarvation .. => none
  | .sliceExpiry .. => none
  | .gangSave .. => none
  | .gangRestore .. => none
  | .workgroupRetire .. => none
  | .entryComplete .. => none
  | .activeMessageArrive .. => none
  | .handlerStart .. => none
  | .serviceRequestArrive .. => none
  | .longLatencyResult .. => none
  | .rgrowGrant .. => none
  | .intervalReload .. => none
  | .storeQueueDrain .. => none
  | .directAccessPerform .. => none
  | .cacheFill .. => none
  | .directoryRecall .. => none
  | .sleepWake .. => none
  | .lttryTimeout .. => none
  | .phtryTimeout .. => none
  | .copyTakeup .. => none
  | .copyArrival .. => none
  | .copyComplete .. => none
  | .copyFail .. => none
  | .xwaitTimeout .. => none
  | .ringOpEligible .. => none
  | .ringSlotPass .. => none
  | .ringOpMissing .. => none
  | .ringFull .. => none
  | .oloadComplete .. => none
  | .ticketComplete .. => none
  | .knockGrant .. => none
  | .tokenGrant .. => none
  | .tokenIdleReturn .. => none
  | .powerEvaluate .. => none
  | .fragmentArrive .. => none
  | .invocationStart .. => none
  | .timerInvocation .. => none
  | .csigArrival .. => none
  | .placementDeliver .. => none
  | .ueFragmentArrive .. => none
  | .ueTransportAck .. => none
  | .ueRetransmit .. => none
  | .podPacketReceive .. => none
  | .backNotice .. => none
  | .retransmitRequest .. => none
  | .podAck .. => none
  | .podRetransmitTimeout .. => none
  | .pacingDecay .. => none
  | .planeFail .. => none
  | .podTimeMeasure .. => none
  | .routerPowerDown .. => none
  | .routerWake .. => none
  | .walkComplete .. => none
  | .shootdownDeliver .. => none
  | .shootdownAck .. => none
  | .impreciseFaultTake .. => none
  | .shutterTick .. => none
  | .shutterInput .. => none
  | .shutterFramingTrigger .. => none
  | .illOpc .. => none
  | .uncorrectableError .. => none
  | .negativeAcknowledgement .. => none
  | .jobBinding .. => none
  | .windowArm .. => none

/-- The collective instruction of an opcode, if it is assigned (R306). -/
def Instr.ofCopc (opc : BitVec 6) (c : CFields) : Option Instr :=
  match opc.toNat with
  | 0x00 => some (.cnop c)
  | 0x01 => some (.cjmp c)
  | 0x02 => some (.cbr c)
  | 0x03 => some (.cend c)
  | 0x04 => some (.cyield c)
  | 0x08 => some (.cmov c)
  | 0x09 => some (.cldi c)
  | 0x0A => some (.cadd c)
  | 0x0B => some (.csub c)
  | 0x0C => some (.cand c)
  | 0x0D => some (.cor c)
  | 0x0E => some (.cshr c)
  | 0x0F => some (.cshl c)
  | 0x10 => some (.ccmp c)
  | 0x18 => some (.cstage c)
  | 0x19 => some (.cseen c)
  | 0x1A => some (.cready c)
  | 0x1B => some (.ccomb c)
  | 0x1C => some (.cplace c)
  | 0x1D => some (.cdropf c)
  | 0x20 => some (.cfwd c)
  | 0x21 => some (.cmcast c)
  | 0x22 => some (.cack c)
  | 0x23 => some (.csig c)
  | 0x24 => some (.ccnt c)
  | 0x25 => some (.ctime c)
  | _ => none

/-- R305: fields without a use are zero (B with IB too, DEDUCED log 62), FA and IB only where A and B are read,
FA with a code up to 5, OP and IMM as listed. -/
def CShape.ok (s : CShape) (c : CFields) : Bool :=
  (s.d || c.d = 0) && (s.a || (c.a = 0 && !c.fa)) && (s.b || (c.b = 0 && !c.ib)) && (!c.ib || c.b = 0)
    && (!c.fa || c.a.toNat ≤ 5) && s.op && s.imm

end Sys2Proof
end

