-- ==== Sys2Proof/WellFormed.lean ====
section
/-! DEFINITION. Which terms of `Instr` stand for encodings that the part accepts: the checks of R155,
steps 2, 4 and 5, for processor instructions, and of R305 for collective ones. -/

namespace Sys2Proof

/-- Why a term is not well formed. -/
inductive IllFormed where
  /-- A field holds what no encoding holds. -/
  | notCanonical
  /-- An unassigned opcode (R153). -/
  | unassigned
  /-- Step 4 of R155: the opcode does not accept the form. -/
  | form
  /-- Step 5 of R155: specifiers, unused fields, modifiers, compare layout or lookahead. -/
  | fields
  /-- A check of R305. -/
  | collective
  /-- An event, which has no encoding. -/
  | event
  deriving DecidableEq, Repr

/-- The first check that an instruction breaks. -/
def Instr.illFormed (i : Instr) : Option IllFormed :=
  match i.proc, i.coll with
  | some (_, f, s), _ =>
    if !f.canonical then some .notCanonical
    else if !s.formOk f.form then some .form
    else if !s.fieldsOk f then some .fields
    else none
  | none, some (_, c, s) => if s.ok c then none else some .collective
  | none, none =>
    match i with
    | .illOpc .. => some .unassigned
    | _ => some .event

/-- The term stands for an encoding that R143 to R151 or R305 accept. -/
def Instr.wellFormed (i : Instr) : Bool := i.illFormed.isNone

end Sys2Proof
end

