-- ==== Sys2Proof/Decode.lean ====
section
/-! DEFINITION. Decoding and encoding: processor instructions from and to bytes (R136-R140), collective
instructions from and to 64-bit words (R304). -/

namespace Sys2Proof

/-- The number of a little-endian list of bytes (R4). -/
def leNat : List Byte → Nat
  | [] => 0
  | b :: bs => b.toNat + 256 * leNat bs

/-- The `n` little-endian bytes of a number. -/
def leBytes : Nat → Nat → List Byte
  | 0, _ => []
  | n + 1, x => BitVec.ofNat 8 x :: leBytes n (x / 256)

/-- `len` bits of a number from bit `lo` up, as a bit vector. -/
def field (x lo len : Nat) : BitVec len := BitVec.ofNat len (x / 2 ^ lo)

/-- The specifier in the 9 bits of a number from bit `lo` up. -/
def srcField (x lo : Nat) : Src := Src.ofCode (x / 2 ^ lo % 512)

/-- The fields of an instruction of a form (R137-R139). -/
def decodeFields (form : Form) (x : Nat) : Fields :=
  { form := form
    qp := field x 10 3
    qn := x / 2 ^ 13 % 2 = 1
    la := field x 14 4
    d := srcField x 18
    a := srcField x 27
    b := srcField x 36
    c := srcField x 45
    m := field x 54 10
    imm := match form with
      | .f64 => 0
      | .f96 => field x 64 32
      | .f128 => field x 96 32
    e := match form with
      | .f128 => srcField x 64
      | _ => .none
    f := match form with
      | .f128 => srcField x 73
      | _ => .none
    x := match form with
      | .f128 => field x 82 14
      | _ => 0 }

/-- What the decoder makes of the bytes at an address. -/
inductive Decoded where
  /-- An instruction that the part accepts, and its length. -/
  | ok (i : Instr) (len : Nat)
  /-- An instruction that steps 2, 4 or 5 of R155 refuse, why, and its length. -/
  | bad (i : Instr) (why : IllFormed) (len : Nat)
  /-- A PAD32 word (R140). -/
  | pad
  /-- Fewer bytes than the instruction holds. -/
  | truncated
  deriving DecidableEq, Repr

/-- The form of LEN, none for PAD32 (R136). -/
def Form.ofLen (len : Nat) : Option Form :=
  match len with
  | 0 => some .f64
  | 1 => some .f96
  | 2 => some .f128
  | _ => none

/-- LEN of a form (R136). -/
def Form.code : Form → Nat
  | .f64 => 0
  | .f96 => 1
  | .f128 => 2

/-- Decode the instruction at the head of a list of bytes. -/
def decode (bytes : List Byte) : Decoded :=
  if bytes.length < 4 then .truncated
  else
    match Form.ofLen (leNat (bytes.take 4) % 4) with
    | none => .pad
    | some form =>
      if bytes.length < form.len then .truncated
      else
        let x := leNat (bytes.take form.len)
        let i := Instr.ofOpc (field x 2 8) (decodeFields form x)
        match i.illFormed with
        | none => .ok i form.len
        | some why => .bad i why form.len

/-- The number of a processor instruction's first 64 bits (R137). -/
def encodeLow (opc : BitVec 8) (f : Fields) : Nat :=
  f.form.code + opc.toNat * 2 ^ 2 + f.qp.toNat * 2 ^ 10 + (if f.qn then 2 ^ 13 else 0)
    + f.la.toNat * 2 ^ 14 + f.d.code * 2 ^ 18 + f.a.code * 2 ^ 27 + f.b.code * 2 ^ 36
    + f.c.code * 2 ^ 45 + f.m.toNat * 2 ^ 54

/-- The number of a processor instruction (R137-R139). -/
def encodeNat (opc : BitVec 8) (f : Fields) : Nat :=
  match f.form with
  | .f64 => encodeLow opc f
  | .f96 => encodeLow opc f + f.imm.toNat * 2 ^ 64
  | .f128 =>
    encodeLow opc f + f.e.code * 2 ^ 64 + f.f.code * 2 ^ 73 + f.x.toNat * 2 ^ 82 + f.imm.toNat * 2 ^ 96

/-- The collective instruction of a word, if R305 accepts it (R304). -/
def decodeCollective (w : DWord) : Option Instr :=
  let x := w.toNat
  let c : CFields :=
    { d := field x 6 4, a := field x 10 4, b := field x 14 4, fa := x / 2 ^ 18 % 2 = 1,
      ib := x / 2 ^ 19 % 2 = 1, op := field x 20 4, imm := field x 24 40 }
  match Instr.ofCopc (field x 0 6) c with
  | some i => if i.wellFormed then some i else none
  | none => none

/-- The word of a collective instruction (R304). -/
def encodeCollective (opc : BitVec 6) (c : CFields) : DWord :=
  BitVec.ofNat 64 (opc.toNat + c.d.toNat * 2 ^ 6 + c.a.toNat * 2 ^ 10 + c.b.toNat * 2 ^ 14
    + (if c.fa then 2 ^ 18 else 0) + (if c.ib then 2 ^ 19 else 0) + c.op.toNat * 2 ^ 20
    + c.imm.toNat * 2 ^ 24)

/-- The bytes of an instruction; an event has none. -/
def encode (i : Instr) : List Byte :=
  match i.proc, i.coll with
  | some (opc, f, _), _ => leBytes f.form.len (encodeNat opc f)
  | none, some (opc, c, _) => leBytes 8 (encodeCollective opc c).toNat
  | none, none =>
    match i with
    | .illOpc opc f => leBytes f.form.len (encodeNat opc f)
    | _ => []

/-- The instruction that the decoder reads from the bits `w`, every bit above `nbits` being 0. -/
def decodeTableWord (nbits w : Nat) : Option Instr :=
  match decode (leBytes 16 (w % 2 ^ nbits)) with
  | .ok i _ => some i
  | .bad i .unassigned _ => some i
  | _ => none

end Sys2Proof
end

