-- ==== Sys2Proof/Machine/Translate.lean ====
section
/-! DEFINITION. Address translation (R356-R365): page-table entries and their checks, the walk, the
TLBs and walk caches, the walk queue, and the grants of a leaf. -/

namespace Sys2Proof.Machine

open Sys2Proof

/-! ## Addresses and entries (R81, R356, R358) -/

/-- Bits [63:55] equal bit 54 (R81). -/
def canonicalVa (va : DWord) : Bool := bits va 54 10 = 0 || bits va 54 10 = 1023

def upperVa (va : DWord) : Bool := va.getLsbD 54

/-- Virtual bits kept as the offset of a leaf of a level (R356). -/
def leafShift (lv : Nat) : Nat := 42 - 13 * lv

/-- The index of a level (R356). -/
def vaIndex (lv : Nat) (va : DWord) : Nat := bits va (leafShift lv) 13

def pteFrame (e : DWord) : Nat := bits e 16 36 * 2 ^ 16
def pteValid (e : DWord) : Bool := e.getLsbD 0
def pteLeaf (e : DWord) : Bool := e.getLsbD 1
def pteR (e : DWord) : Bool := e.getLsbD 2
def pteW (e : DWord) : Bool := e.getLsbD 3
def pteX (e : DWord) : Bool := e.getLsbD 4
def pteU (e : DWord) : Bool := e.getLsbD 5
def pteG (e : DWord) : Bool := e.getLsbD 6
def pteDr (e : DWord) : Bool := e.getLsbD 7
def ptePlace (e : DWord) : Nat := bits e 8 2
def pteDie (e : DWord) : Nat := bits e 10 3
def ptePsn (e : DWord) : Bool := e.getLsbD 13

/-- A root of QROOT or SROOT as a pointer (R359, R369). -/
def rootPtr (root : DWord) : DWord :=
  BitVec.ofNat 64 (pteFrame root + bits root 55 3 * 2 ^ 10 + bits root 53 2 * 2 ^ 8 + 1)

/-- The checks of R359 common to leaves and pointers. -/
def pteFieldsBad (e : DWord) : Bool :=
  decide (bits e 52 12 ≠ 0) || decide (bits e 14 2 ≠ 0) || ptePlace e = 3 || (pteDie e ≠ 0 && ptePlace e ≠ 0)

/-- DIELOCAL names a die outside the die set of a partition (R359). -/
def State.pteDieBad (s : State) (part : Nat) (e : DWord) : Bool :=
  ptePlace e = 0 && !(s.dieSet part).contains (pteDie e)

/-- A pointer that R359 refuses. -/
def State.ptrBad (s : State) (part : Nat) (e : DWord) : Bool :=
  pteFieldsBad e || ptePsn e || decide (bits e 2 6 ≠ 0) || !s.ownDram (pteFrame e) || paBad (pteFrame e)
    || s.pteDieBad part e

/-- The physical address that a leaf of a level gives (R357). -/
def leafPa (lv : Nat) (e va : DWord) : Nat :=
  pteFrame e / 2 ^ leafShift lv * 2 ^ leafShift lv + va.toNat % 2 ^ leafShift lv

/-- A leaf that R359 refuses for an address. -/
def State.leafBad (s : State) (part lv : Nat) (e va : DWord) : Bool :=
  pteFieldsBad e || decide (pteFrame e % 2 ^ leafShift lv ≠ 0) || paBad (leafPa lv e va)
    || (if s.ownDram (pteFrame e) then s.pteDieBad part e else ptePlace e ≠ 0 || pteDie e ≠ 0)

/-- The partition owns the DRAM frame of this package that a leaf maps for an address (R361, DEDUCED log 23). -/
def State.leafOwned (s : State) (part lv : Nat) (e va : DWord) : Bool :=
  !s.ownDram (pteFrame e) || s.frameOwned part (leafPa lv e va)

/-! ## The walk (R357, R359, R361, R362) -/

/-- The end of a walk: a leaf with the pointers on its path, or a fault; `read` lists the entries
read. -/
inductive WalkEnd where
  | leaf (lv : Nat) (e : DWord) (path : List (Nat × DWord)) (read : List Nat)
  | fault (c : Cause) (read : List Nat)
  /-- A poisoned table entry, at its physical address. -/
  | poison (pa : Nat) (read : List Nat)
  deriving DecidableEq, Repr

/-- The walk from the table that `ptr` names at level `lv`. -/
def State.walkFrom (s : State) (part : Nat) (va : DWord) : Nat → Nat → DWord → List (Nat × DWord) → List Nat → WalkEnd
  | 0, _, _, _, read => .fault .translation read
  | fuel + 1, lv, ptr, path, read =>
    let ea := pteFrame ptr + 8 * vaIndex lv va
    if s.ptrBad part ptr then .fault .translation read
    else if !s.frameOwned part ea then .fault .permission read
    else if poisonedIn s.poison ea 8 then .poison ea read
    else
      let e : DWord := BitVec.ofNat 64 (leNat (s.peek ea 8))
      let read := ea :: read
      if !pteValid e then .fault .translation read
      else if pteLeaf e then
        if s.leafBad part lv e va then .fault .translation read
        else if !s.leafOwned part lv e va then .fault .permission read
        else .leaf lv e path read
      else if 2 ≤ lv then .fault .translation read
      else State.walkFrom s part va fuel (lv + 1) e ((lv, e) :: path) read

/-- The pointer of a walk cache on an address's path, the deepest first (R364). -/
def findPtr (ptrs : List PtrEntry) (tag : Option Nat) (va : DWord) : Option PtrEntry :=
  let hit (lv : Nat) := ptrs.find? fun p => p.level = lv && p.tag = tag && p.va = va.toNat / 2 ^ leafShift lv
  (hit 1).orElse fun _ => hit 0

/-- The tag under which an address is cached: none in the upper half (R357). -/
def tagOf (tag : Nat) (va : DWord) : Option Nat := if upperVa va then none else some tag

/-- The walk of an address on a die, from its walk cache or from its root. -/
def State.walk (s : State) (die tag : Nat) (root va : DWord) : WalkEnd :=
  let part := s.partOf die
  match findPtr (s.die die).ptrs (tagOf tag va) va with
  | some p => s.walkFrom part va 3 (p.level + 1) p.ptr [] []
  | none => s.walkFrom part va 3 0 (rootPtr root) [] []

/-! ## TLBs (R364) -/

/-- A TLB entry serves an address under a tag. -/
def TlbEntry.serves (e : TlbEntry) (tag : Nat) (va : DWord) : Bool :=
  e.va = va.toNat / 2 ^ leafShift e.level && (match e.tag with | none => true | some g => !upperVa va && g = tag)

def findTlb (tlb : List TlbEntry) (tag : Nat) (va : DWord) : Option TlbEntry :=
  tlb.find? fun e => e.serves tag va

/-- A TLB with an entry installed; the oldest leaves a full one (DESIGN CHOICE log 13). -/
def installTlb (size : Nat) (tlb : List TlbEntry) (e : TlbEntry) : List TlbEntry :=
  (e :: tlb.filter fun x => x ≠ e).take size

/-- The entry that a leaf makes. -/
def tlbEntry (tag lv : Nat) (e va : DWord) : TlbEntry :=
  { tag := if pteG e then none else tagOf tag va, level := lv, va := va.toNat / 2 ^ leafShift lv, leaf := e }

/-! ## Grants (R81, R83, R360, R362) -/

/-- The kinds of access of R360. -/
inductive Need where
  | r | w | rw | x
  /-- CWARM and CWSTAT. -/
  | window
  deriving DecidableEq, Repr

def Need.granted (n : Need) (e : DWord) : Bool :=
  match n with
  | .r | .window => pteR e
  | .w => pteW e
  | .rw => pteR e && pteW e
  | .x => pteX e

/-- The fault of an address before any walk (R81). -/
def vaFault (level : Level) (va : DWord) : Option Cause :=
  if !canonicalVa va then some .translation
  else if upperVa va && level = .user then some .permission
  else none

/-- The fault of an access through a leaf to a physical address, poison apart. -/
def leafFault (level : Level) (n : Need) (e : DWord) (pa : Nat) : Option Cause :=
  if paBad pa then some .translation
  else if !n.granted e || (level = .user && !pteU e) then some .permission
  else if level = .user && paSpace pa = 2 then some .permission
  else if n = .window && paSpace pa ≠ 1 then some .permission
  else none

/-- The outcome of a translation. -/
inductive Tr where
  | ok (pa : Nat) (leaf : DWord)
  | miss
  | fault (c : Cause)
  /-- The leaf's PSN bit is set (R362). -/
  | psn (pa : Nat)
  /-- The walk met a poisoned table entry (R362). -/
  | table (pa : Nat)
  deriving DecidableEq, Repr

/-- A translation through a TLB entry. -/
def TlbEntry.tr (e : TlbEntry) (level : Level) (n : Need) (va : DWord) : Tr :=
  let pa := leafPa e.level e.leaf va
  match leafFault level n e.leaf pa with
  | some c => .fault c
  | none => if ptePsn e.leaf then .psn pa else .ok pa e.leaf

/-- A translation through a TLB entry of a die: a leaf of a larger size serves only frames that the partition owns (DEDUCED log 23). -/
def State.tlbTr (s : State) (die : Nat) (x : TlbEntry) (level : Level) (n : Need) (va : DWord) : Tr :=
  match x.tr level n va with
  | .fault c => .fault c
  | r => if x.level < 2 && !s.leafOwned (s.partOf die) x.level x.leaf va then .fault .permission else r

/-- A translation of a thread's access as its core's and die's TLBs hold it. -/
def State.lookupVa (s : State) (core tag : Nat) (level : Level) (n : Need) (va : DWord) : Tr :=
  match vaFault level va with
  | some c => .fault c
  | none =>
    match (findTlb (s.core core).tlb tag va).orElse fun _ => findTlb (s.die (dieOf core)).tlb tag va with
    | some e => s.tlbTr (dieOf core) e level n va
    | none => .miss

/-- What stops an engine: a cause, and the poisoned table entry that the walk met, if any (R362). -/
structure Stop where
  cause : Cause
  table : Option Nat
  deriving DecidableEq, Repr

/-- A stop by a cause alone. -/
def stop (c : Cause) : Stop := { cause := c, table := none }

/-- The log of a stop by a poisoned table entry (R362, R379). -/
def State.logStop (s : State) (core : Nat) (x : Stop) : State :=
  match x.table with
  | some pa => s.logCheck (dieOf core) core 5 0 0 0 pa
  | none => s

/-! ## Address spaces of waves -/

/-- The root of the address space that a wave runs in (R357, R180). -/
def State.rootOfWave (s : State) (w : Wave) : DWord :=
  match w.kind with
  | .handler none part => ((s.partition part).job.map fun j => (s.queue part j.queue).root).getD 0
  | _ => ((s.entryOfWave w).bind fun e => e.root).getD 0

/-- The tag of a root (R369). -/
def rootTag (root : DWord) : Nat := bits root 0 16

/-- The translation that an access of a wave has just used. -/
def State.viaOf (s : State) (w : Wave) (va : DWord) : Option TlbEntry :=
  let tag := rootTag (s.rootOfWave w)
  (findTlb (s.core w.core).tlb tag va).orElse fun _ => findTlb (s.die (dieOf w.core)).tlb tag va

/-! ## The walk queue (R365) -/

/-- Requests of a walk queue, and walkers. -/
def walkQueueSize : Nat := 4096
def walkers : Nat := 96
def walksPerCore : Nat := 16

/-- A request for a walk: it joins one for the same tag and page, or is queued where there is room. -/
def joinWalk (tag page : Nat) (root : DWord) (x : Waiter) : List Walk → List Walk
  | [] => [{ tag := tag, page := page, root := root, busy := false, stale := false, waiters := [x] }]
  | k :: ks =>
    if k.tag = tag && k.page = page && !k.stale then
      { k with waiters := if k.waiters.contains x then k.waiters else k.waiters ++ [x] } :: ks
    else k :: joinWalk tag page root x ks

/-- A walk request of a die finds room in the queue, or a walk that it joins (R365). -/
def State.walkRoom (s : State) (die tag : Nat) (va : DWord) : Bool :=
  let d := s.die die
  (d.walks.filter fun k => !k.busy).length < walkQueueSize
    || d.walks.any fun k => k.tag = tag && k.page = va.toNat / 2 ^ 16 && !k.stale

/-- An access missed its TLBs. -/
def State.requestWalk (s : State) (tag : Nat) (root : DWord) (x : Waiter) : State :=
  let d := s.die (dieOf x.core)
  if s.walkRoom (dieOf x.core) tag x.va then
    s.setDie (dieOf x.core) { d with walks := joinWalk tag (x.va.toNat / 2 ^ 16) root x d.walks }
  else s

/-- The core that a walk is charged to: the one of its first request. -/
def Walk.core (k : Walk) : Nat := ((k.waiters.head?).map fun x => x.core).getD 0

/-- Walkers take requests in arrival order, at most 16 of one core (R365); an upper-half walk takes its
root as it begins (R369). -/
def startWalks (sroot : DWord) : Nat → List Walk → List Walk → List Walk
  | 0, _, ks => ks
  | _ + 1, _, [] => []
  | free + 1, before, k :: ks =>
    if k.busy then k :: startWalks sroot (free + 1) (k :: before) ks
    else if walksPerCore ≤ ((before ++ ks).filter fun x => x.busy && x.core = k.core).length then
      k :: startWalks sroot (free + 1) (k :: before) ks
    else
      let k := { k with busy := true, root := if k.page / 2 ^ 38 % 2 = 1 then sroot else k.root }
      k :: startWalks sroot free (k :: before) ks

/-- Idle walkers of each die begin walks. -/
def State.beginWalks (s : State) : State :=
  { s with dies := s.dies.map fun p =>
      if p.2.walks.all fun k => k.busy then p
      else
        let busy := (p.2.walks.filter fun k => k.busy).length
        (p.1, { p.2 with walks := startWalks (s.partition (s.partOf p.1)).sroot (walkers - busy) [] p.2.walks }) }

/-! ## Engines (R365) -/

/-- An engine's operation as one that translates: its core, the workgroup or entry that it runs for, and its number. -/
structure EngineOp where
  core : Nat
  for_ : Nat
  op : Nat
  deriving DecidableEq, Repr

/-- An engine's operation as it waits for a walk of a page. -/
def EngineOp.waiter (x : EngineOp) (va : DWord) : Waiter :=
  { core := x.core, wave := x.for_, lane := 0, pc := BitVec.ofNat 64 x.op, va := va &&& ~~~65535#64, engine := true }

/-- The translation of an engine's access on its die: the fault that its walk ended in, its die's TLB, or a request for a
walk (R365, DEDUCED log 24). -/
def State.engineVa (s : State) (x : EngineOp) (root : DWord) (level : Level) (n : Need) (va : DWord) : State × Tr :=
  let die := dieOf x.core
  let d := s.die die
  let tag := rootTag root
  match vaFault level va with
  | some c => (s, .fault c)
  | none =>
    match d.failed.find? fun f => f.who = x.waiter va && f.tag = tag with
    | some f =>
      (s.setDie die { d with failed := d.failed.filter fun g => g ≠ f },
        match f.table with | some pa => .table pa | none => .fault f.cause)
    | none =>
      match findTlb d.tlb tag va with
      | some e => (s, s.tlbTr die e level n va)
      | none => (s.requestWalk tag root (x.waiter va), .miss)

/-- A thread's translation: the die TLB's entry comes to the core, and a miss asks for a walk. -/
def State.translate (s : State) (w : Wave) (lane : Nat) (t : Thread) (n : Need) (va : DWord) : State × Tr :=
  let root := s.rootOfWave w
  let tag := rootTag root
  match s.lookupVa w.core tag t.level n va with
  | .miss => (s.requestWalk tag root { core := w.core, wave := w.id, lane := lane, pc := t.pc, va := va }, .miss)
  | r =>
    match findTlb (s.core w.core).tlb tag va, findTlb (s.die (dieOf w.core)).tlb tag va with
    | none, some e =>
      let c := s.core w.core
      (s.setCore w.core { c with tlb := installTlb 64 c.tlb e }, r)
    | _, _ => (s, r)

end Sys2Proof.Machine
end

