-- ==== Sys2Proof/Machine/Vault.lean ====
section
/-! DEFINITION. Vault allocations: addresses and bounds (R85), declared buffers and their states
(R87-R95), and latches (R222, R223). -/

namespace Sys2Proof.Machine

open Sys2Proof

/-- A fault at a vault address. -/
def vaultFault (c : Cause) (addr : Word) : Cause × DWord := (c, addr.zeroExtend 64)

/-- The workgroup of a member of a gang. -/
def State.member (s : State) (gang m : Nat) : Option Workgroup :=
  s.wgs.find? fun g => g.gang = gang && g.member = m

/-- The offset of a vault address. -/
def vaultOff (addr : Word) : Nat := bits addr 0 30

/-- A range of the allocation that a vault address names, for a workgroup of its gang, checked by R85:
`align` is the alignment asked. -/
def State.vaultIn (s : State) (own : Option Workgroup) (addr : Word) (len align : Nat) :
    Except (Cause × DWord) (Workgroup × Nat) :=
  match own.bind fun g => s.member g.gang (bits addr 30 2) with
  | none => .error (vaultFault .vaultBounds addr)
  | some g =>
    if g.vaultSize < vaultOff addr + len || vaultOff addr % align ≠ 0 then .error (vaultFault .vaultBounds addr)
    else .ok (g, vaultOff addr)

/-- The workgroup that a wave runs for; a handler and a service wave have none (R31, R29). -/
def State.ownGroup (s : State) (w : Wave) : Option Workgroup :=
  match w.kind with
  | .user => s.wg? w.wg
  | _ => none

/-- A range that a wave's access names. -/
def State.vaultAt (s : State) (w : Wave) (addr : Word) (len align : Nat) : Except (Cause × DWord) (Workgroup × Nat) :=
  s.vaultIn (s.ownGroup w) addr len align

/-! ## Buffers -/

/-- Two ranges meet. -/
def meets (a n b m : Nat) : Bool := decide (a < b + m ∧ b < a + n)

/-- The buffers that a range touches. -/
def Workgroup.touched (g : Workgroup) (off len : Nat) : List Buffer :=
  (g.buffers.map fun p => p.2).filter fun b => meets off len b.base b.len

/-- Every byte of a range lies in some buffer. -/
def Workgroup.tracked (g : Workgroup) (off len : Nat) : Bool :=
  ((g.touched off len).map fun b => min (off + len) (b.base + b.len) - max off b.base).foldl (· + ·) 0 = len

/-- The state table of R89 for LDV, STV and OLOAD. -/
def Buffer.loads (b : Buffer) : Bool := !b.latch && (b.state = .full || b.state = .draining)
def Buffer.stores (b : Buffer) : Bool := !b.latch && (b.state = .empty || b.state = .full)

/-- A copy in or out of a buffer is allowed (R89, R90). -/
def Buffer.copiesIn (b : Buffer) : Bool := !b.latch && (b.state = .empty || b.state = .filling)
def Buffer.copiesOut (b : Buffer) : Bool := !b.latch && (b.state = .full || b.state = .draining)

/-- A range lies wholly in one buffer, or in none: that buffer, or an error (R90). -/
def Workgroup.copyBuffer (g : Workgroup) (off len : Nat) : Option (Option (Nat × Buffer)) :=
  match g.buffers.filter fun p => meets off len p.2.base p.2.len with
  | [] => some none
  | [p] => if p.2.base ≤ off && off + len ≤ p.2.base + p.2.len then some (some p) else none
  | _ => none

/-- Accepted vault loads of a workgroup's range that are not performed (R89). -/
def State.loadsOut (s : State) (wg off len : Nat) : Bool :=
  (s.waves.any fun w => w.threads.any fun t => t.pending.any fun p =>
    p.value.isNone && match p.access with | .vault g o n => g = wg && meets o n off len | _ => false)
    || s.wgs.any fun g => g.oloads.any fun o =>
      o.from_.any fun c => c.1 = wg && meets c.2 o.chunk off len

/-- Accepted vault stores of a workgroup's range that are not performed. -/
def State.storesOut (s : State) (wg off len : Nat) : Bool :=
  s.waves.any fun w => w.store.any fun a =>
    match a.work with | .vault g o d => g = wg && meets o d.length off len | _ => false

/-! ## Latches (R222, R223) -/

/-- Word `i` of a latch: 0 EXPECT, 1 ARRIVED, 2 PHASE. -/
def State.latchWord (s : State) (l : LatchRef) (i : Nat) : Word :=
  match s.wg? l.wg with
  | some g => BitVec.ofNat 32 (leNat (sbytes g.vault (l.off + 4 * i) 4))
  | none => 0

/-- A latch's PHASE. -/
def State.latchPhase (s : State) (l : LatchRef) : Word := s.latchWord l 2

/-- Set a latch. -/
def State.setLatch (s : State) (l : LatchRef) (expect arrived : Nat) (phase : Word) : State :=
  s.modWg l.wg fun g => { g with vault := swrite g.vault l.off (leBytes 4 expect ++ leBytes 4 arrived ++ leBytes 4 phase.toNat) }

/-- Apply R223 with EXPECT and an arrival of `n`. -/
def State.latchApply (s : State) (l : LatchRef) (expect n : Nat) : State :=
  let arrived := min ((s.latchWord l 1).toNat + n) (2 ^ 32 - 1)
  if expect = 0 then s.setLatch l expect arrived (s.latchPhase l)
  else s.setLatch l expect (arrived % expect) (s.latchPhase l + BitVec.ofNat 32 (arrived / expect))

/-- An arrival of `n` on a latch (R223). -/
def State.arrive (s : State) (l : LatchRef) (n : Nat) : State := s.latchApply l (s.latchWord l 0).toNat n

/-- A latch named by a vault address (R93, R224). -/
def State.latchIn (s : State) (own : Option Workgroup) (addr : Word) : Except (Cause × DWord) LatchRef :=
  match s.vaultIn own addr 16 16 with
  | .error e => .error e
  | .ok (g, off) =>
    if (g.touched off 16).any fun b => b.latch then .ok { wg := g.id, off := off }
    else .error (vaultFault .vaultState addr)

/-- A latch that a wave's instruction names. -/
def State.latchAt (s : State) (w : Wave) (addr : Word) : Except (Cause × DWord) LatchRef :=
  s.latchIn (s.ownGroup w) addr

/-- A latch lies in a range of a workgroup. -/
def LatchRef.within (l : LatchRef) (wg off len : Nat) : Bool := l.wg = wg && decide (off ≤ l.off ∧ l.off < off + len)

/-- The latch that a parked thread waits on. -/
def Park.latch : Park → Option LatchRef
  | .ltwait l _ | .lttry l _ _ _ _ | .cwarm _ _ l _ _ _ => some l
  | _ => none

/-- A park of a thread. -/
def Thread.parkNow (t : Thread) : Option Park :=
  match t.run with
  | .parked p _ => some p
  | _ => none

/-- A thread is parked on a latch of a range. -/
def State.latchWaited (s : State) (wg off len : Nat) : Bool :=
  s.waves.any fun w => w.threads.any fun t =>
    match t.parkNow.bind Park.latch with | some l => l.within wg off len | none => false

/-- A copy, collective or shoot-down completion is still directed at a latch of a range (R88, R224): of a copy, of an armed
phase, of a failed one whose completion is still to come, of a shoot-down or of a placement into the workgroup. -/
def State.latchAimed (s : State) (wg off len : Nat) : Bool :=
  let at_ (l : Option LatchRef) : Bool := match l with | some l => l.within wg off len | none => false
  (s.wgs.any fun g => g.copies.any fun c => (c.state = .waiting || c.state = .active) && at_ c.latch)
    || (s.windows.any fun p => (p.2.state = .armed || p.2.failSignal) && at_ p.2.latch)
    || (s.parts.any fun p => p.2.shootdowns.any fun d => at_ (some d.latch))
    || s.placements.any fun p => match p.what with
      | .vault entry i _ (some o) _ =>
        (s.wgs.any fun g => g.id = wg && g.entry = entry && s.linearWg g = i) && at_ (some { wg := wg, off := o })
      | _ => false

/-! ## Bytes of a vault -/

/-- The operation reads its sources in the vault. -/
def TicketKind.fromVault : TicketKind → Bool
  | .adrain _ _ _ _ _ _ | .desc _ _ _ _ _ _ | .dgrad _ _ _ _ _ => true
  | _ => false

/-- A source of an operation is about to change: what it held stays among what the operation may read (R131, R323). -/
def TicketOp.keeps (o : TicketOp) (vault : Bool) (k : Nat) (old : Sparse Byte) : TicketOp :=
  if o.kind.fromVault = vault && o.before.any (fun p => p.1 = k) then { o with before := o.before ++ [(k, old)] } else o

/-- The same for an OLOAD. -/
def Oload.keeps (o : Oload) (k : Nat) (old : Sparse Byte) : Oload :=
  if o.before.any fun p => p.1 = k then { o with before := o.before ++ [(k, old)] } else o

/-- The vault of a workgroup is about to change. -/
def State.keepVault (s : State) (wg : Nat) (old : Sparse Byte) : State :=
  { s with wgs := s.wgs.map fun g =>
      if g.ops = [] && g.oloads = [] then g
      else { g with ops := g.ops.map fun o => o.keeps true wg old, oloads := g.oloads.map fun o => o.keeps wg old } }

/-- A vault write performed: its bytes, with the poison and log of R105. -/
def State.vaultWrite (s : State) (wg off : Nat) (data : List Byte) : State :=
  match s.wg? wg with
  | none => s
  | some g =>
    let n := data.length
    let s := (merged g.poison off n).foldl (fun s x => s.logCheck (dieOf g.core) g.core 2 0 0 0 (32 * x)) s
    (s.keepVault wg g.vault).modWg wg fun g => { g with
      vault := swrite g.vault off data
      poison := clearPoison g.poison off n
      residuals := g.residuals.filter fun p => !meets (4 * p.1) 4 off n }

/-- A residual store performed (R79): it stays known who wrote its elements. -/
def State.residualWrite (s : State) (wg off : Nat) (data : List Byte) : State :=
  let marks := ((s.wg? wg).map fun g => g.residuals).getD []
  (s.vaultWrite wg off data).modWg wg fun g => { g with residuals := marks }

/-- A poisoned vault write by an engine (R104). -/
def State.vaultPoison (s : State) (wg off : Nat) (data : List Byte) : State :=
  (s.vaultWrite wg off data).modWg wg fun g => { g with poison := addPoison g.poison (granules off data.length) }

/-- Corrected errors of a vault read (R103). -/
def State.vaultRead (s : State) (g : Workgroup) (off len : Nat) : State :=
  s.correct (dieOf g.core) ((granules off len).map fun x => .vault g.id (32 * x))

end Sys2Proof.Machine
end

