-- ==== Sys2Proof/Machine/Windows.lean ====
section
/-! DEFINITION. Windows: their binding records (R291-R293), the fragments that reach them (R296, R303),
and their phases (R295, R299). -/

namespace Sys2Proof.Machine

open Sys2Proof

/-! ## Binding records (R291-R293) -/

/-- `n` bytes of a record as a number. -/
def recNum (r : List Byte) (at_ n : Nat) : Nat := leNat ((r.drop at_).take n)

/-- A destination entry (R292). -/
structure Dest where
  addr : Nat
  limit : Nat
  latch : Nat
  kind : Nat
  path : Nat
  mode : Nat
  wg : Nat
  uep : Nat
  deriving DecidableEq, Repr

namespace Window

def kind (w : Window) : Nat := recNum w.record 0 1
def scope (w : Window) : Nat := recNum w.record 1 1
def prog (w : Window) : Nat := recNum w.record 2 1
def blkLog (w : Window) : Nat := recNum w.record 3 1
def ncontrib (w : Window) : Nat := recNum w.record 4 2
def nblk (w : Window) : Nat := recNum w.record 6 2
def burst (w : Window) : Bool := recNum w.record 8 4 % 2 = 1
def param (w : Window) (i : Nat) : Nat := recNum w.record (16 + 4 * i) 4
def contrib (w : Window) (i : Nat) : Nat := recNum w.record (320 + 4 * i) 4

/-- Elements of a block. -/
def elems (w : Window) : Nat := 2 ^ w.blkLog

def dest (w : Window) (i : Nat) : Dest :=
  let b := 64 + 32 * i
  { addr := recNum w.record b 8, limit := recNum w.record (b + 8) 4, latch := recNum w.record (b + 12) 4,
    kind := recNum w.record (b + 16) 1, path := recNum w.record (b + 17) 1, mode := recNum w.record (b + 18) 1,
    wg := recNum w.record (b + 20) 4, uep := recNum w.record (b + 24) 2 }

/-- The contributor number of an entry. -/
def contributor (w : Window) (entry : Nat) : Option Nat :=
  (List.range w.ncontrib).find? fun i => w.contrib i = entry

/-- Completed blocks of a REDUCE phase: those whose tree has its root in staging (R300, R309). -/
def complete (w : Window) : Nat :=
  (w.nodes.filter fun x => x.lo = 0 && w.ncontrib ≤ x.hi).length

end Window

/-- The contributor entry of an agent core of this package (R293). -/
def State.agentEntry (s : State) (core : Nat) : Nat := s.system.pkgid * 256 + dieOf core * 32 + core % 32

/-- The contributor entry that a fragment's sender matches. -/
def State.senderEntry (s : State) (g : Fragment) : Nat :=
  if g.port < 16 then s.agentEntry g.from_
  else if g.port = 32 || g.port = 33 then 2 ^ 31 + g.from_
  else 2 ^ 31 + 2 ^ 30 + g.from_

/-- A store of a core may name a physical address: where that is a window, it is one of this package,
bound, and a contributor entry names the core (R109, R303); a grid of no job may store to a pod-scope one, for which the
spec names no fault (R20) (DESIGN CHOICE log 80). -/
def State.windowOpen (s : State) (core pa : Nat) : Bool :=
  if paSpace pa ≠ 1 then true
  else
    let w := s.window (paOffset pa / 2 ^ 32)
    paPkg pa = s.system.pkgid && w.bound && (w.contributor (s.agentEntry core)).isSome

/-! ## Fragments -/

/-- The fragment that a core's store or copy piece forms, with the next of its numbers (R109, R327). -/
def State.fragmentOf (s : State) (core pa : Nat) (data : List Byte) (bad : List Nat) : State × Fragment :=
  let n := paOffset pa / 2 ^ 32
  let c := s.core core
  let q := sget 0 c.fragSeq n
  (s.setCore core { c with fragSeq := sset 0 c.fragSeq n (q + 1) },
    { window := n, off := paOffset pa % 2 ^ 32, data := data, bad := bad, seq := q, port := dieOf core,
      from_ := core, phase := none })

/-- Room in a window's hold queue, which suspended invocations share (R289, R307). -/
def Window.room (w : Window) : Bool := decide (w.hold.length + w.suspended.length < 64)

/-- One more late fragment (R417). -/
def Window.countLate (w : Window) : Window := { w with late := min 0xFFFF (w.late + 1) }

/-- What becomes of a fragment at its window. -/
inductive Arrival where
  /-- Accepted, held or dropped as late: the window after it, and whether it was dropped. -/
  | taken (w : Window) (dropped : Bool)
  /-- The hold queue is full. -/
  | full

/-- A fragment is accepted into the open phase (R296). -/
def Window.accept (w : Window) (g : Fragment) : Window := { w with queue := w.queue ++ [{ g with phase := some w.phi }] }

/-- A fragment reaches a bound window (R296). -/
def Window.reach (w : Window) (g : Fragment) : Arrival :=
  let held : Arrival := if w.room then .taken { w with hold := w.hold ++ [g] } false else .full
  match g.phase with
  | none => if w.state = .armed then .taken (w.accept g) false else held
  | some p =>
    if w.state = .armed && p = w.phi then .taken (w.accept g) false
    else if p < w.phi || (p = w.phi && (w.state = .done || w.state = .failed)) then .taken w.countLate true
    else held

/-- What F.SRC of a fragment reads: its sender's contributor number (R303). -/
def State.fragSrc (s : State) (g : Fragment) : Nat := ((s.window g.window).contributor (s.senderEntry g)).getD 0xFFFF

/-- Fragments that reach the executor in one clock are accepted in ascending port, then sender (R296): this one may be now. -/
def State.fragmentTurn (s : State) (g : Fragment) : Bool :=
  let (c, p, f) := (s.window g.window).took
  (s.window g.window).state ≠ .armed || c ≠ s.clk || decide (p < g.port) || (p = g.port && decide (f ≤ s.fragSrc g))

/-- A fragment reaches its window; one that no contributor entry matches, or whose window is unbound, is
dropped and counted (R297, R328, DEDUCED log 28). -/
def State.reachWindow (s : State) (g : Fragment) : Option (State × Bool) :=
  let w := s.window g.window
  if !w.bound || (w.contributor (s.senderEntry g)).isNone then some (s.setWindow g.window w.countLate, true)
  else
    match w.reach g with
    | .taken w' dropped =>
      some (s.setWindow g.window { w' with took := if w.state = .armed then (s.clk, g.port, s.fragSrc g) else w'.took }, dropped)
    | .full => none

/-- Another fragment that a full hold queue stopped stands at the die port by which an access in flight arrives (R296). -/
def State.portStopped (s : State) (id port : Nat) : Bool :=
  s.net.any fun b => b.id ≠ id && match b.work with
    | .fragment g _ => g.port = port && (s.window g.window).stalled.contains b.id
    | _ => false

/-- A fragment of a wave stands behind a full hold queue: its store queue is stalled (R296). -/
def State.stalledWave (s : State) (wave : Nat) : Bool :=
  s.net.any fun b => b.wave = wave && match b.work with
    | .fragment g _ => s.portStopped b.id g.port || (s.window g.window).stalled.contains b.id
    | _ => false

/-! ## Phases (R295, R299) -/

/-- The `.COLL` token of a burst returns to the pool when its phase leaves ARMED (R299). -/
def State.returnColl (s : State) (w : Window) : State :=
  if w.burst && w.state = .armed then { s with power := { s.power with collOut := s.power.collOut - 1 } } else s

/-- A grid may arm or read a window (R299, R300). -/
def State.mayArm (s : State) (part : Nat) (w : Window) : Bool :=
  w.bound && w.owner = part && (w.scope ≠ 5 || (s.partition part).job.isSome)

/-- CWARM at the Scegus die: the status pushed, none for PERMISSION (R299). -/
def State.arm (s : State) (part wg entry : Nat) (window : Nat) (latch : LatchRef) : State × Option (List Word) :=
  let w := s.window window
  let phi (w : Window) : Word := BitVec.ofNat 32 w.phi
  if !s.mayArm part w then (s, none)
  else if w.state = .armed then (s, some [1, phi w])
  else if w.burst && ((s.wg? wg).map fun g => g.coll).getD 0 = 0 then (s, some [2, phi w])
  else
    let s := if w.burst then s.modWg wg fun g => { g with coll := g.coll - 1 } else s
    let held := w.hold
    let w := { w with
      phi := w.phi + 1, state := .armed, hold := [], queue := [], running := none, suspended := [], seen := [],
      counters := [], raw := [], rawPoison := [], nodes := [], present := [], blkOps := [], latch := some latch, armEntry := entry, armWg := wg,
      timer := none, sigs := [], failCode := 0, failSignal := false, stalled := [] }
    let w := held.foldl (fun w g => match w.reach g with | .taken w _ => w | .full => w) w
    (s.setWindow window w, some [0, phi w])

end Sys2Proof.Machine
end

