-- ==== Sys2Proof/Machine/MemSys.lean ====
section
/-! DEFINITION. Store queues, accesses in flight and pending results: how a thread's accesses enter them
(R111, R114), when they are performed (R112-R115, R127), and when a release is (R119-R121). -/

namespace Sys2Proof.Machine

open Sys2Proof

/-! ## Store queues -/

/-- A thread's access, as it enters its wave's store queue or leaves the core. -/
def State.accessOf (s : State) (w : Wave) (lane : Nat) (rel : Option RelMark) (via : Option TlbEntry) (work : Work) : Access1 :=
  { id := s.nextId, wave := w.id, core := w.core, lane := lane, seq := w.seq, origin := s.originOf w, rel := rel,
    level := ((w.threads[lane]?).map fun t => t.level).getD .user, via := via, sent := none, work := work }

/-- An access enters a wave's store queue. -/
def State.queueTo (s : State) (wave : Nat) (a : Access1) : State :=
  { s.fresh with waves := s.waves.map fun x => if x.id = wave then { x with store := x.store ++ [a] } else x }

/-- An access enters its wave's store queue (R111, R114). -/
def State.enqueue (s : State) (w : Wave) (lane : Nat) (rel : Option RelMark) (via : Option TlbEntry) (work : Work) : State :=
  s.queueTo w.id (s.accessOf w lane rel via work)

/-- An access leaves its core at once, as direct loads do (R99). -/
def State.launchDirect (s : State) (w : Wave) (lane : Nat) (via : Option TlbEntry) (work : Work) : State :=
  { s.fresh with net := s.net ++ [s.accessOf w lane none via work] }

/-- The wave's own later part of a work item: its class, none for a vault access. -/
def Work.route : Work → Option Route
  | .vault _ _ _ => none
  | .store _ _ r _ | .load _ _ r _ | .svc _ r | .message _ r | .fragment _ r => some r

/-- The access is a direct one (R110); a load or store of a peer's line with `.AL` is not. -/
def Work.direct : Work → Bool
  | .vault _ _ _ => false
  | .store _ _ _ d => d
  | _ => true

def Work.isLoad : Work → Bool
  | .load _ _ _ _ => true
  | _ => false

/-- The access is one to host memory. -/
def Work.host : Work → Bool
  | .store pa _ _ _ | .load pa _ _ _ => paSpace pa = 3
  | _ => false

/-- The access is one that a release with this scope and class mask waits for (R119): one to host memory at SYS alone,
then whatever its class (R83, R405). At every other scope it waits until it is performed for every agent
(DESIGN CHOICE log 79). -/
def Work.covered (w : Work) (sc : Scope) (mask : BitVec 3) : Bool :=
  if w.host then sc = .sys
  else match w.route with
    | none => true
    | some r => !w.direct || mask.getLsbD r.code

/-- A pending result is an earlier read that a release waits for (R119): not yet performed, and of a
class in the mask if direct. -/
def Pending.covered (p : Pending) (sc : Scope) (mask : BitVec 3) : Bool :=
  p.value.isNone &&
    match p.access with
    | .vault _ _ _ => true
    | .global pa _ _ r direct _ _ => if paSpace pa = 3 then sc = .sys else !direct || mask.getLsbD r.code
    | _ => false

/-- A request at a service wave or its router is one of these. -/
def State.svcAny (s : State) (p : SvcReq → Bool) : Bool :=
  s.services.any fun x => x.2.queue.any p || x.2.waiting.any p || x.2.taken.any p

/-- An access at place `seq` of a lane of the wave enters program order before the one at place `seq'` of a lane (R111). -/
def ahead (seq lane seq' lane' : Nat) : Bool := decide (seq < seq') || (seq = seq' && decide (lane < lane'))

/-- Every access that a release at place `seq` of a thread waits for is performed (R119, R121): the
thread's own reads, and its wave's queued stores, atomics, reductions and messages. -/
def State.released (s : State) (wave lane seq : Nat) (sc : Scope) (mask : BitVec 3) : Bool :=
  (match s.wave? wave with
    | none => true
    | some w =>
      (w.store.all fun a => !ahead a.seq a.lane seq lane || !a.work.covered sc mask)
        && (match w.threads[lane]? with
          | none => true
          | some t => t.pending.all fun p => decide (seq ≤ p.seq) || !p.covered sc mask))
    && (s.net.all fun a => a.wave ≠ wave || !ahead a.seq a.lane seq lane || !a.work.covered sc mask || (a.work.isLoad && a.lane ≠ lane))
    && !s.svcAny fun r => r.wave = wave && ahead r.seq r.lane seq lane && mask.getLsbD r.route.code

/-- The class mask that holds every class. -/
def allClasses : BitVec 3 := 0b111

/-- Some earlier acquire of the thread is not performed (R118). -/
def Thread.acquiring (t : Thread) : Bool :=
  t.pending.any fun p => p.value.isNone &&
    match p.access with
    | .global _ _ _ _ _ (some _) _ => true
    | .atomic _ acq => acq
    | _ => false

/-- Some earlier acquire of one of these lanes is not performed (R118). -/
def Wave.acquiring (w : Wave) (on : List Nat) : Bool := on.any fun l => ((w.threads[l]?).map Thread.acquiring).getD false

/-! ## Pending results (R50) -/

/-- Entries of a pending result, pushed highest word first. -/
def pendEntries (id : Nat) : Nat → List QEntry
  | 0 => []
  | n + 1 => pendEntries id n ++ [QEntry.pend id n]

/-- A result of `n` words becomes pending in a thread (R50). -/
def Thread.pend (t : Thread) (id seq la n : Nat) (d : Option Nat) (acc : Access) (value : Option (List Word)) : Thread :=
  let p : Pending :=
    { id := id, seq := seq, pc := t.pc, left := la, dst := d, words := n, access := acc,
      lost := t.queue.drop (16 - n), value := value }
  { t with queue := (pendEntries id n ++ t.queue).take 16, pending := t.pending ++ [p] }

/-- A ninth pending result waits at issue (R51). -/
def Thread.pendFull (t : Thread) : Bool := decide (8 ≤ t.pending.length)

/-- A pending result arrives (R38, R50, R53). -/
def Thread.deliver (t : Thread) (p : Pending) (ws : List Word) : Thread :=
  let t := { t with
    queue := t.queue.map fun (e : QEntry) => match e with
      | .pend i k => if i = p.id then QEntry.val (word ws k) else e
      | .val _ => e
    pending := t.pending.filter fun x => x.id ≠ p.id }
  t.writeD p.dst (ws.take p.kept)

/-- Word entries of a pending result leave the queue again, where its instruction faults after all. -/
def Thread.unpend (t : Thread) (p : Pending) : Thread :=
  let q := t.queue.filter fun (e : QEntry) => match e with | .pend i _ => i ≠ p.id | _ => true
  { t with queue := (q ++ p.lost).take 16, pending := t.pending.filter fun x => x.id ≠ p.id }

/-- Set the value of a pending result, which is then performed. -/
def Thread.fill (t : Thread) (id : Nat) (ws : List Word) : Thread :=
  { t with pending := t.pending.map fun p => if p.id = id then { p with value := some ws } else p }

/-- The granule's address of a poisoned access, as EVAL gives it (R374). -/
def granuleVa (va : DWord) : DWord := va &&& ~~~31#64

/-- The pending access of a thread turns out to read poison: its instruction takes POISON (R104). -/
def State.poisonPending (s : State) (w : Wave) (lane : Nat) (p : Pending) (eval : DWord) (pa : Nat) : State :=
  (s.logCheck (dieOf w.core) w.core 1 0 0 0 pa).modThread w.id lane fun t =>
    ({ t.unpend p with pc := p.pc }).raise
      { cause := .poison, epc := p.pc, eval := eval, imp := false, toSys := false, seq := p.seq }

/-! ## Reads of a thread's own writes (R114, R127) -/

/-- Bytes from `at_` on with later writes laid over them, oldest first. -/
def overlay (at_ : Nat) (bytes : List Byte) : List (Nat × List Byte) → List Byte
  | [] => bytes
  | (o, d) :: ws =>
    overlay at_ (((List.range bytes.length).zip bytes).map fun p =>
      if o ≤ at_ + p.1 then (d[at_ + p.1 - o]?).getD p.2 else p.2) ws

/-- The thread's writes before place `seq` that are not performed, oldest first. -/
def State.ownWrites (s : State) (w : Wave) (lane seq : Nat) : List Access1 :=
  (s.net.filter fun a => a.wave = w.id && a.lane = lane && decide (a.seq < seq))
    ++ w.store.filter fun a => a.lane = lane && decide (a.seq < seq)

/-- Their global stores. -/
def globalStores (l : List Access1) : List (Nat × List Byte) :=
  l.filterMap fun a => match a.work with | .store pa d _ _ => some (pa, d) | _ => none

/-- Their stores to a workgroup's vault. -/
def vaultStores (wg : Nat) (l : List Access1) : List (Nat × List Byte) :=
  l.filterMap fun a => match a.work with | .vault g o d => if g = wg then some (o, d) else none | _ => none

/-- A poisoned byte of a range that no own write covers: its address. -/
def poisonSeen (poison : List Nat) (at_ n : Nat) (own : List (Nat × List Byte)) : Option Nat :=
  ((List.range n).map fun i => at_ + i).find? fun a =>
    poison.contains (a / 32) && !own.any fun o => decide (o.1 ≤ a ∧ a < o.1 + o.2.length)

/-- An atomic or reduction of the thread before place `seq` that overlaps a range is not performed. -/
def State.ownAtomic (s : State) (w : Wave) (lane seq pa n : Nat) : Bool :=
  let hit (r : SvcReq) : Bool := r.wave = w.id && r.lane = lane && decide (r.seq < seq) && meets r.pa (if r.wide then 8 else 4) pa n
  ((s.ownWrites w lane seq).any fun a => match a.work with | .svc r _ => hit r | _ => false) || s.svcAny hit

/-! ## Performing reads -/

/-- The outcome of performing a read. -/
inductive Perf where
  | value (s : State) (ws : List Word)
  /-- POISON at an address, with the physical address for the log. -/
  | poison (eval : DWord) (pa : Nat)
  | wait

/-- The words of a range that a read takes from memory: those with a byte that no own write covers. -/
def wordsRead (pa n : Nat) (own : List (Nat × List Byte)) : List Nat :=
  (words8 pa n).filter fun k => (List.range n).any fun i =>
    (pa + i) / 8 = k && !own.any fun o => decide (o.1 ≤ pa + i ∧ pa + i < o.1 + o.2.length)

/-- The records of the words that a read takes from memory (R123). -/
def State.recordsRead (s : State) (pa n : Nat) (own : List (Nat × List Byte)) : RelRecords :=
  recordsOf s.releases (wordsRead pa n own)

/-- Perform a vault read (R213), or a cached or direct read of global memory that is at hand: of this package's DRAM, of
host memory, or of a peer's line that the die's LLC holds (R97-R99, R215). It is performed whole, in one step (R106)
(DESIGN CHOICE log 79). -/
def State.performRead (s : State) (w : Wave) (lane : Nat) (p : Pending) : Perf :=
  match p.access with
  | .vault wg off len =>
    match s.wg? wg with
    | none => .wait
    | some g =>
      let own := vaultStores wg (s.ownWrites w lane p.seq)
      match poisonSeen g.poison off len own with
      | some a => .poison (BitVec.ofNat 64 (g.member * 2 ^ 30 + a / 32 * 32)) (a / 32 * 32)
      | none => .value (s.vaultRead g off len) (wordsOf p.words (overlay off (sbytes g.vault off len) own))
  | .global pa len va route direct acq _ =>
    let own := globalStores (s.ownWrites w lane p.seq)
    if s.ownAtomic w lane p.seq pa len || (s.peerDram pa && !direct && !s.lineServes (dieOf w.core) pa false) then .wait
    else
      match poisonSeen s.poison pa len own with
      | some a => .poison (granuleVa (va + BitVec.ofNat 64 (a - pa))) a
      | none =>
        let s1 := if direct && s.ownDram pa then s.recall pa
          else if direct then s else s.touchLine (dieOf w.core) pa route false
        let s2 := if s.ownDram pa then s1.readDone pa len else s1
        let s3 := match acq with
          | some sc => s2.acquired (s1.recordsRead pa len own) sc (s.originOf w)
          | none => s2
        .value s3 (wordsOf p.words (overlay pa (s1.peek pa len) own))
  | _ => .wait

/-- The read goes over the network by itself, to be performed by DIRECT_ACCESS_PERFORM. -/
def Access.readsDirect (a : Access) : Bool :=
  match a with
  | .global _ _ _ _ direct _ _ => direct
  | _ => false

/-- A cached read of a peer's line that the die's LLC does not hold asks for a copy (R97). -/
def State.fetchFor (s : State) (w : Wave) (a : Access) : State :=
  match a with
  | .global pa _ _ route false _ _ => if s.peerDram pa then s.fetchLine (dieOf w.core) w.core pa route false else s
  | _ => s

/-- The reads of a wave that a core performs in program order: vault and cached ones (R115). -/
def Pending.inOrder (p : Pending) : Bool :=
  p.value.isNone && match p.access with
    | .vault _ _ _ => true
    | .global _ _ _ _ direct _ _ => !direct
    | _ => false

/-- A read that stands before another: by place, then by lane. -/
def readBefore (a b : Nat × Pending) : Bool := decide (a.2.seq < b.2.seq) || (a.2.seq = b.2.seq && decide (a.1 < b.1))

/-- Insert a read in program order. -/
def insertRead (x : Nat × Pending) : List (Nat × Pending) → List (Nat × Pending)
  | [] => [x]
  | y :: ys => if readBefore x y then x :: y :: ys else y :: insertRead x ys

/-- The unperformed vault and cached reads of a wave before place (`seq`, `lane`), in program order. -/
def Wave.readsBefore (w : Wave) (seq lane : Nat) : List (Nat × Pending) :=
  (((List.range w.threads.length).zip w.threads).flatMap fun x =>
    (x.2.pending.filter fun p => p.inOrder && (decide (p.seq < seq) || (p.seq = seq && decide (x.1 < lane)))).map
      fun p => (x.1, p)).foldl (fun l x => insertRead x l) []

/-- Perform reads in order; none where one of them cannot be performed yet. -/
def State.performReads (wave : Nat) : State → List (Nat × Pending) → Option State
  | s, [] => some s
  | s, (lane, p) :: l =>
    match s.wave? wave with
    | none => none
    | some w =>
      if p.access.readsDirect then none
      else
        match s.performRead w lane p with
        | .value s' ws => State.performReads wave (s'.modThread wave lane fun t => t.fill p.id ws) l
        | .poison eval pa => State.performReads wave (s.poisonPending w lane p eval pa) l
        | .wait => none

/-! ## Draining a store queue -/

/-- A cached store is performed in the LLC that then holds the only copy (R113). -/
def State.performCached (s : State) (a : Access1) (pa : Nat) (data : List Byte) (route : Route) : State :=
  let rec_ := a.rel.map fun r => (r.scope, a.origin)
  (s.touchLine (dieOf a.core) pa route true).poke a.core pa data rec_

/-- The reads of a wave that stand before the head of its store queue ask for the peers' lines that they lack. -/
def State.fetchBefore (s : State) (w : Wave) (seq lane : Nat) : State :=
  (w.readsBefore seq lane).foldl (fun s x => s.fetchFor w x.2.access) s

/-- The access stores to a queue's doorbell, QDOOR, in this package's device registers (R336). -/
def State.rings (s : State) (w : Work) : Bool :=
  match w with
  | .store pa d _ _ => paSpace pa = 2 && paPkg pa = s.system.pkgid && (devSlots (paOffset pa) d.length).any fun o =>
      match devSlot o with | .queue _ _ n | .part _ n => n = 0x3E4 | _ => false
  | _ => false

/-- The release marks of an entry of a store queue are met (R114, R119), and what its doorbell makes visible is performed
(R336). -/
def State.mayLeave (s : State) (a : Access1) : Bool :=
  (match a.rel with
    | some r => s.released a.wave a.lane a.seq r.scope r.mask
    | none => true)
    && (!s.rings a.work || s.released a.wave a.lane a.seq .sys allClasses)

/-- The head of a wave's store queue leaves it (R114, R115): nothing where it may not yet. A cached store is performed for
every observer as it leaves, a direct one when it is performed at its home, for waves of its core too (R114, R115, R128)
(DESIGN CHOICE log 79). -/
def State.drainHead (s : State) (core slot : Nat) (w : Wave) : Option State :=
  match w.store with
  | [] => none
  | a :: rest =>
    match s.performReads w.id (w.readsBefore a.seq 0) with
    | none => some (s.fetchBefore w a.seq 0)
    | some s1 =>
      if !s1.mayLeave a || s.stalledWave w.id || core ≠ w.core || slot ≠ w.slot then none
      else
        let s2 : State := { s1 with waves := s1.waves.map fun x => if x.id = w.id then { x with store := rest } else x }
        match a.work with
        | .vault wg off data => some (if a.residual then s2.residualWrite wg off data else s2.vaultWrite wg off data)
        | .store pa data route direct =>
          if paSpace pa = 1 && paPkg pa = s.system.pkgid then
            let (s3, g) := s2.fragmentOf a.core pa data []
            some { s3 with net := s3.net ++ [{ a with work := .fragment g route }] }
          else if direct then some { s2 with net := s2.net ++ [a] }
          else if s.peerDram pa && !s1.lineServes (dieOf a.core) pa true then some (s1.fetchLine (dieOf a.core) a.core pa route true)
          else some (s2.performCached a pa data route)
        | _ => some { s2 with net := s2.net ++ [a] }

/-! ## Order of direct accesses (R125) -/

/-- The home of an access for R125: its die, and 8 + space for what is not DRAM; a message and a
fragment have none of their own. -/
def State.homeKey (s : State) (pa : Nat) : Nat × Nat :=
  if s.ownDram pa then (paPkg pa, s.home pa)
  else if paSpace pa = 0 then (paPkg pa, 8)
  else (paPkg pa, 8 + paSpace pa)

/-- The physical address of a work item. -/
def Work.pa : Work → Option Nat
  | .store pa _ _ _ | .load pa _ _ _ => some pa
  | .svc r _ => some r.pa
  | .fragment g _ => some (mkPa 0 1 (g.window * 2 ^ 32 + g.off))
  | _ => none

/-- Two accesses of one core share a `.MIN` path (R125). -/
def State.samePath (s : State) (a b : Access1) : Bool :=
  a.core = b.core && a.work.route = some .min && b.work.route = some .min &&
    match a.work.pa, b.work.pa with
    | some x, some y => s.homeKey x = s.homeKey y && minLane x = minLane y
    | _, _ => false

/-- A load that has not left its core: an earlier access of its thread to the same bytes, one that it
cannot read from the queue, is not performed (R127). -/
def State.waitsForOwn (s : State) (b : Access1) : Bool :=
  match b.work, s.wave? b.wave with
  | .load pa len _ _, some w =>
    s.ownAtomic w b.lane b.seq pa len
      || (paSpace pa = 2 && (globalStores (s.ownWrites w b.lane b.seq)).any fun o => meets o.1 o.2.length pa len)
  | _, _ => false

/-- The quad, numbered over the package, whose service wave serves an address (R100). -/
def State.servingQuad (s : State) (pa : Nat) : Nat := 8 * s.home pa + serviceQuad pa

/-- The quad that an access goes to. -/
def Work.toQuad (s : State) (w : Work) : Option Nat :=
  match w with
  | .svc r _ => some (s.servingQuad r.pa)
  | _ => none

/-- A request that left the core earlier on the same `.MIN` path has not been performed: it stands in the queue of a
service wave or waits for room there (R30, R125). One for the same quad follows it in that queue. -/
def State.behindRequest (s : State) (a : Access1) : Bool :=
  s.services.any fun v => a.work.toQuad s ≠ some v.1 && (v.2.queue ++ v.2.waiting).any fun r =>
    r.core = a.core && r.reply.isNone && r.route = .min && a.work.route = some .min &&
      match a.work.pa with
      | some pa => s.homeKey r.pa = s.homeKey pa && minLane r.pa = minLane pa
      | none => false

/-- An access to this package's host memory that PCIe does not let pass an earlier posted write (R405). -/
def State.behindPosted (s : State) (b a : Access1) : Bool :=
  let here (x : Access1) : Bool := x.work.host && match x.work.pa with | some pa => paPkg pa = s.system.pkgid | none => false
  here a && here b && !b.work.isLoad

/-- No access that left the core earlier on the same path is still in flight or to be performed. -/
def State.pathClear (s : State) (a : Access1) : Bool :=
  ((s.net.takeWhile fun b => b.id ≠ a.id).all fun b => (!s.samePath b a || s.waitsForOwn b) && !s.behindPosted b a)
    && !s.behindRequest a

/-- A write that arrives at its home may be performed in this clk: none by a higher core, or a higher lane of its core, to a
byte of it was (R112). -/
def State.inTurn (s : State) (a : Access1) : Bool :=
  let n := match a.work with | .store _ d _ _ => d.length | .svc r _ => if r.wide then 8 else 4 | _ => 0
  match a.work.pa with
  | some pa => a.work.route = some .min || s.arrivals.all fun x =>
      !meets x.pa x.len pa n || decide (x.core < a.core) || (x.core = a.core && decide (x.lane ≤ a.lane))
  | none => true

/-- A direct write has arrived at its home in this clk (R112). -/
def State.arrivedNow (s : State) (a : Access1) : State :=
  match a.work with
  | .store pa d _ _ => { s with arrivals := s.arrivals ++ [{ core := a.core, lane := a.lane, pa := pa, len := d.length }] }
  | .svc r _ => { s with arrivals := s.arrivals ++ [{ core := a.core, lane := a.lane, pa := r.pa, len := if r.wide then 8 else 4 }] }
  | _ => s

/-- An access leaves the list of those in flight. -/
def State.landed (s : State) (id : Nat) : State := { s with net := s.net.filter fun a => a.id ≠ id }

end Sys2Proof.Machine
end

