-- ==== Sys2Proof/Machine/Latch.lean ====
section
/-! DEFINITION. The latch instructions (R224). -/

namespace Sys2Proof.Machine

open Sys2Proof

/-- The latch that A names, or its fault; an earlier acquire of the thread is waited for (R118). -/
def withLatch (f : Fields) (s : State) (w : Wave) (lane : Nat) (t : Thread) (k : LatchRef → TRes) : TRes :=
  match s.latchAt w (read32 s w lane t f f.a) with
  | .error (c, e) => .fault c e
  | .ok l => if t.acquiring then .hold s else k l

/-- The wave's earlier stores to vaults have left its queue (R115). -/
def Wave.vaultDrained (w : Wave) : Bool := w.store.all fun a => match a.work with | .vault _ _ _ => false | _ => true

/-- LTINIT (R224): its write takes its place behind the wave's earlier vault stores (R115). -/
def execLtinit (f : Fields) (s : State) : Host.Outcome State Fault Refusal :=
  execEach (shapeAB f) f (fun s w lane t =>
    withLatch f s w lane t fun l =>
      if s.latchWaited l.wg l.off 16 || s.latchAimed l.wg l.off 16 then
        .fault .vaultState ((read32 s w lane t f f.a).zeroExtend 64)
      else if !w.vaultDrained then .hold s
      else .done (s.setLatch l (read32 s w lane t f f.b).toNat 0 0) (t.advance f.form.len)) s

/-- LTEXP (R224). -/
def execLtexp (f : Fields) (s : State) : Host.Outcome State Fault Refusal :=
  execEach (shapeLtexp f) f (fun s w lane t =>
    withLatch f s w lane t fun l =>
      let b := read32 s w lane t f f.b
      let e : Int := if bit f.m 0 then b.toNat else (s.latchWord l 0).toNat + b.toInt
      if e < 0 || 2 ^ 32 ≤ e then .fault .illegal 7
      else
        let completes := decide (0 < e ∧ e ≤ (s.latchWord l 1).toNat)
        if completes && !s.released w.id lane w.seq .pkg allClasses then .hold s
        else .done (s.latchApply l e.toNat 0) (t.advance f.form.len)) s

/-- LTARR (R224). -/
def execLtarr (f : Fields) (s : State) : Host.Outcome State Fault Refusal :=
  execEach (shapeDAB f 0) f (fun s w lane t =>
    withLatch f s w lane t fun l =>
      if !s.released w.id lane w.seq .pkg allClasses then .hold s
      else
        .done (s.arrive l (read32 s w lane t f f.b).toNat) ((t.result f.d.reg [s.latchPhase l]).advance f.form.len)) s

/-- LTWAIT (R224). -/
def execLtwait (f : Fields) (s : State) : Host.Outcome State Fault Refusal :=
  execEach (shapeAB f) f (fun s w lane t =>
    withLatch f s w lane t fun l => .done s (t.park (.ltwait l (read32 s w lane t f f.b)) f)) s

/-- The end of a hint of `c` clk (R224, R241). -/
def State.hintEnd (s : State) (c : Word) : Nat := s.clk + min c.toNat 65536

/-- LTTRY (R224). -/
def execLttry (f : Fields) (s : State) : Host.Outcome State Fault Refusal :=
  execEach (shapeTry f) f (fun s w lane t =>
    withLatch f s w lane t fun l =>
      .done s (t.park (.lttry l (read32 s w lane t f f.b) (s.hintEnd (read32 s w lane t f f.c)) (bits f.m 0 3) f.d.reg) f)) s

/-- The outcome of LTTRY or PHTRY reaches its thread. -/
def Thread.tried (t : Thread) (len : Nat) (pred : Nat) (d : Option Nat) (ok : Bool) : Thread :=
  (t.setPred pred ok).unpark len d [if ok then 1 else 0]

end Sys2Proof.Machine
end

