-- ==== Sys2Proof/Machine/Phaser.lean ====
section
/-! DEFINITION. Phasers (R239, R240) and their instructions (R241). -/

namespace Sys2Proof.Machine

open Sys2Proof

/-! ## Phasers by place -/

/-- A phaser's key in the table of its level: DIE phasers are keyed by die and index. -/
def PhaserRef.key (r : PhaserRef) : Nat := if r.level = 2 then 128 * r.owner + r.index else r.index

/-- The phaser at a place. -/
def State.phaser (s : State) (r : PhaserRef) : Phaser :=
  match r.level with
  | 0 => ((s.wg? r.owner).map fun g => lookD Phaser.reset g.phasers r.key).getD Phaser.reset
  | 1 => ((s.gang? r.owner).map fun g => lookD Phaser.reset g.phasers r.key).getD Phaser.reset
  | 2 => lookD Phaser.reset s.diePh r.key
  | 3 => lookD Phaser.reset s.pkgPh r.key
  | _ => lookD Phaser.reset s.podPh r.key

def State.setPhaser (s : State) (r : PhaserRef) (p : Phaser) : State :=
  match r.level with
  | 0 => s.modWg r.owner fun g => { g with phasers := put g.phasers r.key p }
  | 1 => { s with gangs := s.gangs.map fun g => if g.id = r.owner then { g with phasers := put g.phasers r.key p } else g }
  | 2 => { s with diePh := put s.diePh r.key p }
  | 3 => { s with pkgPh := put s.pkgPh r.key p }
  | _ => { s with podPh := put s.podPh r.key p }

/-- A wave's membership. -/
def Phaser.member (p : Phaser) (wave : Nat) : Option Member := p.members.find? fun m => m.wave = wave

/-! ## Phases (R240) -/

/-- A member takes part in the open phase. -/
def Phaser.partakes (p : Phaser) (m : Member) : Bool := m.joined = p.phase

/-- A member has signalled the open phase. -/
def Phaser.signalled (p : Phaser) (m : Member) : Bool := p.partakes m && m.next ≠ p.phase

/-- The open phase completes, where it may. -/
def Phaser.complete (p : Phaser) : Phaser :=
  let signers := p.members.filter fun m => m.sig && p.partakes m
  if signers ≠ [] && signers.all p.signalled then
    let q := p.phase + 1
    { phase := q, members := p.members.map fun m => { m with joined := q, next := q } }
  else p

/-- A member signals the open phase. -/
def Phaser.signal (p : Phaser) (wave : Nat) : Phaser :=
  Phaser.complete { p with members := p.members.map fun m => if m.wave = wave then { m with next := p.phase + 1 } else m }

/-- A wave leaves: a signal that it owes for the open phase is given first (R241, R172). -/
def Phaser.leave (p : Phaser) (wave : Nat) : Phaser :=
  match p.member wave with
  | none => p
  | some m =>
    let p := if m.sig && p.partakes m && !p.signalled m then p.signal wave else p
    Phaser.complete { p with members := p.members.filter fun m => m.wave ≠ wave }

/-- A wave joins: the phase that it joins, and the phaser after (R241). -/
def Phaser.join (p : Phaser) (wave : Nat) (sig wait : Bool) : Word × Phaser :=
  let q := if p.members.any p.signalled then p.phase + 1 else p.phase
  (q, { p with members := p.members ++ [{ wave := wave, sig := sig, wait := wait, joined := q, next := q }] })

/-- Phase `w` has completed, with modular wrap (R241). -/
def Phaser.past (p : Phaser) (w : Word) : Bool := decide (0 < (p.phase - w).toInt)

/-! ## Handles (R239) -/

/-- The count of a level's phasers (R21). -/
def phaserCount (level : Nat) : Nat :=
  match level with
  | 0 | 1 | 4 => 64
  | 2 => 128
  | _ => 256

/-- The die that holds a wave's DIE phaser: where it is a member, else its own (R385). -/
def State.diePhaserOf (s : State) (w : Wave) (index : Nat) : Nat :=
  ((List.range 8).find? fun d => ((s.phaser { level := 2, owner := d, index := index }).member w.id).isSome).getD (dieOf w.core)

/-- The grid's record allots an index of a level. -/
def Record.allots (r : Record) (level index : Nat) : Bool :=
  let within (base cnt : Nat) : Bool := decide (base ≤ index ∧ index < base + cnt)
  match level with
  | 2 => within r.dieBase r.dieCnt
  | 3 => within r.pkgBase r.pkgCnt
  | _ => within r.podBase r.podCnt

/-- The phaser that a handle names for a wave, or the fault. -/
def State.phaserAt (s : State) (w : Wave) (h : Word) : Except (Cause × DWord) PhaserRef :=
  let level := bits h 13 3
  let index := bits h 0 13
  if bits h 16 16 ≠ 0 || 5 ≤ level || phaserCount level ≤ index then .error (.illegal, 7)
  else
    let g := match w.kind with | .user => s.wg? w.wg | _ => none
    match s.entryOfWave w with
    | none => .error (.permission, 0)
    | some e =>
      if level = 0 then
        match g with
        | some g => if index < e.record.corePh then .ok { level := 0, owner := g.id, index := index } else .error (.permission, 0)
        | none => .error (.permission, 0)
      else if level = 1 then
        match g with
        | some g => if index < e.record.quadPh then .ok { level := 1, owner := g.gang, index := index } else .error (.permission, 0)
        | none => .error (.permission, 0)
      else if !e.record.allots level index then .error (.permission, 0)
      else if level = 4 && (s.partition (s.partOfWave w)).job.isNone then .error (.permission, 0)
      else .ok { level := level, owner := if level = 2 then s.diePhaserOf w index else 0, index := index }

/-! ## The instructions (R241) -/

/-- A phaser instruction that acts once for the wave, with the phaser that A names. -/
def execPhaserWave (sh : Shape) (f : Fields) (body : State → Wave → List Nat → PhaserRef → WRes) (s : State) :
    Host.Outcome State Fault Refusal :=
  execWave sh f (fun s w lane t => [read32 s w lane t f f.a]) (fun s w on v =>
    match s.phaserAt w (word v 0) with
    | .error (c, e) => .fault c e
    | .ok r => body s w on r) s

/-- The scope of a level of phasers (R21, R124). -/
def levelScope (level : Nat) : Scope :=
  match level with
  | 0 => .core
  | 1 => .quad
  | 2 => .die
  | 3 => .pkg
  | _ => .pod

/-- Every participating thread's release at a phaser's level is performed. -/
def State.allReleased (s : State) (w : Wave) (on : List Nat) (r : PhaserRef) : Bool :=
  on.all fun lane => s.released w.id lane w.seq (levelScope r.level) allClasses

/-- PHREG (R241). -/
def execPhreg (f : Fields) (s : State) : Host.Outcome State Fault Refusal :=
  execPhaserWave (shapePhreg f) f (fun s w _ r =>
    let p := s.phaser r
    if (p.member w.id).isSome then .fault .illegal 7
    else
      let (q, p) := p.join w.id (bits f.m 0 2 ≠ 1) (bits f.m 0 2 ≠ 0)
      .done (s.setPhaser r p) fun _ t => (t.result f.d.reg [q]).advance f.form.len) s

/-- PHDROP (R241). -/
def execPhdrop (f : Fields) (s : State) : Host.Outcome State Fault Refusal :=
  execPhaserWave (shapeA32 f) f (fun s w on r =>
    let p := s.phaser r
    match p.member w.id with
    | none => .fault .illegal 7
    | some m =>
      if m.sig && p.partakes m && !p.signalled m && !s.allReleased w on r then .hold
      else .done (s.setPhaser r (p.leave w.id)) fun _ t => t.advance f.form.len) s

/-- PHSIG (R241). -/
def execPhsig (f : Fields) (s : State) : Host.Outcome State Fault Refusal :=
  execPhaserWave (shapeDA f 0) f (fun s w on r =>
    let p := s.phaser r
    match p.member w.id with
    | none => .fault .illegal 7
    | some m =>
      if !m.sig then .fault .illegal 7
      else if !s.allReleased w on r then .hold
      else if m.next = p.phase then
        .done (s.setPhaser r (p.signal w.id)) fun _ t => (t.result f.d.reg [m.next]).advance f.form.len
      else .done s fun _ t => t.park (.phsig r m.next f.d.reg) f) s

/-- PHNEXT (R241). -/
def execPhnext (f : Fields) (s : State) : Host.Outcome State Fault Refusal :=
  execPhaserWave (shapeDA f 0) f (fun s w on r =>
    let p := s.phaser r
    match p.member w.id with
    | none => .fault .illegal 7
    | some m =>
      if !(m.sig && m.wait) then .fault .illegal 7
      else if !s.allReleased w on r then .hold
      else
        let now := decide (m.next = p.phase)
        .done (if now then s.setPhaser r (p.signal w.id) else s) fun _ t => t.park (.phnext r m.next now f.d.reg) f) s

/-- A waiting phaser instruction, of each thread by itself. -/
def phaserWait (f : Fields) (s : State) (w : Wave) (lane : Nat) (t : Thread) (k : PhaserRef → TRes) : TRes :=
  match s.phaserAt w (read32 s w lane t f f.a) with
  | .error (c, e) => .fault c e
  | .ok r =>
    match (s.phaser r).member w.id with
    | some m => if m.wait then k r else .fault .illegal 7
    | none => .fault .illegal 7

/-- PHWAIT (R241). -/
def execPhwait (f : Fields) (s : State) : Host.Outcome State Fault Refusal :=
  execEach (shapeAB f) f (fun s w lane t =>
    phaserWait f s w lane t fun r => .done s (t.park (.phwait r (read32 s w lane t f f.b)) f)) s

/-- PHTRY (R241). -/
def execPhtry (f : Fields) (s : State) : Host.Outcome State Fault Refusal :=
  execEach (shapeTry f) f (fun s w lane t =>
    phaserWait f s w lane t fun r =>
      .done s (t.park (.phtry r (read32 s w lane t f f.b) (s.hintEnd (read32 s w lane t f f.c)) (bits f.m 0 3) f.d.reg) f)) s

/-! ## Waking -/

/-- The phasers that hold a wave as a member. -/
def State.phasersOf (s : State) (w : Wave) : List PhaserRef :=
  let at_ (l : List (Nat × Phaser)) (mk : Nat → PhaserRef) : List PhaserRef :=
    l.filterMap fun p => if (p.2.member w.id).isSome then some (mk p.1) else none
  (match s.wg? w.wg with
    | some g => at_ g.phasers fun k => { level := 0, owner := g.id, index := k }
    | none => [])
  ++ (match (s.wg? w.wg).bind fun g => s.gang? g.gang with
    | some g => at_ g.phasers fun k => { level := 1, owner := g.id, index := k }
    | none => [])
  ++ at_ s.diePh (fun k => { level := 2, owner := k / 128, index := k % 128 })
  ++ at_ s.pkgPh (fun k => { level := 3, owner := 0, index := k })
  ++ at_ s.podPh (fun k => { level := 4, owner := 0, index := k })

/-- A wave leaves every phaser (R354). -/
def State.leavePhasers (s : State) (w : Wave) : State :=
  (s.phasersOf w).foldl (fun s r => s.setPhaser r ((s.phaser r).leave w.id)) s

/-- A wave owes its signal for the open phase of a phaser. -/
def Phaser.owes (p : Phaser) (wave : Nat) : Bool :=
  ((p.member wave).map fun m => m.sig && p.partakes m && !p.signalled m).getD false

/-- A wave that has exited leaves its phasers as by PHDROP (R172): where it owes a signal, once the release that the signal
is has been performed (R241). -/
def State.dropPhasers (s : State) (w : Wave) : State :=
  ((s.phasersOf w).filter fun r => !(s.phaser r).owes w.id || s.allReleased w (List.range w.threads.length) r).foldl
    (fun s r => s.setPhaser r ((s.phaser r).leave w.id)) s

end Sys2Proof.Machine
end

