-- ==== Sys2Proof/Machine/Alloc.lean ====
section
/-! DEFINITION. Register blocks: the free pool and its requests (R24, R52, R53), RGROW and RSHRINK (R242),
IVL (R177), stuck waves and GROW_DEADLOCK (R54, R55). -/

namespace Sys2Proof.Machine

open Sys2Proof

/-! ## The pool -/

/-- The blocks of the pool of a core (R24). -/
def poolSize (core : Nat) : Nat := if isQuadHead core then 1512 else 1528

/-- The blocks of a wave that are kept apart from the pool: those of its slot (R24). -/
def Wave.reserve (w : Wave) : Nat :=
  match w.kind with
  | .user => 0
  | .handler _ _ => 8
  | .service => 16

/-- Blocks of the pool that waves of a core hold. -/
def State.heldBlocks (s : State) (core : Nat) : Nat :=
  ((s.waves.filter fun w => w.core = core && !w.exited).map fun w => w.blocks - w.reserve).foldl (· + ·) 0

def State.drainingBlocks (s : State) (core : Nat) : Nat := (s.core core).draining.length

/-- Free blocks of a core. -/
def State.freeBlocks (s : State) (core : Nat) : Nat := poolSize core - s.heldBlocks core - s.drainingBlocks core

/-! ## Returning blocks (R53) -/

/-- A pending result writes into block `b`. -/
def Pending.writes (p : Pending) (b : Nat) : Bool :=
  match p.dst with
  | some d => p.kept ≠ 0 && meets d p.kept (8 * b) 8
  | none => false

/-- The pending results that write into a block of a wave (DESIGN CHOICE log 42). -/
def Wave.writersOf (w : Wave) (b : Nat) : List Nat :=
  w.threads.flatMap fun t => (t.pending.filter fun p => p.writes b).map fun p => p.id

/-- A pending result after its thread's registers from `top` on are returned: late words are discarded (R53). -/
def Pending.shrink (p : Pending) (top : Nat) : Pending :=
  match p.dst with
  | some d => { p with kept := min p.kept (top - d) }
  | none => p

/-- A thread whose registers from `top` on are returned. -/
def Thread.shrink (t : Thread) (top : Nat) : Thread :=
  { t with
    regs := t.regs.filter fun p => decide (p.1 < top)
    pending := t.pending.map fun p => p.shrink top
    cut := min t.cut top }

/-- Blocks `lo` to `hi - 1` of a wave are returned: those with pending writes drain, and late writes into
them are discarded. -/
def State.returnBlocks (s : State) (w : Wave) (lo hi : Nat) : State :=
  let blocks := ((List.range (hi - lo)).map fun i => lo + i).filter fun b => decide (w.reserve ≤ b)
  let late := (blocks.map w.writersOf).filter fun l => l ≠ []
  let c := s.core w.core
  let s := s.setCore w.core { c with draining := c.draining ++ late }
  match s.wave? w.id with
  | none => s
  | some w =>
    s.setWave { w with
      blocks := lo
      interval := w.interval &&& BitVec.ofNat 31 (2 ^ lo - 1)
      threads := w.threads.map fun t => t.shrink (8 * lo) }

/-- A pending result has arrived: the blocks that waited for it alone rejoin the pool. -/
def State.undrain (s : State) (core id : Nat) : State :=
  let c := s.core core
  if c.draining = [] then s
  else s.setCore core { c with draining := (c.draining.map fun l => l.filter fun x => x ≠ id).filter fun l => l ≠ [] }

/-! ## RGROW and RSHRINK (R242) -/

/-- RGROW (R242): the threads park until the request is granted, or at once go on where no block is asked. -/
def execRgrow (f : Fields) (s : State) : Host.Outcome State Fault Refusal :=
  execWave (shapeDA f 0) f (fun s w lane t => [read32 s w lane t f f.a]) (fun s w _ v =>
    let g := (word v 0).toNat
    if 31 < w.blocks + g then .fault .illegal 7
    else if g = 0 then .done s fun _ t => (t.result f.d.reg [BitVec.ofNat 32 w.blocks]).advance f.form.len
    else .done s fun _ t => t.park (.rgrow g w.seq s.clk f.d.reg) f) s

/-- A thread stands at an access that waits for its translation: it has still to read its sources (R321). -/
def Thread.missing (t : Thread) : Bool := t.run = .running && t.due.isNone && t.missAt = some t.pc

/-- RSHRINK (R242): it waits while an access of its wave that issued before has its sources to read (R321). Where its own D
lies in a block that it returns, it pushes the count and writes no register (DESIGN CHOICE log 80). -/
def execRshrink (f : Fields) (s : State) : Host.Outcome State Fault Refusal :=
  execWave (shapeDA f 0) f (fun s w lane t => [read32 s w lane t f f.a]) (fun s w _ v =>
    let g := (word v 0).toNat
    if w.blocks < g + 1 then .fault .illegal 7
    else if w.threads.any Thread.missing then .hold
    else
      let c := w.blocks - g
      .done (if g = 0 then s else s.returnBlocks w c w.blocks) fun _ t =>
        let d := f.d.reg.bind fun k => if k < 8 * c then some k else none
        ((t.shrink (8 * c)).result d [BitVec.ofNat 32 c]).advance f.form.len) s

/-- A request of RGROW: its wave, its blocks, the place of its execution and the clk of its issue. -/
structure GrowReq where
  wave : Wave
  g : Nat
  seq : Nat
  at_ : Nat

/-- The requests of a wave, one for each issue group blocked in RGROW. -/
def Wave.growing (w : Wave) : List GrowReq :=
  (w.threads.filterMap fun t => match t.parkNow with | some (.rgrow g q a _) => some (g, q, a) | _ => none).eraseDups.map
    fun x => { wave := w, g := x.1, seq := x.2.1, at_ := x.2.2 }

/-- Request `a` is older than request `b`: by issue clock, pane, slot (R52), then program order. -/
def growBefore (a b : GrowReq) : Bool :=
  if a.at_ ≠ b.at_ then decide (a.at_ < b.at_)
  else if a.wave.slot % 4 ≠ b.wave.slot % 4 then decide (a.wave.slot % 4 < b.wave.slot % 4)
  else if a.wave.slot ≠ b.wave.slot then decide (a.wave.slot < b.wave.slot)
  else decide (a.seq < b.seq)

/-- The oldest waiting request of a core that fits. -/
def State.nextGrow (s : State) (core : Nat) : Option GrowReq :=
  ((s.waves.filter fun w => w.core = core).flatMap fun w => w.growing.filter fun r => decide (r.g ≤ s.freeBlocks core)).foldl
    (fun best x => match best with
      | none => some x
      | some b => if growBefore x b then some x else some b) none

/-- A thread of a wave that now holds `c` blocks, `g` of them granted to the request of place `q`: the granted ones read as
zero (R35), a thread of that request goes on, and one of another that would pass 31 blocks takes ILLEGAL (R52). -/
def Thread.granted (t : Thread) (c g q : Nat) : Thread :=
  let t := { t with regs := t.regs.filter fun p => decide (p.1 < 8 * (c - g)) }
  match t.run with
  | .parked (.rgrow h x _ d) len =>
    if x = q then t.unpark len d [BitVec.ofNat 32 c]
    else if 31 < c + h then { t with run := .running }.fault .illegal 7 x
    else t
  | _ => t

/-- Grant requests, the oldest that fits first, until none fits (R52). -/
def State.grantBlocks (core : Nat) : Nat → State → State
  | 0, s => s
  | fuel + 1, s =>
    match s.nextGrow core with
    | none => s
    | some r =>
      let c := r.wave.blocks + r.g
      State.grantBlocks core fuel (s.setWave { r.wave with
        blocks := c
        threads := r.wave.threads.map fun t => t.granted c r.g r.seq })

/-- The allocators of the cores with a request grant what fits (R52). -/
def State.grantAll (s : State) : State :=
  ((s.waves.filter fun w => w.growing.length ≠ 0).map fun w => w.core).eraseDups.foldl (fun s c => State.grantBlocks c 64 s) s

/-! ## IVL (R177) -/

/-- Lanes whose blocks a mask names are all held, and at most 8 are named (R46). -/
def intervalOk (blocks : Nat) (a : Word) : Bool :=
  !a.getLsbD 31 && decide (((List.range 31).filter fun i => a.getLsbD i).length ≤ 8) && decide (a.toNat < 2 ^ blocks)

/-- IVL (R177): its faults reach every thread of the group. -/
def execIvl (f : Fields) (s : State) : Host.Outcome State Fault Refusal :=
  execWave (shapeA32 f) f (fun s w lane t => [read32 s w lane t f f.a]) (fun s w _ v =>
    let a := word v 0
    if !intervalOk w.blocks a then .faultAll .illegal 7
    else
      let s := match s.wave? w.id with
        | some w => s.setWave { w with interval := a.extractLsb' 0 31, resident := a = 0 }
        | none => s
      .done s fun _ t => t.advance f.form.len) s

/-! ## Stuck waves (R54, R55) -/

/-- A member takes part in phase `w`, by modular order. -/
def Member.partakes (m : Member) (w : Word) : Bool := decide (0 ≤ (w - m.joined).toInt)

/-- A member has signalled phase `w`. -/
def Member.signalled (m : Member) (w : Word) : Bool := decide (0 < (m.next - w).toInt)

/-- A parked thread is stuck, given the stuck waves (R54). -/
def State.stuckPark (s : State) (core : Nat) (stuck : List Nat) (p : Park) : Bool :=
  let phase (r : PhaserRef) (w : Word) : Bool :=
    let ms := (s.phaser r).members.filter fun m => m.sig && m.partakes w
    ms ≠ [] && (ms.filter fun m => !m.signalled w).all fun m => stuck.contains m.wave
  match p with
  | .rgrow g _ _ _ => decide (s.freeBlocks core + s.drainingBlocks core < g)
  | .phwait r w => phase r w
  | .phnext r w true _ => phase r w
  | _ => false

/-- Every thread of a wave that has not exited is stuck (R54, DEDUCED log 27). -/
def State.stuckWave (s : State) (stuck : List Nat) (w : Wave) : Bool :=
  w.threads.any Thread.live && w.threads.all fun t => !t.live ||
    match t.run with
    | .parked p _ => t.due.isNone && s.stuckPark w.core stuck p
    | _ => false

/-- The least set of stuck waves among a gang's. -/
def State.stuckSet (s : State) (waves : List Wave) : Nat → List Nat → List Nat
  | 0, stuck => stuck
  | fuel + 1, stuck =>
    State.stuckSet s waves fuel ((waves.filter fun w => s.stuckWave stuck w).map fun w => w.id)

/-- The waves of a gang that have not exited. -/
def State.gangWaves (s : State) (gang : Nat) : List Wave :=
  s.waves.filter fun w => w.isUser && !w.exited && ((s.wg? w.wg).map fun g => g.gang) = some gang

/-- The place of a wave in its gang: member index, then WAVE. -/
def State.gangRank (s : State) (w : Wave) : Nat := (((s.wg? w.wg).map fun g => g.member).getD 0) * 32 + w.index

/-- The oldest of a wave's requests. -/
def Wave.firstGrow (w : Wave) : Option GrowReq :=
  w.growing.foldl (fun best x => match best with
    | none => some x
    | some b => if growBefore x b then some x else some b) none

/-- The request of a gang that takes GROW_DEADLOCK, if the gang is wholly stuck (R55). -/
def State.deadlocked (s : State) (gang : Nat) : Option GrowReq :=
  let ws := s.gangWaves gang
  let blocked := ws.filterMap Wave.firstGrow
  if blocked = [] then none
  else
    let stuck := s.stuckSet ws ws.length []
    if ws.all fun w => stuck.contains w.id then
      (blocked.filter fun x => stuck.contains x.wave.id).foldl (fun best x => match best with
        | none => some x
        | some b => if s.gangRank x.wave < s.gangRank b.wave then some x else some b) none
    else none

/-- GROW_DEADLOCK on a request: each thread parked in that RGROW takes it, and the request is withdrawn. -/
def State.growDeadlock (s : State) (r : GrowReq) : State :=
  let w := r.wave
  let eval := BitVec.ofNat 64 (r.g + (s.freeBlocks w.core + s.drainingBlocks w.core) * 2 ^ 16)
  s.setWave { w with threads := w.threads.map fun t =>
    match t.parkNow with
    | some (.rgrow _ q _ _) => if q = r.seq then { t with run := .running }.fault .growDeadlock eval q else t
    | _ => t }

/-- Evaluate R55 for every resident gang: one with no wave in RGROW passes. -/
def State.checkDeadlock (s : State) : State :=
  if s.waves.all fun w => w.growing.isEmpty then s
  else
    s.gangs.foldl (fun s g =>
      if g.saving then s
      else match s.deadlocked g.id with
        | some r => s.growDeadlock r
        | none => s) s

end Sys2Proof.Machine
end

