-- ==== Sys2Proof/Machine/Queues.lean ====
section
/-! DEFINITION. The hardware queues of a partition (R335-R337): fullness, entry numbers and appending a
record. -/

namespace Sys2Proof.Machine

open Sys2Proof

/-- A partition takes part in a running layout change (R412, R413). -/
def State.changing (s : State) (part : Nat) : Bool :=
  match s.system.newLayout with
  | some code => s.dieSet part ≠ dieSetIn code.toNat part
  | none => false

/-- Slots of a queue's ring. -/
def Queue.slots (q : Queue) : Nat := 2 ^ q.depth

/-- Entries from HEAD to TAIL. -/
def Queue.used (q : Queue) : Nat := (q.tail - q.head).toNat

def Queue.full (q : Queue) : Bool := decide (q.slots ≤ q.used)

/-- The queue is busy while TAIL ≠ HEAD (R335). -/
def Queue.busy (q : Queue) : Bool := q.tail ≠ q.head

/-- The physical address of the slot of an entry number. -/
def Queue.slotPa (q : Queue) (number : BitVec 16) : Nat := q.ring.toNat + 256 * (number.toNat % q.slots)

/-- Append a record to a queue (R335): the record into its slot, and TAIL advanced. -/
def State.append (s : State) (part queue : Nat) (data : List Byte) (a : Appended) : State :=
  let q := s.queue part queue
  let s := s.poke 0 (q.slotPa q.tail) data none
  s.setQueue part queue { q with tail := q.tail + 1, appended := q.appended ++ [a] }

/-- The answer of a LAUNCH that queued entry `number` (R178). -/
def launchStatus (number : BitVec 16) : Word := BitVec.ofNat 32 (2 ^ 31 + number.toNat)

end Sys2Proof.Machine
end

