-- ==== Sys2Proof/Machine/CsrRead.lean ====
section
/-! DEFINITION. What the control registers read (R202, R274, R318, R322, R337, R349-R354, R369, R373, R377-R382,
R391-R396, R407, R411, R417-R424, R429, R430), device-register space as it is read (R416), and the bytes that a
physical address reads as. -/

namespace Sys2Proof

/-- A writer at SUPER of another partition than the one given. -/
def Writer.other (w : Writer) (part : Nat) : Bool :=
  match w with
  | .sys => false
  | .super p => p ≠ part

end Sys2Proof

namespace Sys2Proof.Machine

open Sys2Proof

/-! ## Parts of registers -/

/-- A thread that has halted. -/
def Thread.halted (t : Thread) : Bool := match t.run with | .halted _ _ => true | _ => false

/-- The wave is halted: every thread that has not exited has halted (R207). -/
def Wave.halted (w : Wave) : Bool := !w.exited && w.threads.all fun t => !t.live || t.halted

/-- The wave that DBGCTL of a die selects. -/
def State.dbgWave (s : State) (die : Nat) : Option Wave :=
  let d := s.die die
  s.waveAt (32 * die + d.dbgCore) d.dbgSlot

/-- What DBGCTL reads. -/
def State.dbgctl (s : State) (die : Nat) : Word :=
  let d := s.die die
  BitVec.ofNat 32 ((if ((s.dbgWave die).map Wave.halted).getD false then 2 ^ 29 else 0) + d.dbgCore * 2 ^ 8 + d.dbgSlot)

/-- Word `i` of an endpoint entry. -/
def State.endpointWord (s : State) (e i : Nat) : DWord := sget 0 s.endpoints (8 * e + i)

/-- What PGCTL reads (R417) (DEDUCED log 55). -/
def Program.ctl (p : Program) : Word := BitVec.ofNat 32 (p.status * 2 + (p.loaded.length - 1) * 2 ^ 8)

/-- What WCTL reads (R417). -/
def Window.ctl (w : Window) : Word :=
  BitVec.ofNat 32 ((if w.bound then 1 else if w.refused then 2 else 0) + w.reason * 2 ^ 8 + w.late * 2 ^ 16)

/-- A bit as a number. -/
def flag (b : Bool) (i : Nat) : Nat := if b then 2 ^ i else 0

/-- A half of a 64-bit register. -/
def readHalf (v : DWord) (high : Bool) : Word := if high then hiWord v else loWord v

/-- A number of 32 bits. -/
def w32 (n : Nat) : Word := BitVec.ofNat 32 n

/-- ECAUSE of a trap set (R373). -/
def TrapSet.ecause (x : TrapSet) : Word :=
  w32 (flag x.inTrap 31 + x.plev.toNat * 2 ^ 10 + flag x.imp 8 + x.code.toNat)

/-- A register of a trap set by its place in the set (R373). -/
def TrapSet.read (x : TrapSet) (i : Nat) : Word :=
  match i with
  | 2 => loWord x.epc
  | 3 => hiWord x.epc
  | 4 => x.ecause
  | 5 => loWord x.eval
  | 6 => hiWord x.eval
  | _ => word x.esav (i - 7)

/-- A register held by the executing thread. -/
def Thread.csrRead (t : Thread) (n : Nat) : Word :=
  if n < 0x310 then t.super.read (n - 0x300) else t.sys.read (n - 0x310)

/-- Gangs of a queue's entries that are resident or being saved (R337). -/
def State.residents (s : State) (part queue : Nat) : Nat :=
  (s.gangs.filter fun g => ((s.entry? g.entry).map fun e => e.part = part && e.queue = queue).getD false).length

/-- WGSTAT (R377). -/
def Workgroup.stat (g : Workgroup) : Word :=
  w32 (flag g.impOvf 7 + g.reports.length * 16 + flag g.matrixCheck 1 + flag g.scopeMiss 0)

/-- PDSET: the die masks of the partitions (R411). -/
def pdset (code : Nat) : Nat :=
  ((List.range 4).map fun p => ((dieSetIn code p).map fun d => 2 ^ (8 * p + d)).foldl (· + ·) 0).foldl (· + ·) 0

/-- PBOUND: the partition of each die (R411). -/
def pbound (code : Nat) : Nat := ((List.range 8).map fun d => partOfIn code d * 4 ^ d).foldl (· + ·) 0

/-- The layout that PDSET, PBOUND and PRING.JOIN read, by 0 to 2 (R427). -/
def System.layoutSeen (y : System) (k : Nat) : Nat := (if y.shown.getLsbD k then y.newLayout.getD y.layout else y.layout).toNat

/-- The ring of a partition number holds no slot with a tag (R411). -/
def State.ringEmpty (s : State) (p : Nat) : Bool := (s.partition p).ring.slots.all fun x => x.2.tag = 0

/-- TSTAT.OFFSET: the offset as two's complement, saturating (R407). -/
def offsetField (o : Int) : Nat := (max (-127) (min 127 o) + 256).toNat % 256

/-- The key of an item of a core among a die's snapshot registers (R424). -/
def snapKey (core item : Nat) : Nat := if item < 3 then 16 * core + item else 512 + item

/-- SNAPDAT of a die (R424). -/
def Die.snapdat (d : Die) : DWord :=
  let item := bits d.snapsel 0 8
  if 9 < item then 0 else sget 0 d.snap (snapKey (bits d.snapsel 8 5) item)

/-! ## The registers -/

/-- A register of a queue (R337, R369, R382, R429). -/
def State.queueRead (s : State) (part q num : Nat) : Word :=
  let k := s.queue part q
  match num with
  | 0x322 => readHalf k.ctx false ||| w32 (flag k.ctxFull 0)
  | 0x323 => readHalf k.ctx true
  | 0x3E1 =>
    w32 (flag k.en 31 + flag k.ufeed 30 + flag k.npok 29 + k.maxPri * 2 ^ 27 + k.depth * 2 ^ 16 + k.slice.toNat)
  | 0x3E2 => w32 (k.head.toNat * 2 ^ 16 + k.tail.toNat)
  | 0x3E3 => w32 (flag k.busy 31 + s.residents part q % 2 ^ 11)
  | 0x3E5 | 0x3E6 => readHalf k.ring (num = 0x3E6)
  | 0x3E7 | 0x3E8 => readHalf k.done (num = 0x3E8)
  | 0x3EE | 0x3EF => readHalf k.phal (num = 0x3EF)
  | 0x3F0 | 0x3F1 => readHalf k.root (num = 0x3F1)
  | _ => 0

/-- A register of a partition. -/
def State.partRead (s : State) (part num : Nat) : Word :=
  let p := s.partition part
  match num with
  | 0x300 | 0x301 => readHalf p.tvec (num = 0x301)
  | 0x356 | 0x357 => readHalf p.pphal (num = 0x357)
  | 0x3E0 => w32 p.qsel
  | 0x3ED => w32 (p.preqResult * 2 ^ 30)
  | 0x3F2 | 0x3F3 => readHalf p.sroot (num = 0x3F3)
  | _ => s.queueRead part p.qsel num

/-- A package-wide register. -/
def State.packageRead (s : State) (num : Nat) : Word :=
  let y := s.system
  let w := s.power
  match num with
  | 0x310 | 0x311 => readHalf s.tvec (num = 0x311)
  | 0x343 => w32 y.drshare
  | 0x344 => w32 (flag y.lock 31 + y.ref_ % 32 * 2 ^ 24 + offsetField y.offset)
  | 0x350 => w32 (y.parStatus * 2 ^ 28 + (y.newLayout.getD y.layout).toNat)
  | 0x351 => w32 (pdset (y.layoutSeen 0))
  | 0x352 => w32 (pbound (y.layoutSeen 1))
  | 0x353 =>
    w32 (((List.range 4).map fun p => flag (s.ringEmpty p) (28 + p)).foldl (· + ·) 0 + y.layoutSeen 2)
  | 0x354 => (sget 0 s.frames y.fptFrame).zeroExtend 32
  | 0x355 => w32 y.fptFrame
  | 0x358 => w32 (flag y.ready 31 + y.stage * 2 ^ 28 + y.err * 2 ^ 24 + y.pkgid % 32 * 2 ^ 8 + y.dies.toNat)
  | 0x359 => w32 (w.temp % 256 * 2 ^ 24 + w.throt * 2 ^ 16 + 115 * 2 ^ 8)
  | 0x360 => w32 (flag y.snapAt.isSome 31 + flag y.snapPod 1 + flag y.snapExt 0)
  | 0x361 | 0x362 => readHalf y.snapTick (num = 0x362)
  | 0x3E9 => w32 (w.matLimit * 2 ^ 11 + w.matSize)
  | 0x3EA => w32 (w.collSize * 2 ^ 24 + w.drainSize * 2 ^ 16 + w.bulkSize * 2 ^ 8)
  | 0x3EB => w32 w.cap
  | 0x3EC => w32 w.avg
  | _ => 0

/-- A register of a die, or of a core of it. -/
def State.dieRead (s : State) (core num : Nat) : Word :=
  let die := dieOf core
  let d := s.die die
  let c := s.core core
  match num with
  | 0x324 => s.dbgctl die
  | 0x330 => d.mchead
  | 0x331 => w32 d.mcsel
  | 0x33A => d.cecnt
  | 0x340 => w32 (flag d.slBusy 31 + d.slOn.toNat)
  | 0x341 => d.slMap.zeroExtend 32
  | 0x342 => w32 (flag d.rslpEn 31 + d.rslpIdle)
  | 0x363 => d.snapsel
  | 0x364 | 0x365 => readHalf d.snapdat (num = 0x365)
  | 0x3C0 => c.mchkctl
  | 0x3C1 => c.mchkcnt
  | 0x3C2 => c.mchkmis
  | 0x3D0 => d.xrloc
  | 0x3D1 => d.xrrem
  | 0x3D2 => w32 (s.drainingBlocks core * 2 ^ 16 + s.freeBlocks core)
  | 0x3F4 =>
    let busy := (d.walks.filter fun k => k.busy).length
    w32 ((d.walks.length - busy) * 2 ^ 16 + busy)
  | 0x3F5 => d.walkcnt
  | _ => if within 0x332 0x339 num then word (lookD [] d.log d.mcsel) (num - 0x332) else 0

/-- A register as one core of a partition reads it, those held per thread and per workgroup apart. -/
def State.csrRead (s : State) (core part num : Nat) : Word :=
  if packageReg num then s.packageRead num
  else if partReg num then s.partRead part num
  else s.dieRead core num

/-! ## Device-register space (R410, R416, R417) -/

/-- The binding record in the window table (R416): word `i` of 8 bytes. -/
def State.tableWord (s : State) (w at_ : Nat) : DWord := BitVec.ofNat 64 (leNat (sbytes s.wtable (2048 * w + at_) 8))

/-- What 8 bytes of device-register space read, none where the spec assigns nothing there. `wr` is the reader:
at SUPER it reads zero in the entries of another partition. -/
def State.devWord (s : State) (wr : Writer) (x : DevSlot) : Option DWord :=
  let ext (b : Bool) (v : Word) : Option DWord := if b then some (v.zeroExtend 64) else none
  match x with
  | .package n => ext (packageReg n) (s.packageRead n)
  | .part p n => ext (partReg n) (if s.exists_ p then s.partRead p n else 0)
  | .queue p q n => ext (queueReg n) (if s.exists_ p then s.queueRead p q n else 0)
  | .window w at_ =>
    let k := s.window w
    let shut := k.bound && wr.other k.owner
    if at_ < 1344 then some (if shut then 0 else s.tableWord w at_)
    else if at_ = 0x7F8 then some (if shut then 0 else k.ctl.zeroExtend 64)
    else none
  | .endpoint e i =>
    let h := s.endpointWord e 2
    some (if h.getLsbD 40 && wr.other (bits h 48 16) then 0 else s.endpointWord e i)
  | .program g i => some (sget 0 (s.program g).words i)
  | .pgctl g => some ((s.program g).ctl.zeroExtend 64)
  | .none => none

/-- A reader or writer at a level, of a partition. -/
def Writer.ofLevel (level : Level) (part : Nat) : Writer := if level = .sys then .sys else .super part

/-- The bytes of an 8-byte slot of device-register space; free values where nothing is assigned. -/
def State.devBytes (s : State) (wr : Writer) (off draw : Nat) : List Byte :=
  match s.devWord wr (devSlot off) with
  | some v => leBytes 8 v.toNat
  | none => (List.range 8).map fun i => (Config.freeWord (draw + i)).extractLsb' 0 8

/-- A run of bytes of device-register space. -/
def State.devRead (s : State) (wr : Writer) (off n : Nat) : List Byte :=
  ((devSlots off n).flatMap fun o => s.devBytes wr o (s.draws + (o - off / 8 * 8))).drop (off % 8) |>.take n

/-! ## The bytes of a physical address -/

/-- The bytes at a physical address: this package's DRAM, host memory and device registers as they stand, and
free values for what another package holds (DESIGN CHOICE log 11). -/
def State.peekAs (s : State) (wr : Writer) (pa n : Nat) : List Byte :=
  if paPkg pa = s.system.pkgid && (paSpace pa = 0 || paSpace pa = 3) then s.peek pa n
  else if paPkg pa = s.system.pkgid && paSpace pa = 2 then s.devRead wr (paOffset pa) n
  else (List.range n).map fun i => (Config.freeWord (s.draws + i)).extractLsb' 0 8

/-- A read of such bytes, with the free values that it draws. -/
def State.peekAny (s : State) (wr : Writer) (pa n : Nat) : State × List Byte :=
  (if paPkg pa = s.system.pkgid && (paSpace pa = 0 || paSpace pa = 3) then s else { s with draws := s.draws + n + 16 },
    s.peekAs wr pa n)

end Sys2Proof.Machine
end

