-- ==== Sys2Proof/Machine/Fetch.lean ====
section
/-! DEFINITION. Which wave may issue and which of its threads issue together (R25, R346, R347), and the
fetch of their instruction (R140-R142, step 1 of R155). -/

namespace Sys2Proof.Machine

open Sys2Proof

/-! ## Ready waves -/

/-- The gang of a wave is being saved (R346, R381), or restored and not yet granted its tokens (R384). -/
def State.waveSaving (s : State) (w : Wave) : Bool :=
  ((s.wg? w.wg).bind fun g => s.gang? g.gang).any fun g => g.saving || g.owing

/-- A wave may issue, leave tokens apart (R346). -/
def State.waveReady (s : State) (w : Wave) : Bool :=
  w.threads.any Thread.eligible && (w.resident || w.interval = 0) && !s.waveSaving w

/-- Clocks since the last issue, capped at 64 (R347). -/
def State.waveAge (s : State) (w : Wave) : Nat := min 64 (s.clk - w.lastIssue)

/-- Wave `a` is picked before wave `b` (R347). -/
def State.before (s : State) (a b : Wave) : Bool :=
  if a.isUser != b.isUser then !a.isUser
  else if s.waveAge a ≠ s.waveAge b then decide (s.waveAge b < s.waveAge a)
  else if a.id ≠ b.id then decide (a.id < b.id)
  else decide (a.slot < b.slot)

/-- The ready waves of a core that are not yielding, or all of them when each yields (R173, R347). -/
def State.pickable (s : State) (waves : List Wave) : List Wave :=
  let ready := waves.filter s.waveReady
  let fresh := ready.filter fun w => decide (w.yieldUntil ≤ s.clk)
  if fresh = [] then ready else fresh

/-- The wave that a pane picks first (R347). -/
def State.panePick (s : State) (core pane : Nat) : Option Wave :=
  (s.pickable (s.waves.filter fun w => w.core = core && w.slot % 4 = pane)).foldl
    (fun best w => match best with
      | none => some w
      | some b => if s.before w b then some w else some b) none

/-! ## Issue groups (R25) -/

/-- A position is below another: by PC, then by level. -/
def posBelow (a b : DWord × Level) : Bool :=
  decide (a.1.toNat < b.1.toNat) || (a.1 = b.1 && decide (a.2.code < b.2.code))

/-- The eligible lanes of a wave, with their positions and pass counts. -/
def Wave.eligibleLanes (w : Wave) : List (Nat × (DWord × Level) × Nat) :=
  ((List.range w.threads.length).zip w.threads).filterMap fun p =>
    if p.2.eligible then some (p.1, (p.2.pc, p.2.level), p.2.pass) else none

/-- The lowest of some positions. -/
def lowestPos : List (DWord × Level) → Option (DWord × Level)
  | [] => none
  | p :: ps => some (ps.foldl (fun a b => if posBelow b a then b else a) p)

/-- The position that the packer chooses, as R25's pseudocode has it: with many positions at count 64 at once a thread may wait
longer than the 65 issues of R26 (DEDUCED log 84). -/
def packPosition (ls : List (Nat × (DWord × Level) × Nat)) : Option (DWord × Level) :=
  match lowestPos ((ls.filter fun l => decide (64 ≤ l.2.2)).map fun l => l.2.1) with
  | some p => some p
  | none =>
    let count (p : DWord × Level) : Nat := (ls.filter fun l => l.2.1 = p).length
    let most := ls.foldl (fun m l => max m (count l.2.1)) 0
    lowestPos ((ls.map fun l => l.2.1).filter fun p => count p = most)

/-- The issue group's lanes. -/
def packGroup (ls : List (Nat × (DWord × Level) × Nat)) : List Nat :=
  match packPosition ls with
  | some p => (ls.filter fun l => l.2.1 = p).map fun l => l.1
  | none => []

/-- The pass counts after an issue of a group. -/
def Wave.passed (w : Wave) (group : List Nat) : Wave :=
  { w with threads := ((List.range w.threads.length).zip w.threads).map fun p =>
      if group.contains p.1 then { p.2 with pass := 0 }
      else if p.2.eligible then { p.2 with pass := p.2.pass + 1 }
      else p.2 }

/-! ## Fetch -/

/-- The outcome of a fetch. -/
inductive Fetched where
  | ok (i : Instr)
  | pad
  | miss
  | fault (c : Cause)
  /-- The word is poisoned, at its physical address (R362, DEDUCED log 25). -/
  | poison (pa : Nat)
  deriving DecidableEq, Repr

/-- Instruction bytes at a physical address: those in memory or, where the core's instruction cache holds their block, by
choice those (R7, R142, DEDUCED log 77). A fetch does not cross a block. -/
def State.fetchBytes (s : State) (core : Nat) (writer : Writer) (pa n : Nat) : List Byte :=
  let now := s.peekAs writer pa n
  match look (s.core core).code (pa / 32) with
  | some block =>
    let old := (block.drop (pa % 32)).take n
    if old = now then now else if Config.coin s.draws then old else now
  | none => now

/-- The block of an instruction that is fetched enters the core's instruction cache. -/
def State.cacheCode (s : State) (core pa : Nat) : State :=
  let c := s.core core
  if paSpace pa = 2 || (look c.code (pa / 32)).isSome then s
  else s.setCore core { c with code := put c.code (pa / 32) (s.peek (pa / 32 * 32) 32) }

/-- What stands at an address that the core's and die's TLBs translate (R141, R142). -/
def State.fetchAt (s : State) (w : Wave) (level : Level) (pc : DWord) : Fetched :=
  if bits pc 0 2 ≠ 0 then .fault .illFetch
  else
    match s.lookupVa w.core (rootTag (s.rootOfWave w)) level .x pc with
    | .miss => .miss
    | .fault c => .fault c
    | .psn pa | .table pa => .poison pa
    | .ok pa _ =>
      let room := 32 - bits pc 0 5
      let part := s.partOfWave w
      let bytes := s.fetchBytes w.core (Writer.ofLevel level part) pa (min 16 room)
      if paSpace pa = 1 || !s.devOpen level part pa (min 16 room) then .fault .permission
      else if poisonedIn s.poison pa 4 then .poison pa
      else
        match decode bytes with
        | .ok i _ | .bad i _ _ => .ok i
        | .pad => .pad
        | .truncated => .fault .illFetch

/-- The instruction at which a thread stands is fetched. -/
def State.cacheFetch (s : State) (w : Wave) (t : Thread) : State :=
  match s.lookupVa w.core (rootTag (s.rootOfWave w)) t.level .x t.pc with
  | .ok pa _ => s.cacheCode w.core pa
  | _ => s

/-- PAD32 words from an address on are stepped over (R140). -/
def State.skipPads (s : State) (w : Wave) (level : Level) : Nat → DWord → DWord
  | 0, pc => pc
  | fuel + 1, pc =>
    match s.fetchAt w level pc with
    | .pad => State.skipPads s w level fuel (pc + 4)
    | _ => pc

/-- The eligible threads of a wave past PAD32 words. -/
def State.padded (s : State) (w : Wave) : Wave :=
  { w with threads := w.threads.map fun t => if t.eligible then { t with pc := s.skipPads w t.level 8 t.pc } else t }

/-- The level and PC of the first of some lanes. -/
def Wave.firstThread (w : Wave) (lanes : List Nat) : Option Thread := lanes.head?.bind fun l => w.threads[l]?

/-- An issue group is formed for a wave and its instruction fetched. The instruction is none where the
group waits for a translation, stands at PAD32 words, or faults in the fetch. -/
def State.formGroup (s : State) (w0 : Wave) : State × Option (Instr × List Nat) :=
  let w := s.padded w0
  let lanes := packGroup w.eligibleLanes
  match w.firstThread lanes with
  | none => (s, none)
  | some t =>
    let issued (w : Wave) : Wave := { w.passed lanes with lastIssue := s.clk }
    match s.fetchAt w t.level t.pc with
    | .ok i => ({ (s.setWave (issued w)).cacheFetch w t with draws := s.draws + 16 }, some (i, lanes))
    | .pad => (s.setWave w, none)
    | .miss =>
      let s := s.setWave w
      (lanes.foldl (fun s lane =>
        match (s.thread? w.id lane) with
        | some t => (s.translate w lane t .x t.pc).1
        | none => s) s, none)
    | .fault c => (faultLanes (s.setWave (issued w)) w.id lanes c t.pc (w.seq + 1), none)
    | .poison pa =>
      let s := (s.setWave (issued w)).logCheck (dieOf w.core) w.core 1 0 0 0 pa
      (faultLanes s w.id lanes .poison (t.pc &&& ~~~31#64) (w.seq + 1), none)

end Sys2Proof.Machine
end

