-- ==== Sys2Proof/Machine/MemOps.lean ====
section
/-! DEFINITION. The memory instructions (R212-R221): vault and global loads and stores, atomics and
reductions, FENCE, PREF and the declared buffers. -/

namespace Sys2Proof.Machine

open Sys2Proof

/-- The size of a vault width code (R212), which is also that of a global one (R214). -/
def widthBytes (code : Nat) : Nat := 2 ^ code

/-- The data of a store: the low `size` bytes of its words. -/
def storeData (ws : List Word) (size : Nat) : List Byte := (bytesOf ws).take size

/-! ## Vault (R213) -/

/-- LDV (R213). -/
def execLdv (f : Fields) (s : State) : Host.Outcome State Fault Refusal :=
  execEach (shapeLdv f) f (fun s w lane t =>
    let size := widthBytes (bits f.m 0 3)
    let addr := read32 s w lane t f f.a + read32 s w lane t f f.b
    if t.acquiring || t.pendFull then .hold s
    else
      match s.vaultAt w addr size size with
      | .error (c, e) => .fault c e
      | .ok (g, off) =>
        if !(g.touched off size).all Buffer.loads then .fault .vaultState (addr.zeroExtend 64)
        else
          match poisonSeen g.poison off size (vaultStores g.id (s.ownWrites w lane w.seq)) with
          | some a => .poison (BitVec.ofNat 64 (g.member * 2 ^ 30 + a / 32 * 32)) (a / 32 * 32)
          | none =>
            .done s.fresh ((t.pend s.nextId w.seq f.la.toNat (vaultWords (bits f.m 0 3)) f.d.reg (.vault g.id off size) none).advance
              f.form.len)) s

/-- STV (R213). -/
def execStv (f : Fields) (s : State) : Host.Outcome State Fault Refusal :=
  execEach (shapeStv f) f (fun s w lane t =>
    let size := widthBytes (bits f.m 0 3)
    let addr := read32 s w lane t f f.a + read32 s w lane t f f.c
    if t.acquiring then .hold s
    else
      match s.vaultAt w addr size size with
      | .error (c, e) => .fault c e
      | .ok (g, off) =>
        if !(g.touched off size).all Buffer.stores then .fault .vaultState (addr.zeroExtend 64)
        else
          let data := storeData (readWords s w lane t f f.b (vaultWords (bits f.m 0 3))) size
          .done (s.enqueue w lane none none (.vault g.id off data)) (t.advance f.form.len)) s

/-! ## Global memory (R215) -/

/-- A thread's translation, with the fault, wait or poison it meets. -/
def withPa (s : State) (w : Wave) (lane : Nat) (t : Thread) (n : Need) (va : DWord)
    (k : State → Nat → DWord → TRes) : TRes :=
  match s.translate w lane t n va with
  | (s, .ok pa leaf) => k s pa leaf
  | (s, .miss) => .hold (s.modThread w.id lane fun u => { u with missAt := some t.pc })
  | (_, .fault c) => .fault c va
  | (_, .psn pa) | (_, .table pa) => .poison (granuleVa va) pa

/-- A global load of `size` bytes into `n` words (R215). -/
def globalLoad (f : Fields) (size n : Nat) (s : State) (w : Wave) (lane : Nat) (t : Thread) : TRes :=
  let va := read64 s w lane t f f.a + (read32 s w lane t f f.b).signExtend 64
  if va.toNat % size ≠ 0 then .fault .illegal 7
  else if t.acquiring || t.pendFull then .hold s
  else
    withPa s w lane t .r va fun s pa leaf =>
      if paSpace pa = 1 || !s.devOpen t.level (s.partOfWave w) pa size then .fault .permission va
      else
        let route := Route.ofCode (bits f.m 2 2)
        let acc : Access :=
          .global pa size va route (bit f.m 4 || pteDr leaf || decide (paSpace pa ≠ 0)) (Scope.ofCode (bits f.m 5 3))
            (s.viaOf w va)
        match if s.ownAtomic w lane w.seq pa size then none
          else poisonSeen s.poison pa size (globalStores (s.ownWrites w lane w.seq)) with
        | some a => .poison (granuleVa (va + BitVec.ofNat 64 (a - pa))) a
        | none =>
          let t := (t.pend s.nextId w.seq f.la.toNat n f.d.reg acc none).advance f.form.len
          if acc.readsDirect then .done (s.fresh.launchDirect w lane (s.viaOf w va) (.load pa size route s.nextId)) t
          else .done (s.fresh.fetchFor w acc) t

/-- LD (R215). -/
def execLd (f : Fields) (s : State) : Host.Outcome State Fault Refusal :=
  execEach (shapeLd f) f (globalLoad f (widthBytes (bits f.m 0 2)) (vaultWords (bits f.m 0 2))) s

/-- LDL (R215). -/
def execLdl (f : Fields) (s : State) : Host.Outcome State Fault Refusal :=
  execEach (shapeLdl f) f (globalLoad f (16 * 2 ^ bits f.m 0 2) (4 * 2 ^ bits f.m 0 2)) s

/-- The classes of a release store: its own and those of M[9:8] (R214). -/
def storeMask (m : BitVec 10) : BitVec 3 :=
  let own := bits m 2 2
  (1#3 <<< own) ||| (if bit m 8 then 1#3 <<< ((own + 1) % 3) else 0) ||| (if bit m 9 then 1#3 <<< ((own + 2) % 3) else 0)

/-- ST (R215). -/
def execSt (f : Fields) (s : State) : Host.Outcome State Fault Refusal :=
  execEach (shapeSt f) f (fun s w lane t =>
    let size := widthBytes (bits f.m 0 2)
    let va := read64 s w lane t f f.a + (read32 s w lane t f f.c).signExtend 64
    let data := storeData (readWords s w lane t f f.b (vaultWords (bits f.m 0 2))) size
    if va.toNat % size ≠ 0 then .fault .illegal 7
    else if t.acquiring then .hold s
    else
      withPa s w lane t .w va fun s pa leaf =>
        let route := Route.ofCode (bits f.m 2 2)
        let rel := (Scope.ofCode (bits f.m 5 3)).map fun sc => { scope := sc, mask := storeMask f.m : RelMark }
        let t := t.advance f.form.len
        if !s.windowOpen w.core pa || !s.devOpen t.level (s.partOfWave w) pa size then .fault .permission va
        else
          let direct := bit f.m 4 || pteDr leaf || decide (paSpace pa ≠ 0)
          .done (s.enqueue w lane rel (s.viaOf w va) (.store pa data route direct)) t) s

/-! ## Atomics and reductions (R217) -/

/-- The request of an atomic or reduction (R206, R216). -/
def svcRequest (s : State) (w : Wave) (lane : Nat) (f : Fields) (ret : Bool) (pa : Nat) (va operand compare : DWord) :
    SvcReq :=
  let op := bits f.m 0 4
  { id := s.nextId, ret := ret, signed := op = 1 || op = 2, wide := bit f.m 4,
    op := if op = 10 then 1 else if op = 11 then 2 else op, pa := pa, va := va, operand := operand, compare := compare,
    core := w.core, wave := w.id, lane := lane, seq := w.seq, route := Route.ofCode (bits f.m 5 2),
    scope := Scope.ofCode (bits f.m 7 3), via := s.viaOf w va, reply := none }

/-- An operand of 32 or 64 bits. -/
def readWide (s : State) (w : Wave) (lane : Nat) (t : Thread) (f : Fields) (o : Src) : DWord :=
  if bit f.m 4 then read64 s w lane t f o else (read32 s w lane t f o).zeroExtend 64

/-- The address of an atomic or a reduction, checked (R100, R104, R217, DEDUCED log 26). A reduction through a leaf of a poisoned
frame is dropped and logged (R104, R362). -/
def atomicAt (f : Fields) (red : Bool) (s : State) (w : Wave) (lane : Nat) (t : Thread) (k : State → Nat → DWord → TRes) : TRes :=
  let size := if bit f.m 4 then 8 else 4
  let va := read64 s w lane t f f.a
  if va.toNat % size ≠ 0 then .fault .illegal 7
  else if t.acquiring then .hold s
  else
    match red, s.translate w lane t .rw va with
    | true, (s, .psn pa) =>
      if paSpace pa ≠ 0 then .fault .permission va
      else .done (s.logCheck (s.logDie w.core pa) w.core 4 0 0 0 pa) (t.advance f.form.len)
    | _, _ =>
      withPa s w lane t .rw va fun s pa _ =>
        if paSpace pa ≠ 0 then .fault .permission va else k s pa va

/-- The release mark of an atomic or reduction: its own class only (R216). -/
def atomicMark (f : Fields) : Option RelMark :=
  (Scope.ofCode (bits f.m 7 3)).map fun sc => { scope := sc, mask := 1#3 <<< bits f.m 5 2 }

/-- ATOM (R217). -/
def execAtom (f : Fields) (s : State) : Host.Outcome State Fault Refusal :=
  execEach (shapeAtom f) f (fun s w lane t =>
    atomicAt f false s w lane t fun s pa va =>
      if t.pendFull then .hold s
      else
        match if s.ownAtomic w lane w.seq pa 4 then none
          else poisonSeen s.poison pa 4 (globalStores (s.ownWrites w lane w.seq)) with
        | some a => .poison (granuleVa va) a
        | none =>
          let r := svcRequest s w lane f true pa va (readWide s w lane t f f.b) (readWide s w lane t f f.c)
          let t := t.pend s.nextId w.seq f.la.toNat (if bit f.m 4 then 2 else 1) f.d.reg (.atomic va r.scope.isSome) none
          .done (s.fresh.enqueue w lane (atomicMark f) r.via (.svc r r.route)) (t.advance f.form.len)) s

/-- RED (R217). -/
def execRed (f : Fields) (s : State) : Host.Outcome State Fault Refusal :=
  execEach (shapeRed f) f (fun s w lane t =>
    atomicAt f true s w lane t fun s pa va =>
      let r := svcRequest s w lane f false pa va (readWide s w lane t f f.b) 0
      .done (s.fresh.enqueue w lane (atomicMark f) r.via (.svc r r.route)) (t.advance f.form.len)) s

/-! ## Fences and prefetch -/

/-- A thread's earlier reads are all performed (R120). -/
def Thread.readsPerformed (t : Thread) : Bool :=
  t.pending.all fun p => p.value.isSome || match p.access with
    | .vault _ _ _ | .global _ _ _ _ _ _ _ | .atomic _ _ => false
    | _ => true

/-- The scope of a FENCE. -/
def fenceScope (f : Fields) : Scope := (Scope.ofCode (bits f.m 2 3)).getD .sys

/-- FENCE (R218): the thread waits at it until its conditions are met. -/
def execFence (f : Fields) (s : State) : Host.Outcome State Fault Refusal :=
  execEach (shapeFence f) f (fun s w lane t =>
    let kind := bits f.m 0 2
    let rel := kind = 2 || s.released w.id lane w.seq (fenceScope f) (BitVec.ofNat 3 (bits f.m 5 3))
    let acq := kind = 1 || t.readsPerformed
    if rel && acq then .done s (t.advance f.form.len) else .hold s) s

/-- What a prefetch through a leaf does: its line comes to an LLC, with nothing counted that a program reads (R219). One
that names a window or host memory, or that PERMISSION or poison would meet, does nothing. -/
def State.prefetch (s : State) (core : Nat) (r : Tr) (cls : Route) (dr : Bool) : State :=
  match r with
  | .ok pa leaf =>
    let dr := dr || pteDr leaf
    if s.ownDram pa then s.placeLine (if dr then s.home pa else dieOf core) pa cls false
    else if s.peerDram pa && !dr then s.askLine (dieOf core) core pa cls false
    else s
  | _ => s

/-- PREF (R219): it fills a line, after a walk where it misses its TLBs (R365), or does nothing (DEDUCED log 43). -/
def execPref (f : Fields) (s : State) : Host.Outcome State Fault Refusal :=
  execEach (shapePref f) f (fun s w lane t =>
    let va := read64 s w lane t f f.a + (read32 s w lane t f f.b).signExtend 64
    let u := t.advance f.form.len
    let cls := Route.ofCode (bits f.m 2 2)
    let tag := rootTag (s.rootOfWave w)
    match s.lookupVa w.core tag t.level .r va with
    | .miss =>
      if t.acquiring || !s.walkRoom (dieOf w.core) tag va then .hold s
      else
        .done (s.requestWalk tag (s.rootOfWave w)
          { core := w.core, wave := w.id, lane := lane, pc := t.pc, va := va, fill := some (cls, bit f.m 4, t.level) }) u
    | r => .done (s.prefetch w.core r cls (bit f.m 4)) u) s

/-! ## Declared buffers (R87, R88, R92, R221) -/

/-- EVAL of VAULT_STATE for BUFDECL and BUFSET (R374). -/
def bufferEval (n : Nat) : DWord := BitVec.ofNat 64 (2 ^ 63 + n)

/-- A declared buffer may be declared anew or undeclared (R88). -/
def State.mayRedeclare (s : State) (g : Workgroup) (b : Buffer) : Bool :=
  if b.latch then !s.latchWaited g.id b.base b.len && !s.latchAimed g.id b.base b.len else b.state = .empty

/-- A vault whose bytes of a range read as zero. -/
def Workgroup.zeroed (g : Workgroup) (off len : Nat) : Workgroup :=
  { g with
    vault := g.vault.filter fun p => !decide (off ≤ p.1 ∧ p.1 < off + len)
    poison := clearPoison g.poison off len }

/-- BUFDECL (R87, R88). -/
def execBufdecl (f : Fields) (s : State) : Host.Outcome State Fault Refusal :=
  execEach (shapeBufdecl f) f (fun s w lane t =>
    let n := (read32 s w lane t f f.a).toNat
    let addr := read32 s w lane t f f.b
    let base := addr.toNat
    let len := (read32 s w lane t f f.c).toNat
    let latch := bit f.m 0
    if 63 < n || base % 32 ≠ 0 || len % 32 ≠ 0 then .fault .illegal 7
    else
      match s.ownGroup w with
      | none => .fault .vaultBounds (addr.zeroExtend 64)
      | some g =>
        if len ≠ 0 && g.vaultSize < base + len then .fault .vaultBounds (addr.zeroExtend 64)
        else if len ≠ 0 && (drop g.buffers n).any fun p => meets base len p.2.base p.2.len then .fault .vaultBounds (addr.zeroExtend 64)
        else if !((look g.buffers n).map (s.mayRedeclare g)).getD true then .fault .vaultState (bufferEval n)
        else if len = 0 then .done (s.setWg { g with buffers := drop g.buffers n }) (t.advance f.form.len)
        else if s.loadsOut g.id base len || (latch && s.storesOut g.id base len) then .hold s
        else
          let b : Buffer := { base := base, len := len, latch := latch, state := .empty, fill := 0, drains := 0 }
          let g := if latch then g.zeroed base len else g
          .done (s.setWg { g with buffers := put g.buffers n b }) (t.advance f.form.len)) s

/-- BUFSET (R92). -/
def execBufset (f : Fields) (s : State) : Host.Outcome State Fault Refusal :=
  execEach (shapeBufset f) f (fun s w lane t =>
    let n := (read32 s w lane t f f.a).toNat
    let full := bit f.m 0
    if 63 < n then .fault .illegal 7
    else
      match (s.ownGroup w).bind fun g => (look g.buffers n).map fun b => (g, b) with
      | none => .fault .vaultState (bufferEval n)
      | some (g, b) =>
        let t := t.advance f.form.len
        if b.latch then .fault .vaultState (bufferEval n)
        else if b.state = (if full then .full else .empty) then .done s t
        else if full && b.state = .empty then .done (s.setWg { g with buffers := put g.buffers n { b with state := .full } }) t
        else if !full && b.state = .full then
          if s.loadsOut g.id b.base b.len then .hold s
          else
            let g := { g with
              buffers := put g.buffers n { b with state := .empty }
              vault := swrite g.vault b.base (openBytes s.draws (sbytes g.vault b.base b.len)) }
            .done { s.setWg g with draws := s.draws + b.len } t
        else .fault .vaultState (bufferEval n)) s

/-- What BUFQ `.B` reads (R221). -/
def bufferStatus (b : Option Buffer) : List Word :=
  match b with
  | none => [0, 0]
  | some b =>
    let code : Nat := match b.state with | .empty => 0 | .filling => 1 | .full => 2 | .draining => 3
    [BitVec.ofNat 32 ((if b.latch then 4 else code) + 8), if b.state = .filling then BitVec.ofNat 32 b.fill else 0]

/-- BUFQ (R221). -/
def execBufq (f : Fields) (s : State) : Host.Outcome State Fault Refusal :=
  execEach (shapeBufq f) f (fun s w lane t =>
    let a := read32 s w lane t f f.a
    let pend (acc : Access) : TRes :=
      if t.pendFull then .hold s
      else .done s.fresh ((t.pend s.nextId w.seq f.la.toNat 2 f.d.reg acc none).advance f.form.len)
    if bit f.m 0 then
      match s.latchAt w a with
      | .error (c, e) => .fault c e
      | .ok l => if t.acquiring then .hold s else pend (.bufqL l)
    else if 63 < a.toNat then .fault .illegal 7
    else
      match s.ownGroup w with
      | none => .fault .vaultBounds 0
      | some _ => pend (.bufqB a.toNat)) s

end Sys2Proof.Machine
end

