-- ==== Sys2Proof/Machine/Control.lean ====
section
/-! DEFINITION. The control instructions (R170-R180). -/

namespace Sys2Proof.Machine

open Sys2Proof

/-- NOP (R170). -/
def execNop (f : Fields) (s : State) : Host.Outcome State Fault Refusal :=
  execPure (shapeBare f) f (fun _ _ _ t => t) s

/-! ## Transfers (R171) -/

/-- The fault of a transfer's target (R141, R171). -/
def targetFault (va : DWord) : Option (Cause × DWord) :=
  if bits va 0 2 ≠ 0 then some (.illFetch, va)
  else if !canonicalVa va then some (.translation, va)
  else none

/-- A transfer to a target that each thread computes, with the words that it pushes and writes. -/
def transfer (sh : Shape) (f : Fields) (target : State → Wave → Nat → Thread → DWord) (link : Bool) (s : State) :
    Host.Outcome State Fault Refusal :=
  execEach sh f (fun s w lane t =>
    let va := target s w lane t
    match targetFault va with
    | some (c, e) => .fault c e
    | none =>
      let back := t.pc + BitVec.ofNat 64 f.form.len
      let t := if link then t.result f.d.reg [loWord back, hiWord back] else t
      .done s { t with pc := va }) s

/-- A target relative to the instruction. -/
def relativeTarget (f : Fields) (t : Thread) : DWord := t.pc + f.imm.signExtend 64

/-- BRA (R171). -/
def execBra (f : Fields) (s : State) : Host.Outcome State Fault Refusal :=
  transfer (shapeBra f) f (fun _ _ _ t => relativeTarget f t) false s

/-- BRX (R171). -/
def execBrx (f : Fields) (s : State) : Host.Outcome State Fault Refusal :=
  transfer (shapeA64 f) f (fun s w lane t => read64 s w lane t f f.a) false s

/-- CALL (R171). -/
def execCall (f : Fields) (s : State) : Host.Outcome State Fault Refusal :=
  transfer (shapeCall f) f (fun _ _ _ t => relativeTarget f t) true s

/-- CALLX (R171). -/
def execCallx (f : Fields) (s : State) : Host.Outcome State Fault Refusal :=
  transfer (shapeCallx f) f (fun s w lane t => read64 s w lane t f f.a) true s

/-- RET (R171). -/
def execRet (f : Fields) (s : State) : Host.Outcome State Fault Refusal :=
  transfer (shapeA64 f) f (fun s w lane t => read64 s w lane t f f.a) false s

/-! ## Ends and pauses -/


/-- YIELD (R173): not in the next 4 clk. -/
def execYield (f : Fields) (s : State) : Host.Outcome State Fault Refusal :=
  execEach (shapeBare f) f (fun s w _ t =>
    .done { s with waves := s.waves.map fun x => if x.id = w.id then { x with yieldUntil := s.clk + 5 } else x }
      (t.advance f.form.len)) s

/-- A sleep until a deadline; one that has passed ends it at once (R174). -/
def Thread.sleepUntil (t : Thread) (s : State) (deadline : Nat) (f : Fields) : Thread :=
  if deadline ≤ s.pcc.toNat then t.advance f.form.len else t.park (.sleep deadline) f

/-- SLEEP (R174). -/
def execSleep (f : Fields) (s : State) : Host.Outcome State Fault Refusal :=
  execEach (shapeA32 f) f (fun s w lane t =>
    .done s (t.sleepUntil s (s.pcc.toNat + (read32 s w lane t f f.a).toNat) f)) s

/-- SLEEPTO (R174). -/
def execSleepto (f : Fields) (s : State) : Host.Outcome State Fault Refusal :=
  execEach (shapeA64 f) f (fun s w lane t => .done s (t.sleepUntil s (read64 s w lane t f f.a).toNat f)) s

/-! ## Traps by instruction (R175) -/

/-- The fault of a TRAP at a level, or none where it traps. -/
def trapFault (level : Level) (toSys : Bool) : Option Cause :=
  match level, toSys with
  | .user, true => some .priv
  | .user, false => none
  | .super, true => none
  | _, _ => some .illegal

/-- TRAP (R175). -/
def execTrap (f : Fields) (s : State) : Host.Outcome State Fault Refusal :=
  execEach (shapeTrap f) f (fun s w lane t =>
    match trapFault t.level (bit f.m 0) with
    | some c => .fault c (if c = .illegal then 7 else 0)
    | none =>
      .done s (t.raise { cause := .trap, epc := t.pc + BitVec.ofNat 64 f.form.len,
                         eval := (read32 s w lane t f f.a).zeroExtend 64, imp := false, toSys := bit f.m 0, seq := w.seq })) s

/-- A thread halts with a code; it resumes past its instruction (R207, R378). -/
def Thread.halt (t : Thread) (code : Word) (f : Fields) : Thread :=
  { t with run := .halted code (t.pc + BitVec.ofNat 64 f.form.len) }

/-- The debug-halt enable of a wave (R175, R377). -/
def State.debugHalt (s : State) (w : Wave) : Bool :=
  w.isUser && ((s.wg? w.wg).map fun g => g.dbgHalt).getD false

/-- BKPT (R175). -/
def execBkpt (f : Fields) (s : State) : Host.Outcome State Fault Refusal :=
  execEach (shapeA32 f) f (fun s w lane t =>
    let code := read32 s w lane t f f.a
    if s.debugHalt w then .done s (t.halt code f)
    else .done s (t.raise { cause := .bkpt, epc := t.pc, eval := code.zeroExtend 64, imp := false, toSys := false, seq := w.seq })) s

/-! ## WSYNC (R176) -/

/-- WSYNC (R176). -/
def execWsync (f : Fields) (s : State) : Host.Outcome State Fault Refusal :=
  execEach (shapeA32 f) f (fun s w lane t =>
    let mask := read32 s w lane t f f.a
    if !mask.getLsbD lane then .fault .illegal 7 else .done s (t.park (.wsync mask) f)) s

/-- The WSYNC mask of a thread parked at one. -/
def Thread.wsyncMask (t : Thread) : Option Word :=
  match t.parkNow with
  | some (.wsync m) => some m
  | _ => none

/-- The effect on a wave of the WSYNC in one lane (R176). -/
def Wave.wsyncLane (w : Wave) (lane : Nat) : Wave :=
  match (w.threads[lane]?).bind fun t => t.wsyncMask.map fun m => (t.pc, m) with
  | none => w
  | some (pc, m) =>
    let inS (p : Nat × Thread) : Bool := m.getLsbD p.1 && p.2.live
    let ts := (List.range w.threads.length).zip w.threads
    if !(ts.filter inS).all fun p => p.2.wsyncMask.isSome then w
    else
      let same := (ts.filter inS).all fun p => p.2.pc = pc && p.2.wsyncMask = some m
      { w with threads := ts.map fun p =>
          if !inS p then p.2
          else
            match p.2.run with
            | .parked _ len =>
              if same then { p.2 with run := .running }.advance len
              else { p.2 with run := .running }.illegal 7 w.seq
            | _ => p.2 }

/-- The WSYNCs of a wave whose conditions hold. -/
def Wave.wsyncs (w : Wave) : Wave :=
  if w.threads.any fun t => t.wsyncMask.isSome then (List.range w.threads.length).foldl Wave.wsyncLane w else w

/-! ## LAUNCH (R178) -/

/-- The not-before time of F128 (R178, R179). -/
def notBefore (s : State) (w : Wave) (lane : Nat) (t : Thread) (f : Fields) : Option DWord :=
  if f.form = .f128 then some (read64 s w lane t f f.e) else none

/-- The place of a thread in the order of a clk's LAUNCHes: die, core, slot, lane (R336). -/
def launchPlace (w : Wave) (lane : Nat) : Nat := (w.core * 64 + w.slot) * 32 + lane

/-- A LAUNCH may append in this clk: none of a thread that stands behind its own has, to that queue (R336). -/
def State.launchTurn (s : State) (part q : Nat) (w : Wave) (lane : Nat) : Bool :=
  s.launched.all fun x => x.part ≠ part || x.queue ≠ q || decide (x.place ≤ launchPlace w lane)

/-- LAUNCH (R178, R336). -/
def execLaunch (f : Fields) (s : State) : Host.Outcome State Fault Refusal :=
  execEach (shapeLaunch f) f (fun s w lane t =>
    let va := read64 s w lane t f f.a
    let q := (read32 s w lane t f f.b).toNat
    let part := s.partOfWave w
    let nb := notBefore s w lane t f
    if va.toNat % 256 ≠ 0 then .fault .illegal 7
    else if 63 < q || (t.level = .user && !(s.queue part q).ufeed) then .fault .permission 0
    else if t.acquiring then .hold s
    else
      withPa s w lane t .r va fun s pa _ =>
        if paSpace pa = 1 || !s.devOpen t.level part pa 256 then .fault .permission va
        else if !s.released w.id lane w.seq .pkg allClasses || !s.launchTurn part q w lane then .hold s
        else
          match poisonSeen s.poison pa 256 [] with
          | some a => .poison (granuleVa (va + BitVec.ofNat 64 (a - pa))) a
          | none =>
            let k := s.queue part q
            if !k.ufeed || !k.en || k.full || s.changing part then .done s ((t.result f.d.reg [0]).advance f.form.len)
            else
              let (s, data) := s.peekAny (Writer.ofLevel t.level part) pa 256
              let s := if s.ownDram pa then s.readDone pa 256 else s
              let launcher := if w.isUser then some w.wg else none
              let s : State := { s with launched := s.launched ++ [{ part := part, queue := q, place := launchPlace w lane, d := f.d.reg, pc := (t.advance f.form.len).pc }] }
              .done (s.append part q data { level := .user, launcher := launcher, notBefore := nb, latchLast := none, killed := false })
                ((t.result f.d.reg [launchStatus k.tail]).advance f.form.len)) s

/-! ## AMSEND (R179) -/

/-- The receiving core and package of AMSEND, if it may name them. -/
def State.messageTarget (s : State) (w : Wave) (a : Word) : Option (Nat × Nat) :=
  let core := bits a 0 5
  let die := bits a 5 3
  let pkg := bits a 8 5
  let part := s.partOfWave w
  if bits a 13 19 ≠ 0 then none
  else if pkg = s.system.pkgid then
    if (s.dieSet part).contains die then some (pkg, 32 * die + core) else none
  else if ((s.partition part).job.map fun j => j.packages.contains pkg).getD false then some (pkg, 32 * die + core)
  else none

/-- The words of AMSEND's payload, from any named register on. -/
def payloadWords (t : Thread) (o : Src) (n : Nat) : List Word := readRun t o n

/-- AMSEND (R179). -/
def execAmsend (f : Fields) (s : State) : Host.Outcome State Fault Refusal :=
  execEach (shapeAmsend f) f (fun s w lane t =>
    match w.kind with
    | .handler _ _ => .fault .illegal 7
    | _ =>
      match s.messageTarget w (read32 s w lane t f f.a) with
      | none => .fault .permission 0
      | some (pkg, core) =>
        if t.acquiring then .hold s
        else
          let route := Route.ofCode (bits f.m 0 2)
          let entry := (s.entryOfWave w).map fun e => e.id
          let own := decide (pkg = s.system.pkgid)
          let msg : Message :=
            { id := s.nextId, pkg := pkg, core := core, handler := read64 s w lane t f f.b,
              payload := payloadWords t f.c (bits f.m 3 6 + 1), notBefore := notBefore s w lane t f,
              entry := entry, srcPkg := s.system.pkgid, part := s.partOfWave w, wave := w.id, lane := lane }
          let rel : Option RelMark := if bit f.m 2 then some { scope := .pkg, mask := 1#3 <<< route.code } else none
          let s := match entry with
            | some e => if own then s.modEntry e fun e => { e with messages := e.messages + 1 } else s
            | none => s
          .done (s.fresh.enqueue w lane rel none (.message msg route)) (t.advance f.form.len)) s

/-! ## The unassigned opcode -/

/-- ILL_OPC (R153). -/
def execIllOpc (_opc : BitVec 8) (_f : Fields) (s : State) : Host.Outcome State Fault Refusal :=
  withGroup s fun s w lanes => faultLanes s w.id lanes .illOpc 0 w.seq

end Sys2Proof.Machine
end

