-- ==== Sys2Proof/Machine/Outgoing.lean ====
section
/-! DEFINITION. Engine reads and writes of global memory (R99, R104, R105, R125, R130), and their paths. -/

namespace Sys2Proof.Machine

open Sys2Proof

/-! ## Paths (R125, R405) -/

/-- The lines of a range as ranges: their address and length, with where they begin in it. -/
def lineParts (pa n : Nat) : List (Nat × Nat × Nat) :=
  (linesIn pa n).map fun k =>
    let lo := max pa (128 * k)
    (lo - pa, lo, min (pa + n) (128 * k + 128) - lo)

/-- An engine's access of a core to a range as one in flight, for the order of paths. -/
def engineAccess (s : State) (core part : Nat) (level : Level) (via : Option TlbEntry) (work : Work) : Access1 :=
  { id := s.nextId, wave := s.nextId, core := core, lane := 0, seq := 0,
    origin := { pkg := s.system.pkgid, wg := 0, gang := 0, die := dieOf core, part := part, job := (s.partition part).job },
    rel := none, level := level, via := via, sent := none, work := work }

/-- No direct access that left the core before is in the way of an engine's access to a range (R125, R405). -/
def State.enginePath (s : State) (core pa n : Nat) (cls : Route) (write : Bool) : Bool :=
  (lineParts pa n).all fun x =>
    s.pathClear (engineAccess s core 0 .sys none (if write then .store x.2.1 [] cls true else .load x.2.1 x.2.2 cls 0))

/-! ## Reads and writes -/

/-- An engine's write of global bytes, performed at their home (R99, R130); one of a peer's memory is sent to it, each line
by itself, and one of device registers goes on its way. `bad` lists its bytes of a poisoned source (R104). What is on its way is
returned. -/
def State.engineWrite (s : State) (core part : Nat) (level : Level) (via : Option TlbEntry) (pa : Nat) (cls : Route)
    (data : List Byte) (bad : List Nat) : State × List Nat :=
  if data = [] then (s, [])
  else if paPkg pa ≠ s.system.pkgid then
    (lineParts pa data.length).foldl (fun r x =>
      let (s, k) := r.1.sendPod (paPkg pa) part cls (peerPath core x.2.1 (minLane x.2.1))
        (.write x.2.1 ((data.drop x.1).take x.2.2) (badPart bad x.1 x.2.2) none r.1.nextId)
      (s, k :: r.2)) (s, [])
  else if paSpace pa = 0 || paSpace pa = 3 then ((s.invalidate pa data.length).pokePoison core pa data bad none, [])
  else if paSpace pa = 2 then
    ({ s.fresh with net := s.net ++ [engineAccess s core part level via (.store pa data cls true)] }, [s.nextId])
  else (s, [])

/-- An engine's read of global bytes, with those that are poisoned (R104); a poisoned read is logged. -/
def State.engineRead (s : State) (die core : Nat) (level : Level) (pa n : Nat) : State × List Byte × List Nat :=
  let (s, data) := s.peekAny (Writer.ofLevel level (s.partOf die)) pa n
  if s.ownDram pa then
    match (granules pa n).find? s.poison.contains with
    | some k => (s.logCheck die core 3 0 0 0 (32 * k), data, badBytes s.poison pa n)
    | none => (s.readDone pa n, data, [])
  else (s, data, [])

/-- Something that an engine sent is not performed yet. -/
def State.flying (s : State) (id : Nat) : Bool := (s.net.any fun a => a.id = id) || s.fabric.kept.any fun k => k.id = id

end Sys2Proof.Machine
end

