-- ==== Sys2Proof/Machine/CopyEntry.lean ====
section
/-! DEFINITION. Copy ring entries (R225, R227), tensor descriptors (R229), and the checks made when an
entry is accepted (R86, R89, R90, R228, R259). -/

namespace Sys2Proof.Machine

open Sys2Proof

/-! ## The ring (R225) -/

/-- The offset of a workgroup's ring header. -/
def Workgroup.ringBase (g : Workgroup) : Nat := g.vaultSize - (64 + 32 * g.ringLen)

/-- A word of the ring header: 0 PUB, 1 TAKE, 2 DONE. -/
def Workgroup.ringWord (g : Workgroup) (i : Nat) : Word := word (wordsOf 3 (sbytes g.vault g.ringBase 12)) i

/-- Set a word of the ring header. -/
def State.setRingWord (s : State) (g : Workgroup) (i : Nat) (v : Word) : State :=
  s.modWg g.id fun g => { g with vault := swrite g.vault (g.ringBase + 4 * i) (bytesOf [v]) }

/-- The offset of entry `i`. -/
def Workgroup.entryOff (g : Workgroup) (i : Nat) : Nat := g.ringBase + 64 + 32 * (i % g.ringLen)

/-! ## Entries (R227) -/

/-- A ring entry as its eight words. -/
structure RingEntry where
  src : DWord
  dst : DWord
  len : Word
  latch : Word
  aux : Word
  ctl : Word
  deriving DecidableEq, Repr

def RingEntry.words (e : RingEntry) : List Word :=
  [loWord e.src, hiWord e.src, loWord e.dst, hiWord e.dst, e.len, e.latch, e.aux, e.ctl]

def RingEntry.ofWords (l : List Word) : RingEntry :=
  { src := pair (word l 0) (word l 1), dst := pair (word l 2) (word l 3), len := word l 4, latch := word l 5,
    aux := word l 6, ctl := word l 7 }

def RingEntry.kind (e : RingEntry) : Nat := bits e.ctl 0 3
def RingEntry.cls (e : RingEntry) : Nat := bits e.ctl 3 2
def RingEntry.sv (e : RingEntry) : Bool := e.ctl.getLsbD 5
def RingEntry.dv (e : RingEntry) : Bool := e.ctl.getLsbD 6
def RingEntry.nb (e : RingEntry) : Bool := e.ctl.getLsbD 7
def RingEntry.lcore (e : RingEntry) : Nat := bits e.ctl 8 5
def RingEntry.lat (e : RingEntry) : Bool := e.ctl.getLsbD 13
def RingEntry.gstride (e : RingEntry) : Nat := bits e.ctl 19 12

/-- A control word from its parts. -/
def controlWord (kind cls : Nat) (sv dv nb : Bool) (lcore : Nat) (lat : Bool) (gstride : Nat) : Word :=
  BitVec.ofNat 32 (kind + cls * 2 ^ 3 + (if sv then 2 ^ 5 else 0) + (if dv then 2 ^ 6 else 0)
    + (if nb then 2 ^ 7 else 0) + lcore * 2 ^ 8 + (if lat then 2 ^ 13 else 0) + gstride * 2 ^ 19)

/-- The kind of an entry whose KIND is assigned. -/
def RingEntry.what (e : RingEntry) : CopyKind :=
  match e.kind with
  | 0 => .copy
  | 1 => .tensor
  | 2 => .gath
  | 3 => .fill
  | _ => .drain

/-- ILLEGAL of R228. -/
def RingEntry.illegal (e : RingEntry) : Bool :=
  decide (5 ≤ e.kind) || e.cls = 3 || decide (bits e.ctl 14 5 ≠ 0) || e.ctl.getLsbD 31
    || ((e.kind = 1 || e.kind = 2) && !e.dv) || (e.kind = 4 && e.dv) || (e.kind = 3 && e.sv)
    || (e.nb && (e.kind = 2 || e.kind = 3))
    || (!e.nb && e.aux ≠ 0 && (e.kind = 0 || e.kind = 1 || e.kind = 4))
    || (e.sv && e.kind ≠ 1 && hiWord e.src ≠ 0) || (e.dv && hiWord e.dst ≠ 0)

/-! ## Tensor descriptors (R229) -/

/-- A signed field of a descriptor. -/
def signedAt (d : List Byte) (at_ n : Nat) : Int :=
  let v := leNat ((d.drop at_).take n)
  if v < 2 ^ (8 * n - 1) then v else (v : Int) - 2 ^ (8 * n)

def unsignedAt (d : List Byte) (at_ n : Nat) : Nat := leNat ((d.drop at_).take n)

/-- The descriptor in 128 bytes. -/
def Tensor.ofBytes (d : List Byte) : Tensor :=
  { base := BitVec.ofNat 64 (unsignedAt d 0 8), esize := unsignedAt d 8 1, rank := unsignedAt d 9 1,
    extent := (List.range 4).map fun i => signedAt d (16 + 4 * i) 4,
    stride := (List.range 4).map fun i => signedAt d (32 + 8 * i) 8,
    coord := (List.range 4).map fun i => signedAt d (64 + 4 * i) 4,
    box := (List.range 4).map fun i => unsignedAt d (80 + 4 * i) 4 }

/-- Bytes that a tensor copy writes. -/
def Tensor.size (t : Tensor) : Nat := t.esize * t.box.foldl (· * ·) 1

/-- The first and last in-range coordinate of dimension `i` of the box. -/
def Tensor.span (t : Tensor) (i : Nat) : Int × Int :=
  (max (t.coord.getD i 0) 0, min (t.coord.getD i 0 + (t.box.getD i 1 : Nat)) (t.extent.getD i 1) - 1)

/-- The byte offsets of the corners of the in-range part, over the dimensions from `i` on. -/
def Tensor.corners (t : Tensor) : Nat → List Int → List Int
  | 0, acc => acc
  | n + 1, acc =>
    let (lo, hi) := t.span n
    let st := t.stride.getD n 0
    Tensor.corners t n (acc.flatMap fun a => [a + lo * st, a + hi * st])

/-- A value of int64. -/
def fitsInt64 (x : Int) : Bool := decide (-(2 ^ 63) ≤ x ∧ x < 2 ^ 63)

/-- COPY_DESC of R229. -/
def Tensor.bad (t : Tensor) (d : List Byte) : Bool :=
  !([1, 2, 4, 8].contains t.esize) || t.rank = 0 || decide (4 < t.rank)
    || ((d.drop 10).take 6 ++ (d.drop 96).take 32).any (fun b => b ≠ 0)
    || t.extent.any (fun e => decide (e < 0)) || t.box.any (fun b => b = 0)
    || (List.range 4).any (fun i => decide (t.rank ≤ i) &&
      (t.extent.getD i 0 ≠ 1 || t.stride.getD i 0 ≠ 0 || t.coord.getD i 0 ≠ 0 || t.box.getD i 0 ≠ 1))
    || decide (2 ^ 32 ≤ t.size)
    || ((List.range 4).all (fun i => decide ((t.span i).1 ≤ (t.span i).2))
      && (t.corners 4 [0]).any fun x => !fitsInt64 x)

/-! ## Acceptance (R86, R90, R228) -/

/-- The outcome of checking an entry. -/
inductive Accept where
  | ok (s : State) (c : Copy)
  | fault (c : Cause) (eval : DWord)
  /-- An access accepted before is not performed yet (R89), or a page of the destination waits for its walk. -/
  | wait (s : State)
  deriving DecidableEq, Repr

/-- The allocation that a vault end names: by its selector, or with LAT that of the workgroup of the same
grid on core LCORE, of which only the offset is used (R86, R227) (DEDUCED log 40): where several workgroups of the grid reside
there, the first of them, the one placed first; the spec names none (DESIGN CHOICE log 81). -/
def State.endGroup (s : State) (g : Workgroup) (lat : Bool) (lcore : Nat) (addr : Word) : Option Workgroup :=
  if lat then s.wgs.find? fun x => x.core = dieOf g.core * 32 + lcore && x.entry = g.entry
  else s.member g.gang (bits addr 30 2)

/-- A vault end of `len` bytes: its allocation, within it and wholly in one buffer or in none (R86,
R90). -/
def State.vaultEnd (s : State) (g : Workgroup) (lat : Bool) (lcore : Nat) (addr : Word) (len : Nat) :
    Except (Cause × DWord) (Workgroup × Nat) :=
  match s.endGroup g lat lcore addr with
  | none => .error (vaultFault .vaultBounds addr)
  | some x => if x.vaultSize < vaultOff addr + len then .error (vaultFault .vaultBounds addr) else .ok (x, vaultOff addr)

/-- The state check of a vault end (R90). -/
def Workgroup.endAllowed (g : Workgroup) (off len : Nat) (ok : Buffer → Bool) : Bool :=
  if len = 0 then true
  else match g.copyBuffer off len with
    | none => false
    | some none => true
    | some (some (_, b)) => ok b

/-- Accepted stores of the buffers that a range lies in are not performed: the buffer may not leave its
state yet (R89). -/
def State.storesBefore (s : State) (g : Workgroup) (off len : Nat) : Bool :=
  decide (len ≠ 0) && match g.copyBuffer off len with
    | some (some (_, b)) => (b.state = .empty || b.state = .full) && s.storesOut g.id b.base b.len
    | _ => false

/-- An engine's read of vault bytes, checked as an LDV (R259), with its alignment. -/
def State.engineVault (s : State) (g : Workgroup) (addr : Word) (len align : Nat) (ok : Buffer → Bool) :
    Except (Cause × DWord) (Workgroup × Nat) :=
  match s.vaultIn (some g) addr len align with
  | .error e => .error e
  | .ok (x, off) => if len = 0 || (x.touched off len).all ok then .ok (x, off) else .error (vaultFault .vaultState addr)

/-- The 64 KiB pages of a range of virtual addresses. -/
def pagesOf (va : DWord) (len : Nat) : List DWord :=
  if len = 0 then []
  else (List.range (((va.toNat % 65536) + len - 1) / 65536 + 1)).map fun i =>
    if i = 0 then va else (va &&& ~~~65535#64) + BitVec.ofNat 64 (65536 * i)

/-- The address space of a workgroup's engines: its root. -/
def State.rootOfWg (s : State) (g : Workgroup) : DWord := ((s.entry? g.entry).bind fun e => e.root).getD 0

/-- A translation by an operation of a workgroup's engines. -/
def State.wgVa (s : State) (g : Workgroup) (op : Nat) (level : Level) (n : Need) (va : DWord) : State × Tr :=
  s.engineVa { core := g.core, for_ := g.id, op := op } (s.rootOfWg g) level n va

/-- What an operation of an engine waits for: a direct access before it on its path (R125), the walk of a page (R365), or a
peer's line (R97). -/
inductive EngineWait where
  | path
  | page (need : Need) (va : DWord)
  | line (pa : Nat) (write : Bool)
  deriving DecidableEq, Repr

/-- What an operation waits for is asked for. -/
def State.askFor (s : State) (g : Workgroup) (op : Nat) (level : Level) (x : EngineWait) : State :=
  match x with
  | .path => s
  | .page n va => (s.wgVa g op level n va).1
  | .line pa write => s.fetchLine (dieOf g.core) g.core pa .min write

/-- The physical pages of a global destination, as far as they are known: those that acceptance has met, or a translation now.
One whose access would fault counts as address 0; the page that misses is asked for, and none is answered. -/
def State.seePages (g : Workgroup) (op : Nat) (level : Level) : State → List DWord → List (DWord × Nat) → State × Option (List (DWord × Nat))
  | s, [], acc => (s, some acc.reverse)
  | s, va :: vs, acc =>
    match ((s.wg? g.id).bind fun g => g.seenPages.find? fun p => p.1 = va) with
    | some p => State.seePages g op level s vs (p :: acc)
    | none =>
      let met (s : State) (pa : Nat) : State := s.modWg g.id fun g => { g with seenPages := (va, pa) :: g.seenPages }
      match s.wgVa g op level .w va with
      | (s, .miss) => (s, none)
      | (s, .ok pa _) => State.seePages g op level (met s pa) vs ((va, pa) :: acc)
      | (s, _) => State.seePages g op level (met s 0) vs ((va, 0) :: acc)

/-- The pages of a global destination are looked at (R109, R228): the first that maps a window which the core may not store
to, if any; none where a page waits for its walk. -/
def State.windowShut (s : State) (g : Workgroup) (op : Nat) (level : Level) (va : DWord) (len : Nat) : State × Option (Option DWord) :=
  match State.seePages g op level s (pagesOf va len) [] with
  | (s, none) => (s, none)
  | (s, some ps) => (s, some ((ps.find? fun p => !s.windowOpen g.core p.2).map fun p => p.1))

/-- The source rows of a GATH in vault memory, by its index list as it stands (R232): offsets, or none outside the
allocation. -/
def gathRows (x list : Workgroup) (off at_ rows rowBytes stride : Nat) : Option (List Nat) :=
  ((List.range rows).filterMap fun r =>
      let i := (word (wordsOf 1 (sbytes list.vault (at_ + 4 * r) 4)) 0).toInt
      if i < 0 then none else some (off + i.toNat * stride)).foldr
    (fun o l => l.bind fun l => if o + rowBytes ≤ x.vaultSize then some (o :: l) else none) (some [])

/-- The buffer that all of some ranges of `n` bytes lie in, if they lie in one and the same, or in none (R90). -/
def Workgroup.rowsBuffer (g : Workgroup) (n : Nat) : List Nat → Option (Option (Nat × Buffer))
  | [] => some none
  | o :: os => match g.copyBuffer o n with
    | none => none
    | some b => if os.all fun x => g.copyBuffer x n = some b then some b else none

/-- Check an entry by R228, in the order of R211. `level` is that of its accesses (DEDUCED log 41). -/
def State.checkCopy (s : State) (g : Workgroup) (level : Level) (e : RingEntry) (index : Nat) : Accept :=
  if e.illegal then .fault .illegal 7
  else
    let kind := e.what
    -- the descriptor's bytes, where the entry has one
    let desc := if kind = .tensor then (s.engineVault g e.len 128 64 Buffer.loads).map some else .ok none
    let tensor : Option (Tensor × List Byte) := match desc with
      | .ok (some (x, off)) => let d := sbytes x.vault off 128; some (Tensor.ofBytes d, d)
      | _ => none
    let len := match kind with
      | .tensor => (tensor.map fun t => t.1.size).getD 0
      | .gath => bits e.len 0 16 * bits e.len 16 16
      | _ => e.len.toNat
    let listLen := if kind = .gath then 4 * bits e.len 16 16 else 0
    let (s, shut) := if e.dv then (s, some none) else s.windowShut g index level e.dst len
    let src : Except (Cause × DWord) (Option (Workgroup × Nat)) :=
      if e.sv && (kind = .copy || kind = .drain) then (s.vaultEnd g (e.lat && !e.dv) e.lcore (loWord e.src) len).map some
      else .ok none
    let dst : Except (Cause × DWord) (Option (Workgroup × Nat)) :=
      if e.dv then (s.vaultEnd g e.lat e.lcore (loWord e.dst) len).map some else .ok none
    let list := if kind = .gath then (s.engineVault g e.aux listLen 4 Buffer.loads).map some else .ok none
    let rowBytes := bits e.len 0 16
    let stride := if e.gstride = 0 then rowBytes else 32 * e.gstride
    -- the rows of a GATH from vault memory
    let rows : Except (Cause × DWord) (Option (Workgroup × Nat × List Nat)) :=
      if kind = .gath && e.sv then
        match s.vaultEnd g false e.lcore (loWord e.src) 0, list with
        | .error x, _ => .error x
        | .ok (x, off), .ok (some (l, at_)) =>
          match gathRows x l off at_ (bits e.len 16 16) rowBytes stride with
          | none => .error (vaultFault .vaultBounds (loWord e.src))
          | some os => .ok (some (x, off, if rowBytes = 0 then [] else os))
        | .ok (x, off), _ => .ok (some (x, off, []))
      else .ok none
    match shut with
    | none => .wait s
    | some (some va) => .fault .permission va
    | some none =>
      match desc, src, dst, list, rows with
      | .error (.vaultBounds, v), _, _, _, _ | _, .error (_, v), _, _, _ | _, _, .error (_, v), _, _
      | _, _, _, .error (.vaultBounds, v), _ | _, _, _, _, .error (_, v) => .fault .vaultBounds v
      | .error (c, v), _, _, _, _ => .fault c v
      | _, _, _, .error (c, v), _ => .fault c v
      | .ok desc, .ok src, .ok dst, .ok list, .ok rows =>
        let allowed (x : Option (Workgroup × Nat)) (ok : Buffer → Bool) : Bool :=
          match x with | some (x, off) => x.endAllowed off len ok | none => true
        let latch : Except (Cause × DWord) (Option LatchRef) :=
          if e.latch = 0xFFFFFFFF then .ok none else (s.latchIn (some g) e.latch).map some
        let rowsIn : Option (Option (Nat × Buffer)) :=
          match rows with | some (x, _, os) => x.rowsBuffer rowBytes os | none => some none
        let rowsOk : Bool := match rowsIn with | none => false | some none => true | some (some p) => p.2.copiesOut
        if !allowed src Buffer.copiesOut || !rowsOk then .fault .vaultState ((loWord e.src).zeroExtend 64)
        else if !allowed dst Buffer.copiesIn then .fault .vaultState ((loWord e.dst).zeroExtend 64)
        else
          match latch with
          | .error _ => .fault .vaultState (e.latch.zeroExtend 64)
          | .ok latch =>
            let storesAt (x : Option (Workgroup × Nat)) (n : Nat) : Bool :=
              match x with | some (x, off) => decide (n ≠ 0) && s.storesOut x.id off n | none => false
            let before (x : Option (Workgroup × Nat)) : Bool :=
              match x with | some (x, off) => s.storesBefore x off len | none => false
            let rowsBefore : Bool := match rows with
              | some (x, _, o :: _) => s.storesBefore x o rowBytes
              | _ => false
            if storesAt desc 128 || (rows.isSome && storesAt list listLen) then .wait s
            else if (tensor.map fun t => t.1.bad t.2).getD false then .fault .copyDesc (e.len.zeroExtend 64)
            else if before src || before dst || rowsBefore then .wait s
            else
              let drains : Option (Nat × Nat) := match src, rows with
                | some (x, off), _ => if len = 0 then none
                  else ((x.copyBuffer off len).bind fun b => b).map fun b => (x.id, b.1)
                | none, some (x, _, _) => (rowsIn.bind fun b => b).map fun b => (x.id, b.1)
                | none, none => none
              let tail (va : DWord) (x : Option (Workgroup × Nat)) : CopyEnd :=
                match x with | some (x, off) => .vault x.id off | none => .global va
              let src : CopyEnd :=
                match rows with
                | some (x, off, _) => .vault x.id off
                | none => tail ((tensor.map fun t => t.1.base).getD e.src) src
              .ok (s.modWg g.id fun g => { g with seenPages := [] }) {
                index := index, wave := none, lane := 0, seq := 0, level := level, kind := kind, route := Route.ofCode e.cls,
                src := src, dst := tail e.dst dst, len := len, latch := latch, aux := e.aux, notBefore := e.nb,
                stride := stride, rows := rowBytes,
                list := list.map fun x => (x.1.id, x.2), tensor := tensor.map fun t => t.1, state := .waiting,
                moved := [], token := none, lines := [], drains := drains }

/-- The change of the buffers that an accepted copy makes (R89). -/
def State.enterBuffers (s : State) (c : Copy) : State :=
  let change (s : State) (x : CopyEnd) (g : Buffer → Buffer) : State :=
    match x with
    | .vault wg off =>
      match (s.wg? wg).bind fun w => (w.copyBuffer off c.len).map fun b => (w, b) with
      | some (w, some (n, b)) => if c.len = 0 then s else s.setWg { w with buffers := put w.buffers n (g b) }
      | _ => s
    | .global _ => s
  let s := match c.drains with
    | some (wg, k) => s.modWg wg fun w =>
        { w with buffers := w.buffers.map fun p => if p.1 = k then (p.1, { p.2 with state := .draining, drains := p.2.drains + 1 }) else p }
    | none => s
  change s c.dst fun b => if b.state = .empty then { b with state := .filling, fill := 0, got := [] } else b

end Sys2Proof.Machine
end

