-- ==== Sys2Proof/Machine/Copy.lean ====
section
/-! DEFINITION. The copy instructions (R231-R236), the copy engine's publication, take-up, data and ends
(R228, R230, R234, R237, R238, R408), and the source line counters (R319). -/

namespace Sys2Proof.Machine

open Sys2Proof

/-! ## Issue (R231-R234) -/

/-- PUB as a thread sees it: the performed count, its wave's own copies, and its own stores to it. -/
def State.nextIndex (s : State) (w : Wave) (lane : Nat) (g : Workgroup) : Word :=
  let hdr := word (wordsOf 1 (overlay g.ringBase (sbytes g.vault g.ringBase 4) (vaultStores g.id (s.ownWrites w lane w.seq)))) 0
  if 0 < (hdr - g.pub).toInt then hdr else g.pub

/-- Bits [51:4] of a time. -/
def promiseBits (t : Nat) : Nat := t / 16 % 2 ^ 48

/-- The promised time within the bounds of R234, from the engine's estimate. -/
def State.promiseTime (s : State) (notBefore : Nat) : Nat :=
  let lo := max s.pcc.toNat notBefore
  min (max lo (s.pcc.toNat + Config.estimate s.draws)) (max lo (s.pcc.toNat + 2 ^ 46))

/-- The promise pushed for a copy (R234). -/
def promiseOf (index : Nat) (time : Nat) : DWord := BitVec.ofNat 64 (index % 65536 + 65536 * promiseBits time)

/-- The not-before time that an AUX word names: the next PCC value with those low bits, unless that lies
more than 2^31 ahead, which counts as past (R408). -/
def auxTime (pcc : Nat) (aux : Word) : Nat :=
  let ahead := (aux.toNat + 2 ^ 32 - pcc % 2 ^ 32) % 2 ^ 32
  if ahead ≤ 2 ^ 31 then pcc + ahead else pcc

/-- Issue a copy with the entry that a thread builds (R231): wait for room, check, publish. -/
def issueCopy (f : Fields) (s : State) (w : Wave) (lane : Nat) (t : Thread) (e : RingEntry) : TRes :=
  match s.ownGroup w with
  | none => .fault .illegal 7
  | some g =>
    if g.ringLen = 0 then .fault .illegal 7
    else
      let next := s.nextIndex w lane g
      if g.ringLen ≤ (next - g.ringWord 2).toNat || t.acquiring then .hold s
      else
        match s.checkCopy g t.level e next.toNat with
        | .fault c v => .fault c v
        | .wait s => .hold s
        | .ok s c =>
          let s := s.enterBuffers c
          let time := s.promiseTime (if e.nb then auxTime s.pcc.toNat e.aux else 0)
          let made : Nat × Nat := (next.toNat % 65536, promiseBits time)
          let s := s.modWg g.id fun g =>
            { g with
              vault := swrite g.vault (g.entryOff next.toNat) (bytesOf e.words)
              pub := next + 1
              copies := g.copies ++ [{ c with wave := some w.id, lane := lane, seq := w.seq }]
              promised := made :: g.promised
              met := g.met.filter fun x => x ≠ made }
          let p := promiseOf next.toNat time
          .done s.drawn ((t.result f.d.reg [loWord p, hiWord p]).advance f.form.len)

/-- An end of XCOPY: a pair, or a vault address. -/
def copyEnd (s : State) (w : Wave) (lane : Nat) (t : Thread) (f : Fields) (vault : Bool) (o : Src) : DWord :=
  if vault then (read32 s w lane t f o).zeroExtend 64 else read64 s w lane t f o

/-- The entry of XCOPY and XDRAIN (R231). -/
def xcopyEntry (kind : Nat) (f : Fields) (s : State) (w : Wave) (lane : Nat) (t : Thread) : RingEntry :=
  let sv := bit f.x 2
  let dv := bit f.x 3
  let nb := bit f.m 0
  { src := copyEnd s w lane t f sv f.a, dst := copyEnd s w lane t f dv f.b, len := read32 s w lane t f f.c,
    latch := read32 s w lane t f f.e, aux := if nb then read32 s w lane t f f.f else 0,
    ctl := controlWord kind (bits f.x 0 2) sv dv nb (bits f.x 5 5) (bit f.x 10) 0 }

/-- XCOPY (R231). -/
def execXcopy (f : Fields) (s : State) : Host.Outcome State Fault Refusal :=
  execEach (shapeXcopy f) f (fun s w lane t =>
    issueCopy f s w lane t (xcopyEntry (if bit f.x 4 then 1 else 0) f s w lane t)) s

/-- XDRAIN (R231). -/
def execXdrain (f : Fields) (s : State) : Host.Outcome State Fault Refusal :=
  execEach (shapeXdrain f) f (fun s w lane t => issueCopy f s w lane t (xcopyEntry 4 f s w lane t)) s

/-- XGATH (R232). -/
def execXgath (f : Fields) (s : State) : Host.Outcome State Fault Refusal :=
  execEach (shapeXgath f) f (fun s w lane t =>
    issueCopy f s w lane t
      { src := read64 s w lane t f f.a, dst := (read32 s w lane t f f.b).zeroExtend 64, len := read32 s w lane t f f.c,
        latch := read32 s w lane t f f.e, aux := read32 s w lane t f f.f,
        ctl := controlWord 2 (bits f.x 0 2) false true false 0 false (bits f.x 2 12) }) s

/-- XFILL (R233). -/
def execXfill (f : Fields) (s : State) : Host.Outcome State Fault Refusal :=
  execEach (shapeXfill f) f (fun s w lane t =>
    let dv := bit f.m 2
    issueCopy f s w lane t
      { src := 0, dst := copyEnd s w lane t f dv f.a, len := read32 s w lane t f f.c,
        latch := if f.form = .f128 then read32 s w lane t f f.e else 0xFFFFFFFF, aux := read32 s w lane t f f.b,
        ctl := controlWord 3 (bits f.m 0 2) false dv false (bits f.m 3 5) (bit f.m 8) 0 }) s

/-! ## The status of a copy number (R235, R236) -/

/-- What a copy number names. -/
inductive NumberState where
  | unpublished
  | status (c : CopyState)
  /-- Older than the last 32,768 copies, or never published. -/
  | past
  deriving DecidableEq, Repr

/-- The state of copy number `n` (R236). -/
def Workgroup.numberState (g : Workgroup) (n : Nat) : NumberState :=
  let next := if 0 < (g.ringWord 0 - g.pub).toInt then g.ringWord 0 else g.pub
  if (n + 65536 - next.toNat % 65536) % 65536 < 32768 then .unpublished
  else
    match (g.copies.filter fun c => c.index % 65536 = n && decide ((next - BitVec.ofNat 32 c.index).toNat ≤ 32768)).getLast? with
    | some c => .status c.state
    | none =>
      -- an entry of plain stores that the engine has not taken up
      let behind := (next.toNat + 65536 - n) % 65536
      if behind ≤ (next - g.ringWord 1).toNat then .status .waiting else .past

/-- The word that XSTAT pushes (R236). -/
def Workgroup.xstatWord (g : Workgroup) (n : Nat) : Word :=
  BitVec.ofNat 32 <| n * 65536 + match g.numberState n with
    | .unpublished => 0
    | .past => 1
    | .status .complete => 1
    | .status (.failed c) => c * 256 + 2
    | .status _ => 0

/-- XSTAT (R236). -/
def execXstat (f : Fields) (s : State) : Host.Outcome State Fault Refusal :=
  execEach (shapeXstat f) f (fun s w lane t =>
    let a := read32 s w lane t f f.a
    match s.ownGroup w with
    | none => .fault .illegal 7
    | some g =>
      if g.ringLen = 0 || 65536 ≤ a.toNat then .fault .illegal 7
      else if t.pendFull then .hold s
      else .done s.fresh ((t.pend s.nextId w.seq f.la.toNat 1 f.d.reg (.xstat a.toNat) none).advance f.form.len)) s

/-- What XWAIT answers at once: 2 for a failed copy, 1 for a complete one, and 1 for a promise from before a restore
(R33, R235). -/
def Workgroup.xwaitNow (g : Workgroup) (n time : Nat) : Option Word :=
  match g.numberState n with
  | .status (.failed _) => some 2
  | .status .complete | .past => some 1
  | _ => if g.met.contains (n, time) then some 1 else none

/-- XWAIT (R235). -/
def execXwait (f : Fields) (s : State) : Host.Outcome State Fault Refusal :=
  execEach (shapeXwait f) f (fun s w lane t =>
    let a := read64 s w lane t f f.a
    match s.ownGroup w with
    | none => .fault .illegal 7
    | some g =>
      if g.ringLen = 0 then .fault .illegal 7
      else match g.xwaitNow (bits a 0 16) (bits a 16 48) with
        | some v => .done s ((t.result f.d.reg [v]).advance f.form.len)
        | none => .done s (t.park (.xwait (bits a 0 16) (bits a 16 48) (bit f.m 0) f.d.reg) f)) s

/-- The promised time of a parked XWAIT has passed (R235). -/
def promisePassed (pcc : DWord) (time : Nat) : Bool :=
  decide ((promiseBits pcc.toNat + 2 ^ 48 - time) % 2 ^ 48 < 2 ^ 47)

/-! ## Publication and retirement (R225, R228) -/

/-- The copies that XCOPY made and whose notify store is performed are published (R228, R231). -/
def State.publishCopies (wg : Nat) : Nat → State → State
  | 0, s => s
  | fuel + 1, s =>
    match s.wg? wg with
    | none => s
    | some g =>
      let pub := g.ringWord 0
      match g.copies.find? fun c => c.index = pub.toNat && c.state = .waiting with
      | none => s
      | some c =>
        if (c.wave.map fun w => s.released w c.lane c.seq .pkg allClasses).getD true then
          State.publishCopies wg fuel (s.setRingWord g 0 (pub + 1))
        else s

/-- DONE passes the copies that have ended (R225). -/
def State.retireCopies (wg : Nat) : Nat → State → State
  | 0, s => s
  | fuel + 1, s =>
    match s.wg? wg with
    | none => s
    | some g =>
      let i := g.ringWord 2
      if i = g.ringWord 1 then s
      else match g.copies.find? fun c => c.index = i.toNat with
        | some c =>
          match c.state with
          | .complete | .failed _ => State.retireCopies wg fuel (s.setRingWord g 2 (i + 1))
          | _ => s
        | none => s

/-- Change the copy of an index. -/
def State.modCopy (s : State) (wg index : Nat) (h : Copy → Copy) : State :=
  s.modWg wg fun g => { g with copies := g.copies.map fun c => if c.index = index then h c else c }

/-! ## Data (R230, R232, R234, R238) -/

/-- Bytes with the mark of a poisoned source. -/
abbrev Marked := List (Byte × Bool)

/-- Bytes with a list of those of a poisoned source. -/
def marked (data : List Byte) (bad : List Nat) : Marked := ((List.range data.length).zip data).map fun p => (p.2, bad.contains p.1)

/-- The bytes that are of a poisoned source. -/
def badOf (m : Marked) : List Nat := ((List.range m.length).zip m).filterMap fun p => if p.2.2 then some p.1 else none

/-- What an engine's read of source bytes gives: the bytes, a stop, or what it waits for. A stop keeps the lines that were
requested. -/
inductive Got where
  | ok (s : State) (m : Marked)
  | stop (s : State) (x : Stop)
  | wait (x : EngineWait)

/-- Count the DRAM lines that a copy requests as a source, each once (R319). Its requests are sent in the step that moves
their bytes (DESIGN CHOICE log 19). -/
def State.countLines (s : State) (g : Workgroup) (index pa n : Nat) : State :=
  if paSpace pa ≠ 0 then s
  else
    match (s.wg? g.id).bind fun g => g.copies.find? fun c => c.index = index with
    | none => s
    | some c =>
      let ls := (linesIn pa n).filter fun l => !c.lines.contains l
      let d := dieOf g.core
      let local_ (l : Nat) : Bool := s.ownDram (128 * l) && s.home (128 * l) = d
      let nLoc := (ls.filter local_).length
      let x := s.die d
      let add (w : Word) (k : Nat) : Word := BitVec.ofNat 32 (min (w.toNat + k) (2 ^ 32 - 1))
      (s.setDie d { x with xrloc := add x.xrloc nLoc, xrrem := add x.xrrem (ls.length - nLoc) }).modCopy g.id index
        fun c => { c with lines := c.lines ++ ls }

/-- Dirty copies of the lines of a range are recalled (R99). -/
def State.recallRange (s : State) (pa n : Nat) : State := ((linesIn pa n).map fun k => 128 * k).foldl State.recall s

/-- A copy reads global source bytes, page by page; its translation faults stop it (R109, R238) (DEDUCED log 45). It waits
behind direct accesses of its core on the same path (R125). -/
def State.copyGlobal (g : Workgroup) (c : Copy) : Nat → State → DWord → Nat → Marked → Got
  | 0, s, _, _, acc => .ok s acc
  | fuel + 1, s, va, n, acc =>
    if n = 0 then .ok s acc
    else
      let k := min n (65536 - va.toNat % 65536)
      let more (s : State) (m : Marked) := State.copyGlobal g c fuel s (va + BitVec.ofNat 64 k) (n - k) (acc ++ m)
      match s.wgVa g c.index c.level .r va with
      | (s, .ok pa _) =>
        if paSpace pa = 1 || !s.devOpen c.level (s.partOf (dieOf g.core)) pa k then .stop s (stop .permission)
        else if !s.enginePath g.core pa k c.route false then .wait .path
        else
          let (s, data, bad) := ((s.countLines g c.index pa k).recallRange pa k).engineRead (dieOf g.core) g.core c.level pa k
          more s (marked data bad)
      | (s, .psn pa) =>
        more ((s.countLines g c.index pa k).logCheck (dieOf g.core) g.core 3 0 0 0 pa) ((s.peek pa k).map fun b => (b, true))
      | (s, .fault x) => .stop s (stop x)
      | (s, .table pa) => .stop s { cause := .translation, table := some pa }
      | (_, .miss) => .wait (.page .r va)

/-- A copy reads vault source bytes, marking poisoned ones (R104); it never reads a LATCH buffer (R93). -/
def State.copyVault (s : State) (g : Workgroup) (wg off n : Nat) : Got :=
  match s.wg? wg with
  | none => .stop s (stop .vaultBounds)
  | some x =>
    if x.vaultSize < off + n then .stop s (stop .vaultBounds)
    else if (x.touched off n).any fun b => b.latch then .stop s (stop .vaultState)
    else
      let s1 := match (granules off n).find? x.poison.contains with
        | some k => s.logCheck (dieOf g.core) g.core 3 0 0 0 (32 * k)
        | none => s.vaultRead x off n
      .ok s1 (marked (sbytes x.vault off n) (badBytes x.poison off n))

/-- Bytes of a source at an offset. -/
def State.copySource (s : State) (g : Workgroup) (c : Copy) (at_ : Int) (n : Nat) : Got :=
  match c.src with
  | .global va => s.copyGlobal g c (n / 65536 + 2) (va + BitVec.ofInt 64 at_) n []
  | .vault wg off =>
    let a := (off : Int) + at_
    if a < 0 then .stop s (stop .vaultBounds) else s.copyVault g wg a.toNat n

/-- The coordinates of element `i` of a box (R230). -/
def Tensor.coords (t : Tensor) (i : Nat) : List Int :=
  let b (k : Nat) : Nat := t.box.getD k 1
  let j : List Nat := [i % b 0, i / b 0 % b 1, i / (b 0 * b 1) % b 2, i / (b 0 * b 1 * b 2)]
  (List.range 4).map fun k => t.coord.getD k 0 + (j.getD k 0 : Nat)

/-- The element of a coordinate lies in the tensor. -/
def Tensor.inside (t : Tensor) (cs : List Int) : Bool :=
  (List.range 4).all fun k => decide (0 ≤ cs.getD k 0 ∧ cs.getD k 0 < t.extent.getD k 0)

def Tensor.offset (t : Tensor) (cs : List Int) : Int :=
  ((List.range 4).map fun k => cs.getD k 0 * t.stride.getD k 0).foldl (· + ·) 0

/-- Bytes after others. -/
def Got.after (acc : Marked) (k : State → Marked → Got) : Got → Got
  | .ok s m => k s (acc ++ m)
  | r => r

/-- Elements `i` to `i + n - 1` of a tensor copy (R230). -/
def State.copyElements (g : Workgroup) (c : Copy) (t : Tensor) : Nat → State → Nat → Marked → Got
  | 0, s, _, acc => .ok s acc
  | n + 1, s, i, acc =>
    let cs := t.coords i
    if t.inside cs then
      (s.copySource g c (t.offset cs) t.esize).after acc fun s acc => State.copyElements g c t n s (i + 1) acc
    else State.copyElements g c t n s (i + 1) (acc ++ List.replicate t.esize (0, false))

/-- Bytes `off` to `off + n - 1` of the rows of a GATH, each row by its index (R232). -/
def State.copyRows (g : Workgroup) (c : Copy) (wg at_ : Nat) : Nat → State → Nat → Nat → Marked → Got
  | 0, s, _, _, acc => .ok s acc
  | fuel + 1, s, off, n, acc =>
    if n = 0 then .ok s acc
    else
      let k := min n (c.rows - off % c.rows)
      let more (s : State) (acc : Marked) : Got := State.copyRows g c wg at_ fuel s (off + k) (n - k) acc
      let i : Int := match s.wg? wg with
        | some x => (word (wordsOf 1 (sbytes x.vault (at_ + 4 * (off / c.rows)) 4)) 0).toInt
        | none => 0
      if i < 0 then more s (acc ++ List.replicate k (0, false))
      else (s.copySource g c (i * c.stride + (off % c.rows : Nat)) k).after acc more

/-- The data of a range of a copy's destination (DESIGN CHOICE log 19). -/
def State.copyData (s : State) (g : Workgroup) (c : Copy) (off n : Nat) : Got :=
  match c.kind with
  | .copy | .drain => s.copySource g c off n
  | .fill => .ok s ((List.range n).map fun i => (c.aux.extractLsb' (8 * ((off + i) % 4)) 8, false))
  | .tensor =>
    match c.tensor with
    | none => .wait .path
    | some t =>
      if t.esize = 0 then .wait .path
      else
        let i := off / t.esize
        match State.copyElements g c t ((off + n - 1) / t.esize + 1 - i) s i [] with
        | .ok s m => .ok s ((m.drop (off % t.esize)).take n)
        | r => r
  | .gath =>
    match c.list with
    | none => .wait .path
    | some (wg, at_) => if c.rows = 0 then .wait .path else State.copyRows g c wg at_ (n / c.rows + 2) s off n []

/-- Pieces of at most 256 bytes of a range, cut where the address crosses a multiple of 256 (R109): their addresses, places in
the range and lengths. -/
def pieces : Nat → Nat → Nat → Nat → List (Nat × Nat × Nat)
  | 0, _, _, _ => []
  | fuel + 1, at_, i, n =>
    if n = 0 then []
    else
      let k := min n (256 - at_ % 256)
      (at_, i, k) :: pieces fuel (at_ + k) (i + k) (n - k)

/-- A list of ranges with one more; one that goes on where the latest ends is joined to it. -/
def addRange (off n : Nat) : List (Nat × Nat) → List (Nat × Nat)
  | (o, k) :: l => if o + k = off then (o, k + n) :: l else (off, n) :: (o, k) :: l
  | [] => [(off, n)]

/-- What of some ranges lies outside a range. -/
def lessRange (off n : Nat) (l : List (Nat × Nat)) : List (Nat × Nat) :=
  l.flatMap fun r =>
    if meets r.1 r.2 off n then
      (if r.1 < off then [(r.1, off - r.1)] else []) ++ if off + n < r.1 + r.2 then [(off + n, r.1 + r.2 - (off + n))] else []
    else [r]

/-- The bytes of a vault range become unpredictable (R6, DESIGN CHOICE log 4). -/
def State.freeVault (s : State) (wg off n : Nat) : State :=
  match s.wg? wg with
  | some g => (s.vaultWrite wg off (openBytes s.draws (sbytes g.vault off n))).drawnBy n
  | none => s

/-- A copy writes bytes to a vault: the bytes, their poison, and the fill count. Where it is reached early, since a byte was
written twice, the bytes not yet written are unpredictable (R91, R104). -/
def State.writeVaultEnd (s : State) (wg off : Nat) (m : Marked) : State :=
  let s := s.vaultWrite wg off (m.map fun p => p.1)
  let s := s.modWg wg fun g => { g with poison := addPoison g.poison (badGranules off (badOf m)) }
  match (s.wg? wg).bind fun w => (w.copyBuffer off m.length).map fun b => (w, b) with
  | some (w, some (n, b)) =>
    if b.state ≠ .filling then s
    else
      let fill := b.fill + m.length
      let got := addRange off m.length b.got
      if b.len ≤ fill then
        let s := s.setWg { w with buffers := put w.buffers n { b with state := .full, fill := 0, got := [] } }
        (got.foldl (fun l r => lessRange r.1 r.2 l) [(b.base, b.len)]).foldl (fun s r => s.freeVault wg r.1 r.2) s
      else s.setWg { w with buffers := put w.buffers n { b with fill := fill, got := got } }
  | _ => s

/-- One piece leaves for a physical address: a fragment for a window (R109), else a write (R104, R130); what is then on its
way. -/
def State.writePiece (s : State) (g : Workgroup) (c : Copy) (pa : Nat) (via : Option TlbEntry) (m : Marked) : State × List Nat :=
  let data := m.map fun p => p.1
  let part := s.partOf (dieOf g.core)
  if paSpace pa = 1 && paPkg pa = s.system.pkgid then
    let (s, frag) := s.fragmentOf g.core pa data (badOf m)
    ({ s.fresh with net := s.net ++ [engineAccess s g.core part c.level via (.fragment frag c.route)] }, [s.nextId])
  else s.engineWrite g.core part c.level via pa c.route data (badOf m)

/-- The outcome of moving a range. -/
inductive Moved where
  | done (s : State)
  | fault (s : State) (c : Stop)
  | wait (x : EngineWait)

/-- Where the pieces of a range go: their physical addresses and translations, or why they may not (R238). -/
inductive Dests where
  | ok (s : State) (l : List (Nat × Option TlbEntry × Nat × Nat))
  | stop (s : State) (c : Stop)
  | wait (x : EngineWait)

/-- The destinations of pieces, by their place and length in the range (DEDUCED log 46). -/
def State.destsOf (g : Workgroup) (c : Copy) : State → List (Nat × Nat × Nat) → List (Nat × Option TlbEntry × Nat × Nat) → Dests
  | s, [], acc => .ok s acc.reverse
  | s, (va, at_, n) :: ps, acc =>
    let va : DWord := BitVec.ofNat 64 va
    let via := findTlb (s.die (dieOf g.core)).tlb (rootTag (s.rootOfWg g)) va
    match s.wgVa g c.index c.level .w va with
    | (s, .ok pa _) =>
      if !s.devOpen c.level (s.partOf (dieOf g.core)) pa n then .stop s (stop .permission)
      else if !s.enginePath g.core pa n c.route true then .wait .path
      else State.destsOf g c s ps ((pa, via, at_, n) :: acc)
    | (s, .fault x) => .stop s (stop x)
    | (s, .table pa) => .stop s { cause := .translation, table := some pa }
    | (s, .psn _) => .stop s (stop .translation)
    | (_, .miss) => .wait (.page .w va)

/-- The destinations of a range of a copy: none for a vault. -/
def State.copyDests (s : State) (g : Workgroup) (c : Copy) (off n : Nat) : Dests :=
  match c.dst with
  | .vault _ _ => .ok s []
  | .global va => State.destsOf g c s (pieces (n / 256 + 2) (va.toNat + off) 0 n) []

/-- The bytes of a range are written; what is then on its way, with its translations. -/
def State.writeEnd (s : State) (g : Workgroup) (c : Copy) (off : Nat) (m : Marked) (ds : List (Nat × Option TlbEntry × Nat × Nat)) :
    State × List (Nat × Option TlbEntry) :=
  match c.dst with
  | .vault wg base => (s.writeVaultEnd wg (base + off) m, [])
  | .global _ =>
    ds.foldl (fun r d =>
      let (s, ids) := r.1.writePiece g c d.1 d.2.1 ((m.drop d.2.2.1).take d.2.2.2)
      (s, r.2 ++ ids.map fun i => (i, d.2.1))) (s, [])

/-- The bytes `off` to `off + n - 1` of a copy's destination are read and written. They are counted on its latch once they
are performed (R124, R130). -/
def State.moveCopy (s : State) (g : Workgroup) (c : Copy) (off n : Nat) : Moved :=
  match s.copyDests g c off n with
  | .wait x => .wait x
  | .stop s x => .fault s x
  | .ok s ds =>
    match s.copyData g c off n with
    | .wait x => .wait x
    | .stop s x => .fault s x
    | .ok s m =>
      let (s, flights) := s.writeEnd g c off m ds
      let s := s.modCopy g.id c.index fun c =>
        { c with
          moved := c.moved ++ [(off, n)]
          owed := if flights = [] then c.owed else c.owed ++ [{ flights := flights, count := n }] }
      .done (match c.latch with | some l => if flights = [] then s.arrive l n else s | none => s)

/-- Bytes of a copy that were on their way are performed: its latch is updated for them (R130). -/
def State.settleOwed (s : State) : State :=
  s.wgs.foldl (fun s g => (g.copies.filter fun c => c.owed ≠ []).foldl (fun s c =>
    let left := c.owed.map fun o => { o with flights := o.flights.filter fun f => s.flying f.1 }
    let s := s.modCopy g.id c.index fun c => { c with owed := left.filter fun o => o.flights ≠ [] }
    match c.latch with
    | some l => (left.filter fun o => o.flights = [] && o.count ≠ 0).foldl (fun s o => s.arrive l o.count) s
    | none => s) s) s

/-! ## The engine's events -/

/-- The copy of an index that is running. -/
def Workgroup.running (g : Workgroup) (index : Nat) : Option Copy :=
  g.copies.find? fun c => c.index = index && c.state = .active

/-- A transfer that needs a token: more than 1 MiB (R237). -/
def Copy.bulky (c : Copy) : Bool := decide (2 ^ 20 < c.len)

/-- The token that a workgroup can give a bulk transfer: 1 DRAIN, 0 BULK (R271). -/
def Workgroup.tokenFor (g : Workgroup) (c : Copy) : Option Nat :=
  if c.kind = .drain && g.drain ≠ 0 then some 1 else if g.bulk ≠ 0 then some 0 else none

/-- Start a copy that is accepted: a bulk one takes a token (R237, R271). -/
def State.startCopy (s : State) (g : Workgroup) (c : Copy) : Option State :=
  let begin_ (s : State) (token : Option Nat) : State :=
    (s.setRingWord g 1 (BitVec.ofNat 32 c.index + 1)).modCopy g.id c.index fun c => { c with state := .active, token := token }
  if !c.bulky then some (begin_ s none)
  else match g.tokenFor c with
    | none => none
    | some 1 => some (begin_ (s.modWg g.id fun g => { g with drain := g.drain - 1 }) (some 1))
    | some k => some (begin_ (s.modWg g.id fun g => { g with bulk := g.bulk - 1 }) (some k))

/-- The not-before time of a copy has come (R408). -/
def State.copyDue (s : State) (c : Copy) : Bool :=
  !c.notBefore || decide ((s.pcc.toNat + 2 ^ 32 - c.aux.toNat) % 2 ^ 32 < 2 ^ 31)

/-- The level of the accesses of an entry written by plain stores: that of its grid. -/
def State.levelOfWg (s : State) (g : Workgroup) : Level := ((s.entry? g.entry).map fun e => e.level).getD .user

/-- The engine takes up the next published entry (R228, R237, R408). -/
def State.takeUp (s : State) (wg : Nat) : Option State :=
  match s.wg? wg with
  | none => none
  | some g =>
    let i := g.ringWord 1
    if g.ringLen = 0 || i = g.ringWord 0 || g.ringLen ≤ (i - g.ringWord 2).toNat then none
    else
      let go (s : State) (c : Copy) : Option State := if s.copyDue c then s.startCopy g c else none
      match g.copies.find? fun c => c.index = i.toNat && c.state = .waiting with
      | some c => go s c
      | none =>
        let e := RingEntry.ofWords (wordsOf 8 (sbytes g.vault (g.entryOff i.toNat) 32))
        match s.checkCopy g (s.levelOfWg g) e i.toNat with
        | .wait s => some s
        | .fault x _ =>
          some ((s.setRingWord g 1 (i + 1)).modWg wg fun g =>
            { g with copies := g.copies ++ [{
                index := i.toNat, wave := none, lane := 0, seq := 0, level := .user, kind := e.what, route := .min,
                src := .global e.src, dst := .global e.dst, len := 0, latch := none, aux := e.aux, notBefore := false,
                stride := 0, rows := 0, list := none, tensor := none, state := .failed x.code, moved := [], token := none,
                lines := [] }] })
        | .ok s c => go ((s.modWg wg fun g => { g with copies := g.copies ++ [c] }).enterBuffers c) c

/-- COPY_TAKEUP (R228). -/
def execCopyTakeup (wg : Nat) (s : State) : Host.Outcome State Fault Refusal :=
  .next ((s.takeUp wg).getD s)

/-- The address of a copy's destination, within its space. -/
def Copy.base (c : Copy) : Nat := match c.dst with | .global va => va.toNat | .vault _ off => off

/-- The bytes of a destination that a copy writes whole: an aligned 8-byte word (R106), in global memory an aligned piece of
256 bytes, as a window takes one (R109, DEDUCED log 46). -/
def Copy.grain (c : Copy) : Nat := match c.dst with | .global _ => 256 | .vault _ _ => 8

/-- A range of a running copy that is still to move, and cuts no piece of its destination (R106, R109). -/
def Copy.toMove (c : Copy) (off len : Nat) : Bool :=
  decide (0 < len ∧ off + len ≤ c.len) && (off = 0 || (c.base + off) % c.grain = 0)
    && (off + len = c.len || (c.base + off + len) % c.grain = 0) && !c.moved.any fun r => meets off len r.1 r.2

/-- COPY_ARRIVAL (R230, R234). -/
def execCopyArrival (wg copy off len : Nat) (s : State) : Host.Outcome State Fault Refusal :=
  match (s.wg? wg).bind fun g => (g.running copy).map fun c => (g, c) with
  | none => .next s
  | some (g, c) =>
    if !c.toMove off len then .next s
    else match s.moveCopy g c off len with
      | .done s' => .next s'
      | .wait x => .next (s.askFor g c.index c.level x)
      | .fault _ _ => .next s

/-- Every byte of a copy has arrived. -/
def Copy.allMoved (c : Copy) : Bool := (c.moved.map fun r => r.2).foldl (· + ·) 0 = c.len

/-- The copy has read its last byte, or has failed. -/
def Copy.readAll (c : Copy) : Bool := c.allMoved || match c.state with | .failed _ => true | _ => false

/-- A copy out of a buffer has read its last byte or has failed: the buffer's drain is one less, and at none the buffer is
EMPTY, once every load accepted before is performed (R89, R95). -/
def State.leaveBuffer (s : State) (wg : Nat) (c : Copy) : State :=
  match c.drains with
  | none => s
  | some (x, k) =>
    let done (s : State) : State := s.modCopy wg c.index fun c => { c with drains := none }
    match (s.wg? x).bind fun w => (look w.buffers k).map fun b => (w, b) with
    | none => done s
    | some (w, b) =>
      if b.state ≠ .draining then done s
      else if 1 < b.drains then done (s.setWg { w with buffers := put w.buffers k { b with drains := b.drains - 1 } })
      else if s.loadsOut w.id b.base b.len then s
      else done (s.setWg { w with buffers := put w.buffers k { b with state := .empty, drains := 0 } })

/-- Buffers whose last byte has been drained leave DRAINING. -/
def State.leaveBuffers (s : State) : State :=
  s.wgs.foldl (fun s g => (g.copies.filter fun c => c.drains.isSome && c.readAll).foldl (fun s c => s.leaveBuffer g.id c) s) s

/-- The token of an ended transfer goes back to the pool (R271). -/
def State.returnToken (s : State) (c : Copy) : State :=
  match c.token with
  | some 1 => { s with power := { s.power with drainOut := s.power.drainOut - 1 } }
  | some _ => { s with power := { s.power with bulkOut := s.power.bulkOut - 1 } }
  | none => s

/-- A running copy ends in a status. -/
def State.endCopy (s : State) (g : Workgroup) (c : Copy) (st : CopyState) : State :=
  State.retireCopies g.id 256 ((s.returnToken c).modCopy g.id c.index fun c => { c with state := st })

/-- COPY_COMPLETE (R234): every byte is performed, and every arrival made. -/
def execCopyComplete (wg copy : Nat) (s : State) : Host.Outcome State Fault Refusal :=
  match (s.wg? wg).bind fun g => (g.running copy).map fun c => (g, c) with
  | none => .next s
  | some (g, c) => .next (if c.allMoved && c.owed = [] then s.endCopy g c .complete else s)

/-- Add an imprecise report to a workgroup's list (R376). -/
def Workgroup.report (g : Workgroup) (r : Report) : Workgroup :=
  if 4 ≤ g.reports.length then { g with impOvf := true } else { g with reports := g.reports ++ [r] }

/-- The smallest range from an offset that a copy may move by itself. -/
def Copy.least (c : Copy) (off : Nat) : Nat := min (c.len - off) (c.grain - (c.base + off) % c.grain)

/-- COPY_FAIL (R238): the bytes at `off` meet a translation or permission fault. What is on its way still lands, and the latch
receives no further arrival. -/
def execCopyFail (wg copy off : Nat) (s : State) : Host.Outcome State Fault Refusal :=
  match (s.wg? wg).bind fun g => (g.running copy).map fun c => (g, c) with
  | none => .next s
  | some (g, c) =>
    if !c.toMove off (c.least off) then .next s
    else match s.moveCopy g c off (c.least off) with
      | .fault s x =>
        let s := (s.endCopy g c (.failed x.cause.code)).modCopy wg c.index fun c =>
          { c with owed := c.owed.map fun o => { o with count := 0 } }
        .next ((s.logStop g.core x).modWg wg fun g =>
          g.report { cause := x.cause, number := copy % 65536, descent := false, wave := c.wave })
      | .wait x => .next (s.askFor g c.index c.level x)
      | .done _ => .next s

/-- XWAIT_TIMEOUT (R235): the promised time of a parked XWAIT has passed. -/
def execXwaitTimeout (die core slot lane : Nat) (s : State) : Host.Outcome State Fault Refusal :=
  match (s.waveAt (32 * die + core) slot).bind fun w => (w.threads[lane]?).map fun t => (w, t) with
  | none => .next s
  | some (w, t) =>
    match t.run with
    | .parked (.xwait n time nt d) len =>
      if !promisePassed s.pcc time then .next s
      else if nt then .next (s.setThread w.id lane (t.unpark len d [0]))
      else .next (s.setThread w.id lane ({ t with run := .running }.fault .copyLate (BitVec.ofNat 64 n) w.seq))
    | _ => .next s

end Sys2Proof.Machine
end

