-- ==== Sys2Proof/Machine/Ring.lean ====
section
/-! DEFINITION. The Revolving Door (R243-R253): the ring's geometry, its operations' eligibility and ends,
a slot's passage of a station, and the ring instructions. -/

namespace Sys2Proof.Machine

open Sys2Proof

/-! ## Geometry (R243, R244) -/

/-- Positions of the ring of `n` dies. -/
def ringLength (n : Nat) : Nat := 520 * n

/-- The first position of station `j`. -/
def stationPos (j : Nat) : Nat := 16 * j + 8 * (j / 32)

/-- The ring length of a partition. -/
def State.ringLen (s : State) (part : Nat) : Nat := ringLength (s.dieSet part).length

/-- Clocks since the ring was formed. -/
def State.ringTime (s : State) (part : Nat) : Nat := s.clk - (s.partition part).ring.formedAt

/-- The slot that enters a position now, by its position at forming. -/
def State.slotAt (s : State) (part pos : Nat) : Nat :=
  let n := s.ringLen part
  if n = 0 then 0 else (pos + n - s.ringTime part % n) % n

/-- The revolution count of slot `k` (R244). -/
def State.revolution (s : State) (part k : Nat) : Nat :=
  let n := s.ringLen part
  let r := (s.partition part).ring
  if n = 0 then 0 else ((k + s.ringTime part) / n - (k + (r.clearedAt - r.formedAt)) / n) % 2 ^ 32

/-- An empty slot. -/
def Slot.empty : Slot := { tag := 0, payload := List.replicate 16 0, ghost := none }

/-- Slot `k` of a partition; a ghost lasts until its slot enters position 0 (R247). -/
def State.slot (s : State) (part k : Nat) : Slot :=
  let x := lookD Slot.empty (s.partition part).ring.slots k
  match x.ghost with
  | some (_, r) => if r = s.revolution part k then x else { x with ghost := none }
  | none => x

/-- Set slot `k`; a plainly empty one is not listed. -/
def State.setSlot (s : State) (part k : Nat) (x : Slot) : State :=
  let p := s.partition part
  let slots := if x.tag = 0 && x.ghost.isNone then drop p.ring.slots k else put p.ring.slots k x
  s.setPartition part { p with ring := { p.ring with slots := slots } }

/-- The station of a core of a partition. -/
def State.stationOf (s : State) (part core : Nat) : Nat := (s.dieSet part).idxOf (dieOf core) * 32 + core % 32

/-- The core of a station of a partition. -/
def State.stationCore (s : State) (part j : Nat) : Nat := (s.dieSet part).getD (j / 32) 8 * 32 + j % 32

/-! ## Ends of operations (R247, R248, R250) -/

/-- The statuses of R248. -/
def ringDone : Nat := 0
def ringAlighted : Nat := 1
def ringMissing : Nat := 2
def ringRefused : Nat := 3

/-- The status word; `rev` counts only for DONE. -/
def ringStatus (st rev : Nat) : Word := BitVec.ofNat 32 (st + (if st = ringDone then rev % 65536 * 65536 else 0))

/-- An operation leaves the capture table. -/
def State.dropRingOp (s : State) (id : Nat) : State := { s with ringOps := s.ringOps.filter fun o => o.id ≠ id }

/-- A thread parked in a ring operation goes on with these pushes, and its destination written. -/
def Thread.ringResult (t : Thread) (d : Option Nat) (pushes regs : List Word) : Thread :=
  match t.run with
  | .parked (.ring _) len => ({ (t.pushAll pushes).lateD d regs with run := .running }).advance len
  | _ => t

/-- The sixteen words of a run that a capture read, zeros where it read none (R208, R325) (DEDUCED log 33). -/
def runOf (read : List Word) : List Word := (List.range 16).map (word read)

/-- An operation ends: with a status, and on DONE with what it read (R248-R250, R325). -/
def State.endRing (s : State) (o : RingOp) (st rev : Nat) (read : List Word) : State :=
  let s := s.dropRingOp o.id
  let status := ringStatus st rev
  s.modThread o.wave o.lane fun t =>
    match o.kind with
    | .cap true _ => t.ringResult o.d [status] read
    | .cap false _ | .alight _ => t.ringResult o.d ((runOf read).reverse ++ [status]) read
    | .board _ _ => t.ringResult none [status] []
    | .rmw _ _ true _ _ _ _ _ => t.ringResult o.d [word read 1, word read 0, status] read
    | .rmw _ _ false _ _ _ _ _ =>
      if st = ringAlighted then { t with failAlighted := true }
      else if st = ringMissing then { t with failMissing := true }
      else t

/-! ## Eligibility (R245) -/

/-- The operation asks for a release (R132). -/
def RingKind.rel : RingKind → Bool
  | .rmw _ _ _ r _ _ _ _ => r
  | _ => false

/-- The conditions of R245 hold. -/
def State.ringReady (s : State) (o : RingOp) : Bool :=
  decide (o.issuedAt + 8 ≤ s.clk) && (!o.kind.rel || s.released o.wave o.lane o.seq .pkg allClasses)
    && (!o.ord || !s.ringOps.any fun p => p.wave = o.wave && p.lane = o.lane && decide (p.id < o.id))

/-- The clk from whose passage on an operation of a core watches its station: the next one, where this clk's passage is
done. -/
def State.ringFrom (s : State) (o : RingOp) : Nat :=
  if (s.partition o.part).ring.passed.contains (s.stationOf o.part o.core) then s.clk + 1 else s.clk

/-- An operation becomes eligible now, where it may. -/
def State.ringEligible (s : State) (id : Nat) : State :=
  { s with ringOps := s.ringOps.map fun o =>
      if o.id = id && o.eligible.isNone && s.ringReady o then { o with eligible := some (s.ringFrom o) } else o }

/-- Every operation whose conditions hold becomes eligible. -/
def State.ringAllEligible (s : State) : State :=
  if s.ringOps.any fun o => o.eligible.isNone then
    { s with ringOps := s.ringOps.map fun o =>
        if o.eligible.isNone && s.ringReady o then { o with eligible := some (s.ringFrom o) } else o }
  else s

/-- RING_OP_ELIGIBLE (R245). -/
def execRingOpEligible (op : Nat) (s : State) : Host.Outcome State Fault Refusal := .next (s.ringEligible op)

/-- Clocks since an operation became eligible. -/
def State.ringWaited (s : State) (o : RingOp) : Nat := (o.eligible.map fun e => s.clk - e).getD 0

def RingKind.isBoard : RingKind → Bool
  | .board _ _ => true
  | _ => false

/-- An operation is MISSING once a revolution has passed (R247). -/
def State.ringMissing (s : State) (o : RingOp) : State :=
  if !o.kind.isBoard && o.eligible.isSome && decide (s.ringLen o.part ≤ s.ringWaited o) then s.endRing o 2 0 [] else s

/-- RING_OP_MISSING (R247). -/
def execRingOpMissing (op : Nat) (s : State) : Host.Outcome State Fault Refusal :=
  match s.ringOps.find? fun o => o.id = op with
  | some o => .next (s.ringMissing o)
  | none => .next s

/-- A probe that met no slot of its tag ends, and a board that met no empty slot in four revolutions
raises RING_FULL (R251). -/
def State.ringFull (s : State) (o : RingOp) : State :=
  if !o.kind.isBoard || o.eligible.isNone then s
  else if o.probing then
    if s.ringLen o.part ≤ s.ringWaited o then
      { s with ringOps := s.ringOps.map fun p => if p.id = o.id then { p with probing := false, eligible := some s.clk } else p }
    else s
  else if 4 * s.ringLen o.part ≤ s.ringWaited o then
    (s.dropRingOp o.id).modThread o.wave o.lane fun t =>
      match t.run with
      | .parked (.ring _) _ => { t with run := .running }.fault .ringFull (o.tag.zeroExtend 64) o.seq
      | _ => t
  else s

/-- RING_FULL (R251). -/
def execRingFull (op : Nat) (s : State) : Host.Outcome State Fault Refusal :=
  match s.ringOps.find? fun o => o.id = op with
  | some o => .next (s.ringFull o)
  | none => .next s

/-! ## A slot passes a station (R246, R250, R251) -/

/-- The new word pair of RDRMW on the old one (R250). -/
def rmwValue (op : Nat) (unsigned : Bool) (old b c : DWord) : DWord :=
  match op with
  | 0 => old + b
  | 1 => if (if unsigned then decide (b.toNat < old.toNat) else decide (b.toInt < old.toInt)) then b else old
  | 2 => if (if unsigned then decide (old.toNat < b.toNat) else decide (old.toInt < b.toInt)) then b else old
  | 3 => b
  | 4 => if old = c then b else old
  | 5 => old ||| b
  | _ => old &&& b

/-- The 8-byte word `i` of a payload. -/
def payloadPair (p : List Word) (i : Nat) : DWord := pair (word p (2 * i)) (word p (2 * i + 1))

/-- A payload with its 8-byte word `i` set. -/
def setPayloadPair (p : List Word) (i : Nat) (v : DWord) : List Word :=
  setAt (setAt p (2 * i) (loWord v)) (2 * i + 1) (hiWord v)

/-- One operation meets the passing slot `k`; `boarded` tells that its station has boarded it in this
passage. -/
def State.ringMeet (part k : Nat) (x : State × Bool) (o : RingOp) : State × Bool :=
  let (s, boarded) := x
  let sl := s.slot part k
  let rev := s.revolution part k
  if boarded || o.eligible.isNone then x
  else
    match o.kind with
    | .board payload _ =>
      if o.probing then (if sl.tag = o.tag then s.endRing o 3 0 [] else s, false)
      else if sl.tag = 0 then
        ((s.setSlot part k { tag := o.tag, payload := payload, ghost := none }).endRing o 0 rev [], true)
      else x
    | kind =>
      if sl.tag = o.tag then
        match kind with
        | .cap true _ => (s.endRing o 0 rev [word sl.payload (2 * o.word), word sl.payload (2 * o.word + 1)], false)
        | .cap false _ => (s.endRing o 0 rev sl.payload, false)
        | .alight _ =>
          ((s.setSlot part k { tag := 0, payload := sl.payload, ghost := some (sl.tag, rev) }).endRing o 0 rev sl.payload, false)
        | .rmw op u _ _ b c run mask =>
          let old := payloadPair sl.payload o.word
          let payload :=
            if op = 7 then
              (List.range 16).map fun i => if mask.getLsbD i then word run i else word sl.payload i
            else setPayloadPair sl.payload o.word (rmwValue op u old b c)
          ((s.setSlot part k { sl with payload := payload }).endRing o 0 rev [loWord old, hiWord old], false)
        | .board _ _ => x
      else if (sl.ghost.map fun g => g.1) = some o.tag then (s.endRing o 1 0 [], false)
      else x

/-- The operations of a core's station in issue order. -/
def State.stationOps (s : State) (part core : Nat) : List RingOp :=
  s.ringOps.filter fun o => o.part = part && o.core = core

/-- The slot now at a station passes it, once in each clk. -/
def State.ringPass (s : State) (part j : Nat) : State :=
  let p := s.partition part
  if 32 * (s.dieSet part).length ≤ j || p.ring.passed.contains j then s
  else
    let k := s.slotAt part (stationPos j)
    let s1 := s.setPartition part { p with ring := { p.ring with passed := p.ring.passed ++ [j] } }
    ((s.stationOps part (s.stationCore part j)).foldl (State.ringMeet part k) (s1, false)).1

/-- RING_SLOT_PASS (R246). -/
def execRingSlotPass (part station : Nat) (s : State) : Host.Outcome State Fault Refusal :=
  .next (if s.exists_ part then s.ringPass part station else s)

/-- Every slot passes the station at which it stands before the clock goes on (DEDUCED log 29). -/
def State.ringPasses (s : State) : State :=
  s.ringOps.foldl (fun (s : State) (o : RingOp) => s.ringPass o.part (s.stationOf o.part o.core)) s

/-- The new clk on the rings: no passage is done, and the operations whose time is up end. -/
def State.ringClock (s : State) : State :=
  let s : State := { s with parts := s.parts.map fun p => (p.1, { p.2 with ring := { p.2.ring with passed := [] } }) }
  s.ringOps.foldl (fun s o => (s.ringMissing o).ringFull o) s

/-! ## The instructions (R249-R252) -/

/-- Entries of a core's capture table. -/
def captureTable : Nat := 32

/-- Issue a ring operation (R245): it waits while the table is full. A parked one ends at its slot. -/
def issueRing (f : Fields) (s : State) (w : Wave) (lane : Nat) (t : Thread) (kind : RingKind) (wordNo : Nat) (ord parks : Bool)
    (d : Option Nat) : TRes :=
  let tag := read32 s w lane t f f.a
  if tag = 0 then .fault .illegal 7
  else if captureTable ≤ (s.ringOps.filter fun o => o.core = w.core).length || t.acquiring then .hold s
  else
    let o : RingOp :=
      { id := s.nextId, part := s.partOfWave w, core := w.core, wave := w.id, lane := lane, seq := w.seq, tag := tag,
        word := wordNo, kind := kind, ord := ord, d := d, issuedAt := s.clk, eligible := none,
        probing := match kind with | .board _ u => u | _ => false }
    .done { s.fresh with ringOps := s.ringOps ++ [o] } (if parks then t.park (.ring o.id) f else t.advance f.form.len)

/-- RDCAP (R250) (DEDUCED log 33). -/
def execRdcap (f : Fields) (s : State) : Host.Outcome State Fault Refusal :=
  execEach (shapeRdcap f) f (fun s w lane t =>
    issueRing f s w lane t (.cap (bit f.m 3) (bit f.m 4)) (bits f.m 0 3) (bit f.m 5) true f.d.reg) s

/-- RDRMW (R250). -/
def execRdrmw (f : Fields) (s : State) : Host.Outcome State Fault Refusal :=
  execEach (shapeRdrmw f) f (fun s w lane t =>
    let op := bits f.m 3 3
    let mask := if f.form = .f128 then read32 s w lane t f f.e else 0xFFFF
    if 65536 ≤ mask.toNat then .fault .illegal 7
    else
      let b := if op = 7 then 0 else read64 s w lane t f f.b
      let c := if op = 4 then read64 s w lane t f f.c else 0
      let run := if op = 7 then readRun t f.b 16 else []
      issueRing f s w lane t (.rmw op (bit f.m 6) (bit f.m 7) (bit f.m 8) b c run (mask.extractLsb' 0 16)) (bits f.m 0 3)
        (bit f.m 9) (bit f.m 7) f.d.reg) s

/-- RDBOARD (R251). -/
def execRdboard (f : Fields) (s : State) : Host.Outcome State Fault Refusal :=
  execEach (shapeRdboard f) f (fun s w lane t =>
    issueRing f s w lane t (.board (readRun t f.b 16) (bit f.m 0)) 0 (bit f.m 1) true none) s

/-- RDALIGHT (R250). -/
def execRdalight (f : Fields) (s : State) : Host.Outcome State Fault Refusal :=
  execEach (shapeRdalight f) f (fun s w lane t =>
    issueRing f s w lane t (.alight (bit f.m 0)) 0 (bit f.m 1) true f.d.reg) s

/-- A posted operation: an RDRMW without `.RET`. -/
def RingKind.posted : RingKind → Bool
  | .rmw _ _ r _ _ _ _ _ => !r
  | _ => false

/-- The posted operations of a thread. -/
def State.postedOps (s : State) (wave lane : Nat) : List RingOp :=
  s.ringOps.filter fun o => o.wave = wave && o.lane = lane && o.kind.posted

/-- The failure mask of RDFENCE (R252). -/
def Thread.failMask (t : Thread) : Word := (if t.failAlighted then 2 else 0) + (if t.failMissing then 4 else 0)

/-- The failures are reported. -/
def Thread.failClear (t : Thread) : Thread := { t with failAlighted := false, failMissing := false }

/-- RDFENCE (R252). -/
def execRdfence (f : Fields) (s : State) : Host.Outcome State Fault Refusal :=
  execEach (shapeDOnly f) f (fun s w lane t =>
    if s.postedOps w.id lane = [] then .done s ((t.failClear.result f.d.reg [t.failMask]).advance f.form.len)
    else .done s (t.park (.rdfence f.d.reg) f)) s

/-- RDCANCEL (R252): what applies in this clk applies first. -/
def execRdcancel (f : Fields) (s : State) : Host.Outcome State Fault Refusal :=
  execEach (shapeDOnly f) f (fun s0 w lane t0 =>
    let part := s0.partOfWave w
    let s := s0.ringAllEligible.ringPass part (s0.stationOf part w.core)
    let t := match s.thread? w.id lane with
      | some u => { t0 with failAlighted := u.failAlighted, failMissing := u.failMissing }
      | none => t0
    let n := (s.postedOps w.id lane).length
    .done { s with ringOps := s.ringOps.filter fun o => !(o.wave = w.id && o.lane = lane && o.kind.posted) }
      ((t.result f.d.reg [BitVec.ofNat 32 n]).advance f.form.len)) s

/-! ## The exit of a wave (R172) -/

/-- Pending ring operations of a wave are withdrawn. -/
def State.withdrawRing (s : State) (wave : Nat) : State :=
  { s with ringOps := s.ringOps.filter fun o => o.wave ≠ wave }

/-- They are withdrawn as by RDCANCEL: what applies in this clk applies first (R252). -/
def State.cancelRing (s : State) (w : Wave) : State :=
  if s.ringOps.any fun o => o.wave = w.id then
    let part := s.partOfWave w
    (s.ringAllEligible.ringPass part (s.stationOf part w.core)).withdrawRing w.id
  else s

/-- What follows from the exit of a wave's last thread (R172): its blocks, phaser registrations and ring
operations, and for a handler the end of its message (R31, R180). -/
def State.waveExit (s : State) (w : Wave) : State :=
  let s := ((s.returnBlocks w 0 w.blocks).dropPhasers w).cancelRing w
  match w.kind with
  | .handler (some e) _ => s.modEntry e fun e => { e with messages := e.messages - 1 }
  | _ => s

/-- The exit of a wave whose threads have all exited by now. -/
def State.waveExits (s : State) (wave : Nat) : State :=
  match s.wave? wave with
  | some w => if w.exited then s.waveExit w else s
  | none => s

/-- Waves that have exited leave the phasers to which their signal was owed, once it is given (R172, R241). -/
def State.leaveExited (s : State) : State :=
  (s.waves.filter fun w => w.exited).foldl State.dropPhasers s

/-- EXIT (R172). -/
def execExit (f : Fields) (s : State) : Host.Outcome State Fault Refusal :=
  match execEach (shapeBare f) f (fun s _ _ t => .done s { t with run := .exited }) s, s.cur with
  | .next s', .group wave _ => .next (s'.waveExits wave)
  | r, _ => r

end Sys2Proof.Machine
end

