-- ==== Sys2Proof/Machine/Integer.lean ====
section
/-! DEFINITION. The integer and predicate instructions (R181-R189). -/

namespace Sys2Proof.Machine

open Sys2Proof

/-! ## Shared forms -/

/-- A result of one word from 32-bit sources A, B and C. -/
def result3 (sh : Shape) (f : Fields) (g : Word → Word → Word → Word) (s : State) : Host.Outcome State Fault Refusal :=
  execPure sh f (fun s w l t =>
    t.result f.d.reg [g (read32 s w l t f f.a) (read32 s w l t f f.b) (read32 s w l t f f.c)]) s

/-- A result pair from a 64-bit value. -/
def Thread.result64 (t : Thread) (d : Option Nat) (v : DWord) : Thread := t.result d [loWord v, hiWord v]

/-! ## Arithmetic (R182) -/

/-- A sum or difference `x` of signed readings, `y` of unsigned ones, in the overflow mode (R182). -/
def overflow (w : Nat) (ov : Nat) (x y : Int) : BitVec w :=
  if ov = 1 then BitVec.ofInt w (satInt x (-(2 ^ (w - 1))) (2 ^ (w - 1) - 1))
  else if ov = 2 then BitVec.ofInt w (satInt y 0 (2 ^ w - 1))
  else BitVec.ofInt w x

def addValue {w : Nat} (ov : Nat) (a b : BitVec w) : BitVec w :=
  overflow w ov (a.toInt + b.toInt) (a.toNat + b.toNat)

def subValue {w : Nat} (ov : Nat) (a b : BitVec w) : BitVec w :=
  overflow w ov (a.toInt - b.toInt) ((a.toNat : Int) - b.toNat)

/-- An integer reading of a word, signed or unsigned. -/
def reading {w : Nat} (unsigned : Bool) (a : BitVec w) : Int := if unsigned then a.toNat else a.toInt

def mulhValue (unsigned : Bool) (a b : Word) : Word :=
  hiWord (BitVec.ofInt 64 (reading unsigned a * reading unsigned b))

def minValue (unsigned : Bool) (a b : Word) : Word := if reading unsigned a ≤ reading unsigned b then a else b

def maxValue (unsigned : Bool) (a b : Word) : Word := if reading unsigned a ≤ reading unsigned b then b else a

def absValue (sat : Bool) (a : Word) : Word :=
  let x : Int := a.toInt.natAbs
  BitVec.ofInt 32 (if sat then satInt x 0 (2 ^ 31 - 1) else x)

/-- IADD (R182). -/
def execIadd (f : Fields) (s : State) : Host.Outcome State Fault Refusal :=
  result3 (shapeAddSub f) f (fun a b _ => addValue (bits f.m 0 2) a b) s

/-- ISUB (R182). -/
def execIsub (f : Fields) (s : State) : Host.Outcome State Fault Refusal :=
  result3 (shapeAddSub f) f (fun a b _ => subValue (bits f.m 0 2) a b) s

/-- IADD64 (R182). -/
def execIadd64 (f : Fields) (s : State) : Host.Outcome State Fault Refusal :=
  execPure (shapeAddSub64 f) f (fun s w l t =>
    t.result64 f.d.reg (addValue (bits f.m 0 2) (read64 s w l t f f.a) (read64 s w l t f f.b))) s

/-- ISUB64 (R182). -/
def execIsub64 (f : Fields) (s : State) : Host.Outcome State Fault Refusal :=
  execPure (shapeAddSub64 f) f (fun s w l t =>
    t.result64 f.d.reg (subValue (bits f.m 0 2) (read64 s w l t f f.a) (read64 s w l t f f.b))) s

/-- IMUL (R182). -/
def execImul (f : Fields) (s : State) : Host.Outcome State Fault Refusal :=
  result3 (shapeDAB f 0) f (fun a b _ => a * b) s

/-- IMULH (R182). -/
def execImulh (f : Fields) (s : State) : Host.Outcome State Fault Refusal :=
  result3 (shapeDAB f 1) f (fun a b _ => mulhValue (bit f.m 0) a b) s

/-- IMAD (R182). -/
def execImad (f : Fields) (s : State) : Host.Outcome State Fault Refusal :=
  result3 (shapeDABC f 0) f (fun a b c => a * b + c) s

/-- IMADW (R182). -/
def execImadw (f : Fields) (s : State) : Host.Outcome State Fault Refusal :=
  execPure (shapeImadw f) f (fun s w l t =>
    let a := read32 s w l t f f.a
    let b := read32 s w l t f f.b
    let u := bit f.m 0
    t.result64 f.d.reg (BitVec.ofInt 64 (reading u a * reading u b) + read64 s w l t f f.c)) s

/-- IMIN (R182). -/
def execImin (f : Fields) (s : State) : Host.Outcome State Fault Refusal :=
  result3 (shapeDAB f 1) f (fun a b _ => minValue (bit f.m 0) a b) s

/-- IMAX (R182). -/
def execImax (f : Fields) (s : State) : Host.Outcome State Fault Refusal :=
  result3 (shapeDAB f 1) f (fun a b _ => maxValue (bit f.m 0) a b) s

/-- IABS (R182). -/
def execIabs (f : Fields) (s : State) : Host.Outcome State Fault Refusal :=
  result3 (shapeDA f 1) f (fun a _ _ => absValue (bit f.m 0) a) s

/-! ## Shifts (R183) -/

/-- The count of ISHL and ISHR. -/
def shiftCount (wrap : Bool) (b : Word) : Nat := if wrap then b.toNat % 32 else min b.toNat 32

/-- The pair shift of SHF (R183). -/
def shfValue (wrap hi : Bool) (a b c : Word) : Word :=
  let n : Int := if wrap then (c.toInt + 64) % 128 - 64 else satInt c.toInt (-64) 64
  let v := pair a b
  let w := if 0 ≤ n then v <<< n.toNat else v >>> (-n).toNat
  if hi then hiWord w else loWord w

/-- ISHL (R183). -/
def execIshl (f : Fields) (s : State) : Host.Outcome State Fault Refusal :=
  result3 (shapeDAB f 1) f (fun a b _ => a <<< shiftCount (bit f.m 0) b) s

/-- ISHR (R183). -/
def execIshr (f : Fields) (s : State) : Host.Outcome State Fault Refusal :=
  result3 (shapeDAB f 3) f (fun a b _ =>
    if bit f.m 1 then a.sshiftRight (shiftCount (bit f.m 0) b) else a >>> shiftCount (bit f.m 0) b) s

/-- SHF (R183). -/
def execShf (f : Fields) (s : State) : Host.Outcome State Fault Refusal :=
  result3 (shapeDABC f 3) f (shfValue (bit f.m 0) (bit f.m 1)) s

/-! ## Bits (R184, R185, R186) -/

/-- A word from its bits. -/
def ofBits (g : Nat → Bool) : Word :=
  BitVec.ofNat 32 ((List.range 32).foldl (fun acc i => acc + (if g i then 2 ^ i else 0)) 0)

/-- LOP3's table, one index per bit. -/
def lop3Value (table : Nat) (a b c : Word) : Word :=
  ofBits fun i => table.testBit ((if bit a i then 1 else 0) + (if bit b i then 2 else 0) + (if bit c i then 4 else 0))

def popcount (a : Word) : Nat := ((List.range 32).filter fun i => bit a i).length

/-- The zeros above the highest set bit. -/
def leadingZeros (a : Word) : Nat := if a = 0 then 32 else 31 - Nat.log2 a.toNat

/-- LOP3 (R184). -/
def execLop3 (f : Fields) (s : State) : Host.Outcome State Fault Refusal :=
  result3 (shapeDABC f 0xFF) f (lop3Value f.m.toNat) s

/-- POPC (R184). -/
def execPopc (f : Fields) (s : State) : Host.Outcome State Fault Refusal :=
  result3 (shapeDA f 0) f (fun a _ _ => BitVec.ofNat 32 (popcount a)) s

/-- CLZ (R184). -/
def execClz (f : Fields) (s : State) : Host.Outcome State Fault Refusal :=
  result3 (shapeDA f 0) f (fun a _ _ => BitVec.ofNat 32 (leadingZeros a)) s

/-- BREV (R184). -/
def execBrev (f : Fields) (s : State) : Host.Outcome State Fault Refusal :=
  result3 (shapeDA f 0) f (fun a _ _ => ofBits fun i => bit a (31 - i)) s

/-- BFE (R185). -/
def bfeValue (signed : Bool) (a b : Word) : Word :=
  let pos := bits b 0 8
  let ln := min (bits b 8 8) 32
  if ln = 0 then 0
  else
    let x : Int := if signed then a.toInt else a.toNat
    let fv : Nat := (x / 2 ^ pos % 2 ^ ln).toNat
    if signed ∧ 2 ^ (ln - 1) ≤ fv then BitVec.ofInt 32 ((fv : Int) - 2 ^ ln) else BitVec.ofNat 32 fv

/-- BFI (R185). -/
def bfiValue (a b c : Word) : Word :=
  let pos := bits b 0 8
  let ln := min (bits b 8 8) 32
  let mk : Word := BitVec.ofNat 32 ((2 ^ ln - 1) * 2 ^ pos)
  (c &&& ~~~mk) ||| ((a <<< pos) &&& mk)

/-- One result byte of PRMT, given the result byte below it (R186). -/
def prmtByte (a b : Word) (k : Nat) (below : Option Nat) : Nat :=
  if k < 4 then bits a (8 * k) 8
  else if k < 8 then bits b (8 * (k - 4)) 8
  else if k = 9 then 0xFF
  else if k = 10 then (match below with | some v => if 128 ≤ v then 0xFF else 0 | none => 0)
  else 0

/-- PRMT (R186). -/
def prmtValue (a b c : Word) : Word :=
  let r0 := prmtByte a b (bits c 0 4) none
  let r1 := prmtByte a b (bits c 4 4) (some r0)
  let r2 := prmtByte a b (bits c 8 4) (some r1)
  let r3 := prmtByte a b (bits c 12 4) (some r2)
  BitVec.ofNat 32 (r0 + r1 * 2 ^ 8 + r2 * 2 ^ 16 + r3 * 2 ^ 24)

/-- BFE (R185). -/
def execBfe (f : Fields) (s : State) : Host.Outcome State Fault Refusal :=
  result3 (shapeDAB f 1) f (fun a b _ => bfeValue (bit f.m 0) a b) s

/-- BFI (R185). -/
def execBfi (f : Fields) (s : State) : Host.Outcome State Fault Refusal :=
  result3 (shapeDABC f 0) f bfiValue s

/-- PRMT (R186). -/
def execPrmt (f : Fields) (s : State) : Host.Outcome State Fault Refusal :=
  result3 (shapeDABC f 0) f prmtValue s

/-! ## Moves (R187) -/

/-- LEA (R187). -/
def execLea (f : Fields) (s : State) : Host.Outcome State Fault Refusal :=
  execPure (shapeLea f) f (fun s w l t =>
    let b := read32 s w l t f f.b
    let x : DWord := if bit f.m 3 then b.zeroExtend 64 else b.signExtend 64
    t.result64 f.d.reg (read64 s w l t f f.a + (x <<< bits f.m 0 3))) s

/-- SEL (R187). -/
def execSel (f : Fields) (s : State) : Host.Outcome State Fault Refusal :=
  execPure (shapeSel f) f (fun s w l t =>
    t.result f.d.reg
      [if readPred t f.c != bit f.m 0 then read32 s w l t f f.a else read32 s w l t f f.b]) s

/-- MOV (R187). -/
def execMov (f : Fields) (s : State) : Host.Outcome State Fault Refusal :=
  execPure (shapeMov f) f (fun s w l t =>
    if bit f.m 0 then t.result64 f.d.reg (read64 s w l t f f.a)
    else t.result f.d.reg [read32 s w l t f f.a]) s

/-- MOVI (R187). -/
def execMovi (f : Fields) (s : State) : Host.Outcome State Fault Refusal :=
  execPure (shapeMovi f) f (fun _ _ _ t =>
    if bit f.m 0 then t.result64 f.d.reg (f.imm.signExtend 64) else t.result f.d.reg [f.imm]) s

/-- MOVW (R187). -/
def execMovw (f : Fields) (s : State) : Host.Outcome State Fault Refusal :=
  result3 (shapeDAB f 1) f (fun a b _ =>
    if bit f.m 0 then b.extractLsb' 0 16 ++ a.extractLsb' 0 16 else a.extractLsb' 16 16 ++ b.extractLsb' 0 16) s

/-! ## Compares and predicates (R188, R189) -/

/-- A compare: its condition in a thread, under the combining type of M[2:0] (R148, R149). -/
def execCompare (sh : Shape) (f : Fields) (c : State → Wave → Nat → Thread → Bool) (s : State) :
    Host.Outcome State Fault Refusal :=
  execLanes .user sh f (fun t => (t.countIssue.compareOff f.d (bits f.m 0 3)).advance f.form.len)
    (fun s w l t => .done s ((t.compare f.d (bits f.m 0 3) (c s w l t)).advance f.form.len)) s

/-- ICMP (R188). -/
def execIcmp (f : Fields) (s : State) : Host.Outcome State Fault Refusal :=
  execCompare (shapeIcmp f .s32) f (fun s w l t =>
    let a := reading (bit f.m 6) (read32 s w l t f f.a)
    let b := reading (bit f.m 6) (read32 s w l t f f.b)
    intCond (bits f.m 3 3) (a < b) (a = b)) s

/-- ICMP64 (R188). -/
def execIcmp64 (f : Fields) (s : State) : Host.Outcome State Fault Refusal :=
  execCompare (shapeIcmp f .s64) f (fun s w l t =>
    let a := reading (bit f.m 6) (read64 s w l t f f.a)
    let b := reading (bit f.m 6) (read64 s w l t f f.b)
    intCond (bits f.m 3 3) (a < b) (a = b)) s

/-- PLOP (R189). -/
def execPlop (f : Fields) (s : State) : Host.Outcome State Fault Refusal :=
  execPure (shapePlop f) f (fun _ _ _ t =>
    let i := (if readPred t f.a then 1 else 0) + (if readPred t f.b then 2 else 0) + (if readPred t f.c then 4 else 0)
    let v := bit f.m i
    let (p1, p2) := predTargets f.d
    (t.setPred p1 v).setPred p2 (!v)) s

/-- PPACK (R189). -/
def execPpack (f : Fields) (s : State) : Host.Outcome State Fault Refusal :=
  execPure (shapePpack f) f (fun _ _ _ t =>
    t.result f.d.reg [ofBits fun i => decide (i < 8) && t.pred i]) s

/-- PSET (R189). -/
def execPset (f : Fields) (s : State) : Host.Outcome State Fault Refusal :=
  execPure (shapePset f) f (fun s w l t =>
    let a := read32 s w l t f f.a
    [1, 2, 3, 4, 5, 6, 7].foldl (fun t i => if bit f.m i then t.setPred i (bit a i) else t) t) s

end Sys2Proof.Machine
end

