-- ==== Sys2Proof/Machine/Special.lean ====
section
/-! DEFINITION. The special functions whose results R193 bounds and does not fix, FEX2 to FSIGM: the exact
functions in fixed point with 256 fraction bits, and the part's own results within the bounds (DESIGN CHOICE log 5). -/

namespace Sys2Proof.Machine

open Sys2Proof

/-! ## Fixed point -/

/-- The fraction bits. -/
def fixBits : Nat := 256

def fixOne : Int := 2 ^ fixBits

/-- The product of two fixed-point numbers, rounded down. -/
def fixMul (a b : Int) : Int := a * b / fixOne

/-- A finite FP32 value in fixed point, which is exact. -/
def toFix (neg : Bool) (m : Nat) (e : Int) : Int := toInt neg m e (-fixBits)

/-- A fixed-point number as a value. -/
def ofFix (v : Int) : FVal := .fin (v < 0) v.natAbs (-fixBits)

/-- pi, to 256 bits. -/
def fixPi : Int := 0x3243f6a8885a308d313198a2e03707344a4093822299f31d0082efa98ec4e6c89

/-- The natural logarithm of 2, to 256 bits. -/
def fixLn2 : Int := 0xb17217f7d1cf79abc9e3b39803f2f6af40f343267298b62d8a0d175b8baafa2b

/-! ## Series -/

/-- The terms of e^r from `t`, term `k`. -/
def expSum : Nat → Int → Int → Nat → Int
  | 0, _, _, _ => 0
  | n + 1, r, t, k => t + expSum n r (fixMul t r / (k + 1 : Nat)) (k + 1)

/-- The alternating series of sine and cosine from `t`, of degree `k`; `r2` is the square. -/
def altSum : Nat → Int → Int → Nat → Int
  | 0, _, _, _ => 0
  | n + 1, r2, t, k => t + altSum n r2 (-(fixMul t r2) / ((k + 1) * (k + 2) : Nat)) (k + 2)

/-- The terms of the inverse hyperbolic tangent from the power `p`, of degree `k`. -/
def atanhSum : Nat → Int → Int → Nat → Int
  | 0, _, _, _ => 0
  | n + 1, z2, p, k => p / (k : Nat) + atanhSum n z2 (fixMul p z2) (k + 2)

/-- e^x. -/
def fixExp (x : Int) : Int :=
  let n := x / fixLn2
  let v := expSum 64 (x - n * fixLn2) fixOne 0
  if n < 0 then v / 2 ^ (-n).toNat else v * 2 ^ n.toNat

/-- sin (x + quarter × pi/2). -/
def fixSin (quarter : Int) (x : Int) : Int :=
  let q := 2 * x / fixPi
  let r := (2 * x - q * fixPi) / 2
  let r2 := fixMul r r
  match (q + quarter) % 4 with
  | 0 => altSum 48 r2 r 1
  | 1 => altSum 48 r2 fixOne 0
  | 2 => -(altSum 48 r2 r 1)
  | _ => -(altSum 48 r2 fixOne 0)

/-- log2 (m × 2^e), m not 0. -/
def fixLog2 (m : Nat) (e : Int) : Int :=
  let t : Int := (m <<< (fixBits - Nat.log2 m) : Nat)
  let z := (t - fixOne) * fixOne / (t + fixOne)
  (e + Nat.log2 m) * fixOne + 2 * atanhSum 96 (fixMul z z) z 1 * fixOne / fixLn2

/-- The input of a function that has reached its limit outside [-64, 64]. -/
def fixLimit (x : Int) : Int := max (-64 * fixOne) (min (64 * fixOne) x)

/-- 1 / (1 + e^-x). -/
def fixSigm (x : Int) : Int := fixOne * fixOne / (fixOne + fixExp (-(fixLimit x)))

/-- tanh x. -/
def fixTanh (x : Int) : Int := 2 * fixSigm (2 * fixLimit x) - fixOne

/-! ## Results within a bound -/

/-- `n` units in the last place of the FP32 value nearest below a fixed-point number. -/
def ulps (n : Nat) (v : Int) : Int := n * 2 ^ (max (Nat.log2 v.natAbs) (fixBits - 126) - 23)

/-- A word is a value within `tol` of `v`; the series' own error is left inside. -/
def nearFix (w : Word) (v tol : Int) : Bool :=
  match f32 w with
  | .fin s m e => decide ((toFix s m e - v).natAbs ≤ (tol + 2 ^ 64).toNat)
  | _ => false

/-- The part's result for special function `op`, where it lies within `tol` of the exact one, and otherwise the
nearest word (DESIGN CHOICE log 5). -/
def bounded (op : Nat) (a : Word) (v tol : Int) : Word :=
  if nearFix (Config.special op a) v tol then Config.special op a else rne32 (ofFix v)

/-- 2^-n in fixed point. -/
def fixPart (n : Nat) : Int := 2 ^ (fixBits - n)

/-- FEX2 of a value that is not an integer from -126 to 127. -/
def fex2Fin (a : Word) (x : Int) : Word :=
  if 128 * fixOne ≤ x then 0x7F800000
  else if x < -160 * fixOne then 0
  else
    let v := fixExp (fixMul x fixLn2)
    bounded 3 a v (ulps 2 v)

/-- FLG2 of a positive value that is no power of two. -/
def flg2Fin (a : Word) (m : Nat) (e : Int) : Word :=
  let v := fixLog2 m e
  bounded 4 a v (if 0x3F000000#32 ≤ a && a ≤ 0x40000000#32 then fixPart 22 else ulps 2 v)

def fsinFin (a : Word) (x : Int) : Word := bounded 5 a (fixSin 0 x) (fixPart 21)

def fcosFin (a : Word) (x : Int) : Word := bounded 6 a (fixSin 1 x) (fixPart 21)

def ftanhFin (a : Word) (x : Int) : Word := bounded 7 a (fixTanh x) (fixPart 22)

/-! ## FSIGM: non-decreasing (R193) -/

/-- The place of a word among the FP32 values in ascending order, both zeros at 0. -/
def orderKey (w : Word) : Int := if w.getLsbD 31 then -((w &&& 0x7FFFFFFF).toNat : Int) else w.toNat

/-- The word at a place. -/
def ofOrderKey (k : Int) : Word := if k < 0 then 0x80000000 + BitVec.ofNat 32 k.natAbs else BitVec.ofNat 32 k.toNat

/-- The part's own non-decreasing function from a 32-bit place: at each bit, from the highest, the value from which
its upper half starts, held within the half's bounds, is a free value; every such function is one of these (DESIGN CHOICE log 5). -/
def ascent : Nat → Nat → Nat → Int → Int → Int
  | 0, _, _, lo, _ => lo
  | n + 1, place, pre, lo, hi =>
    let mid := max lo (min hi (Config.sigmoidSplit n pre))
    if place.testBit n then ascent n place (2 * pre + 1) mid hi else ascent n place (2 * pre) lo mid

/-- FSIGM of a value that is not 0: the part's non-decreasing function held within 2^-23 of the exact one, and on
its own side of 0.5, between 0 and 1. -/
def fsigmFin (a : Word) (x : Int) : Word :=
  let v := fixSigm x
  let half := orderKey 0x3F000000
  let lo := max (orderKey (round32 .rup (ofFix (v - fixPart 23)))) (if 0 < x then half else 0)
  let hi := min (orderKey (round32 .rdn (ofFix (v + fixPart 23)))) (if x < 0 then half else orderKey 0x3F800000)
  let place := (orderKey a + 2 ^ 31).toNat
  ofOrderKey (max lo (min hi (ascent 32 place 0 0 (orderKey 0x3F800000))))

end Sys2Proof.Machine
end

