-- ==== Sys2Proof/Machine/Float.lean ====
section
/-! DEFINITION. The floating-point instructions, conversions and classification (R190-R198). -/

namespace Sys2Proof.Machine

open Sys2Proof

/-! ## Operand modifiers and clamps (R190) -/

/-- Absolute value first, then negation, on an FP32 word. -/
def modify (ab ng : Bool) (w : Word) : Word :=
  let v := if ab then w &&& 0x7FFFFFFF else w
  if ng then v ^^^ 0x80000000 else v

def modA (f : Fields) (w : Word) : Word := modify (bit f.m 5) (bit f.m 4) w
def modB (f : Fields) (w : Word) : Word := modify (bit f.m 7) (bit f.m 6) w
def modC (f : Fields) (w : Word) : Word := modify false (bit f.m 8) w

/-- Clamp an FP32 result to [lo, 1.0], where `lo` is +0.0 or -1.0; a NaN gives +0.0 and a zero keeps
its sign. -/
def clamp32 (lo w : Word) : Word :=
  let x := f32 w
  if x.isNan then 0
  else if x.eq (.fin false 0 0) then w
  else if x.lt (f32 lo) then lo
  else if (f32 0x3F800000).lt x then 0x3F800000
  else w

/-- `.UNIT` and `.SYM` (R190). -/
def clampResult (f : Fields) (w : Word) : Word :=
  if bit f.m 3 then clamp32 0 w else if bit f.m 9 then clamp32 0xBF800000 w else w

def roundMode (f : Fields) : Mode := Mode.ofCode (bits f.m 0 3)

/-- The exact value of a × b + c, a zero's sign by R10 and R191. -/
def fmaExact (rdn : Bool) (a b c : Word) : FVal := ((f32 a).mul (f32 b)).add rdn (f32 c)

/-- `a` rounded to an integral FP32 value (R191). -/
def frndValue (mode : Mode) (a : Word) : Word :=
  match f32 a with
  | .nan => nan32
  | .inf _ => a
  | .fin s m e =>
    let v := roundInt mode 0 s m e
    if v = 0 then (if s then 0x80000000 else 0) else rne32 (.ofInt v)

/-- FADD (R191). -/
def execFadd (f : Fields) (s : State) : Host.Outcome State Fault Refusal :=
  result3 (shapeFarith f) f (fun a b _ =>
    clampResult f (round32 (roundMode f) ((f32 (modA f a)).add (roundMode f = .rdn) (f32 (modB f b))))) s

/-- FMUL (R191). -/
def execFmul (f : Fields) (s : State) : Host.Outcome State Fault Refusal :=
  result3 (shapeFarith f) f (fun a b _ =>
    clampResult f (round32 (roundMode f) ((f32 (modA f a)).mul (f32 (modB f b))))) s

/-- FFMA (R191). -/
def execFfma (f : Fields) (s : State) : Host.Outcome State Fault Refusal :=
  result3 (shapeFfma f) f (fun a b c =>
    clampResult f (round32 (roundMode f) (fmaExact (roundMode f = .rdn) (modA f a) (modB f b) (modC f c)))) s

/-- FMIN (R191). -/
def execFmin (f : Fields) (s : State) : Host.Outcome State Fault Refusal :=
  result3 (shapeDAB f 0xF0) f (fun a b _ => fmin32 (modA f a) (modB f b)) s

/-- FMAX (R191). -/
def execFmax (f : Fields) (s : State) : Host.Outcome State Fault Refusal :=
  result3 (shapeDAB f 0xF0) f (fun a b _ => fmax32 (modA f a) (modB f b)) s

/-- FRND (R191). -/
def execFrnd (f : Fields) (s : State) : Host.Outcome State Fault Refusal :=
  result3 (shapeFrnd f) f (fun a _ _ => frndValue (roundMode f) (modA f a)) s

/-- FCMP (R192). -/
def execFcmp (f : Fields) (s : State) : Host.Outcome State Fault Refusal :=
  execCompare (shapeFcmp f) f (fun s w l t =>
    floatCond (bits f.m 3 4) (f32 (modify (bit f.m 7) false (read32 s w l t f f.a)))
      (f32 (modify (bit f.m 8) false (read32 s w l t f f.b)))) s

/-! ## Special functions (R193) -/

/-- A subnormal word becomes the zero of its sign (R60). -/
def flush32 (w : Word) : Word := if bits w 23 8 = 0 then w &&& 0x80000000 else w

/-- The integer square root, by bits from `fuel - 1` down. -/
def isqrt : Nat → Nat → Nat → Nat
  | 0, _, r => r
  | fuel + 1, n, r =>
    let c := r + 2 ^ fuel
    isqrt fuel n (if c * c ≤ n then c else r)

/-- √(m × 2^e) rounded by RNE. -/
def sqrtValue (m : Nat) (e : Int) : Word :=
  let k : Nat := 60 - Nat.log2 m
  let k : Nat := if (e - k) % 2 = 0 then k else k + 1
  let n := m <<< k
  let r := isqrt 32 n 0
  rne32 (.fin false (2 * r + (if r * r = n then 0 else 1)) ((e - k) / 2 - 1))

/-- The reciprocal rounded toward zero. -/
def rcpFloor (s : Bool) (m : Nat) (e : Int) : Word :=
  round32 .rtz (.fin s (2 ^ 80 / m) (-(e + 80)))

/-- The exponent of the last place of a normal word. -/
def ulpExp (w : Word) : Int := (bits w 23 8 : Int) - 150

/-- The magnitude of a word lies within `n` units `2^u` of 1/(m × 2^e). -/
def nearRcp (w : Word) (m : Nat) (e u : Int) : Bool :=
  match f32 w with
  | .fin _ k g =>
    let q := min (min (g + e) (u + e)) 0
    let v : Int := ((k * m) <<< (g + e - q).toNat : Nat)
    let one : Int := (1 <<< (0 - q).toNat : Nat)
    let tol : Int := (m <<< (u + e - q).toNat : Nat)
    decide (one - tol ≤ v ∧ v ≤ one + tol)
  | _ => false

/-- (k × 2^g)² × m × 2^e ≤ 1. -/
def sqLe1 (k : Nat) (g : Int) (m : Nat) (e : Int) : Bool := dyadicLe (k * k * m) (2 * g + e) 1 0

/-- The word lies within one unit `2^u` of 1/√(m × 2^e). -/
def nearRsq (w : Word) (m : Nat) (e u : Int) : Bool :=
  match f32 w with
  | .fin false k g =>
    let q := min g u
    let v := k <<< (g - q).toNat
    let t := 1 <<< (u - q).toNat
    (decide (v < t) || sqLe1 (v - t) q m e) && dyadicLe 1 0 ((v + t) * (v + t) * m) (2 * q + e)
  | _ => false

/-- 1/√(m × 2^e) rounded toward zero, from the integer square root of the reciprocal. -/
def rsqFloor (m : Nat) (e : Int) : Word :=
  let k : Nat := if e % 2 = 0 then 110 else 111
  let n := 2 ^ k / m
  round32 .rtz (.fin false (isqrt 56 n 0) ((-(e + k)) / 2))

/-- FRCP of a word that is not subnormal: any value within 1 ulp (R193, DESIGN CHOICE log 5). -/
def frcpValue (a : Word) : Word :=
  match f32 a with
  | .nan => nan32
  | .inf s => if s then 0x80000000 else 0
  | .fin s m e =>
    if m = 0 then (if s then 0xFF800000 else 0x7F800000)
    else
      let r := rcpFloor s m e
      let c := Config.special 0 a
      if bit c 31 = s && nearRcp c m e (ulpExp r) then c else r

/-- FRSQ of a word that is not subnormal (R193, DESIGN CHOICE log 5). -/
def frsqValue (a : Word) : Word :=
  match f32 a with
  | .nan => nan32
  | .inf s => if s then nan32 else 0
  | .fin s m e =>
    if m = 0 then (if s then 0xFF800000 else 0x7F800000)
    else if s then nan32
    else
      let r := rsqFloor m e
      let c := Config.special 1 a
      if nearRsq c m e (ulpExp r) then c else r

def fsqrtValue (a : Word) : Word :=
  match f32 a with
  | .nan => nan32
  | .inf s => if s then nan32 else a
  | .fin s m e => if m = 0 then a else if s then nan32 else sqrtValue m e

/-- The integer that a finite value is, if it is one. -/
def integral (s : Bool) (m : Nat) (e : Int) : Option Int :=
  let (lo, rem, _) := scaleTo m e 0
  if rem = 0 then some (if s then -(lo : Int) else lo) else none

def fex2Value (a : Word) : Word :=
  match f32 a with
  | .nan => nan32
  | .inf s => if s then 0 else a
  | .fin s m e =>
    match integral s m e with
    | some v => if -126 ≤ v ∧ v ≤ 127 then rne32 (.fin false 1 v) else fex2Fin a (toFix s m e)
    | none => fex2Fin a (toFix s m e)

def flg2Value (a : Word) : Word :=
  match f32 a with
  | .nan => nan32
  | .inf s => if s then nan32 else a
  | .fin s m e =>
    if m = 0 then 0xFF800000
    else if s then nan32
    else if m = 2 ^ Nat.log2 m then rne32 (.ofInt (e + Nat.log2 m))
    else flg2Fin a m e

/-- FSIN, FCOS, FTANH and FSIGM: the special inputs, and a result within the bounds elsewhere (R193, DESIGN CHOICE log 5). -/
def sfuValue (fin : Word → Int → Word) (zero : Word → Word) (inf : Bool → Word) (a : Word) : Word :=
  match f32 a with
  | .nan => nan32
  | .inf s => inf s
  | .fin s m e => if m = 0 then zero a else fin a (toFix s m e)

/-- A special function with its input modifiers, the flushes of R60 and its clamps. -/
def execSfu (f : Fields) (g : Word → Word) (s : State) : Host.Outcome State Fault Refusal :=
  result3 (shapeSfu f) f (fun a _ _ => clampResult f (flush32 (g (flush32 (modA f a))))) s

/-- FRCP (R193). -/
def execFrcp (f : Fields) (s : State) : Host.Outcome State Fault Refusal := execSfu f frcpValue s

/-- FRSQ (R193). -/
def execFrsq (f : Fields) (s : State) : Host.Outcome State Fault Refusal := execSfu f frsqValue s

/-- FSQRT (R193). -/
def execFsqrt (f : Fields) (s : State) : Host.Outcome State Fault Refusal := execSfu f fsqrtValue s

/-- FEX2 (R193). -/
def execFex2 (f : Fields) (s : State) : Host.Outcome State Fault Refusal := execSfu f fex2Value s

/-- FLG2 (R193). -/
def execFlg2 (f : Fields) (s : State) : Host.Outcome State Fault Refusal := execSfu f flg2Value s

/-- FSIN (R193). -/
def execFsin (f : Fields) (s : State) : Host.Outcome State Fault Refusal :=
  execSfu f (sfuValue fsinFin (fun a => a) (fun _ => nan32)) s

/-- FCOS (R193). -/
def execFcos (f : Fields) (s : State) : Host.Outcome State Fault Refusal :=
  execSfu f (sfuValue fcosFin (fun _ => 0x3F800000) (fun _ => nan32)) s

/-- FTANH (R193). -/
def execFtanh (f : Fields) (s : State) : Host.Outcome State Fault Refusal :=
  execSfu f (sfuValue ftanhFin (fun a => a) (fun s => if s then 0xBF800000 else 0x3F800000)) s

/-- FSIGM (R193). -/
def execFsigm (f : Fields) (s : State) : Host.Outcome State Fault Refusal :=
  execSfu f (sfuValue fsigmFin (fun _ => 0x3F000000) (fun s => if s then 0 else 0x3F800000)) s

/-! ## BF16 pairs (R194) -/

/-- Half h of a word. -/
def half (w : Word) (h : Nat) : BitVec 16 := w.extractLsb' (16 * h) 16

def halfVal (h : BitVec 16) (ng : Bool) : FVal :=
  let v := bf16.decode h.toNat
  if ng then v.neg else v

/-- b' by the half selector. -/
def selectHalves (f : Fields) (b : Word) : Word :=
  match bits f.m 4 2 with
  | 0 => b
  | 1 => half b 0 ++ half b 0
  | 2 => half b 1 ++ half b 1
  | _ => half b 0 ++ half b 1

/-- A BF16 half as an FP32 word, and the high half of an FP32 word. -/
def widen (h : BitVec 16) : Word := h ++ 0#16

/-- `.UNIT` on a BF16 half. -/
def clampHalf (f : Fields) (h : BitVec 16) : BitVec 16 :=
  if bit f.m 3 then (clamp32 0 (widen h)).extractLsb' 16 16 else h

/-- A BF16-pair instruction: the exact value per half, from the halves of a, b' and c. -/
def execPairs (f : Fields) (mask : Nat) (c : Use) (g : FVal → FVal → FVal → FVal) (s : State) :
    Host.Outcome State Fault Refusal :=
  result3 (shapeH2 f mask c) f (fun a b cw =>
    let b' := selectHalves f b
    let one (h : Nat) : BitVec 16 :=
      clampHalf f (BitVec.ofNat 16 (bf16.encode (roundMode f) false 0
        (g (halfVal (half a h) (bit f.m 6)) (halfVal (half b' h) (bit f.m 7)) (halfVal (half cw h) (bit f.m 8)))))
    one 1 ++ one 0) s

/-- HADD2 (R194). -/
def execHadd2 (f : Fields) (s : State) : Host.Outcome State Fault Refusal :=
  execPairs f 0xFF .none (fun a b _ => a.add (roundMode f = .rdn) b) s

/-- HMUL2 (R194). -/
def execHmul2 (f : Fields) (s : State) : Host.Outcome State Fault Refusal :=
  execPairs f 0xFF .none (fun a b _ => a.mul b) s

/-- HFMA2 (R194). -/
def execHfma2 (f : Fields) (s : State) : Host.Outcome State Fault Refusal :=
  execPairs f 0x1FF .s32 (fun a b c => (a.mul b).add (roundMode f = .rdn) c) s

/-- HMAX2 (R194). -/
def execHmax2 (f : Fields) (s : State) : Host.Outcome State Fault Refusal :=
  result3 (shapeH2 f 0xF0 .none) f (fun a b _ =>
    let b' := selectHalves f b
    let one (h : Nat) : BitVec 16 :=
      (fmax32 (modify false (bit f.m 6) (widen (half a h))) (modify false (bit f.m 7) (widen (half b' h)))).extractLsb' 16 16
    one 1 ++ one 0) s

/-! ## Conversions (R195-R198) -/

/-- F2I (R195). -/
def execF2i (f : Fields) (s : State) : Host.Outcome State Fault Refusal :=
  result3 (shapeF2i f) f (fun a _ _ =>
    let lo : Int := if bit f.m 3 then 0 else -(2 ^ 31)
    let hi : Int := if bit f.m 3 then 2 ^ 32 - 1 else 2 ^ 31 - 1
    BitVec.ofInt 32 ((f32 a).toRange (roundMode f) 0 lo hi)) s

/-- I2F (R195). -/
def execI2f (f : Fields) (s : State) : Host.Outcome State Fault Refusal :=
  execPure (shapeI2f f) f (fun s w l t =>
    let v : Int :=
      if bit f.m 4 then reading (bit f.m 3) (read64 s w l t f f.a) else reading (bit f.m 3) (read32 s w l t f f.a)
    t.result f.d.reg [round32 (roundMode f) (.ofInt v)]) s

/-- The fields of a format slot (R70). -/
def fsA (v : Word) : Nat := bits v 0 4
def fsB (v : Word) : Nat := bits v 4 4
def fsO (v : Word) : Nat := bits v 8 4
def fsRnd (v : Word) : Nat := bits v 12 3
def fsSat (v : Word) : Bool := bit v 15
def fsMode (v : Word) : Nat := bits v 16 4

/-- Format slot fs(i) of a wave's grid; zero for a wave without one. -/
def formatSlot (s : State) (w : Wave) (i : Nat) : Word :=
  ((s.entryOfWave w).map fun e => e.record.fs i).getD 0

/-- The launch seed of a wave's grid (R69); 0 for a wave of no entry, for which the spec names no seed (DESIGN CHOICE log 22). -/
def seedOf (s : State) (w : Wave) : DWord := ((s.entryOfWave w).map fun e => e.record.seed).getD 0

/-- The thread number t of R196. -/
def threadNumber (s : State) (w : Wave) (lane : Nat) : Nat :=
  (((s.wg? w.wg).map s.linearWg).getD 0) * 2048 + w.index * 32 + lane

/-- Elements of a format that a 32-bit register holds (R61). -/
def elemCount (code : Nat) : Nat := 32 / fmtBits code

/-- Element i of a word in a format. -/
def element (code i : Nat) (w : Word) : Nat := bits w (i * fmtBits code) (fmtBits code)

/-- A word with element i of a format replaced. -/
def withElement (code i v : Nat) (w : Word) : Word :=
  let sh := i * fmtBits code
  let mask : Word := BitVec.ofNat 32 ((2 ^ fmtBits code - 1) * 2 ^ sh)
  (w &&& ~~~mask) ||| BitVec.ofNat 32 (v % 2 ^ fmtBits code * 2 ^ sh)

/-- CVT (R196). -/
def execCvt (f : Fields) (s : State) : Host.Outcome State Fault Refusal :=
  execTry (shapeCvt f) f (fun s w l t =>
    let fs := formatSlot s w (bits f.m 0 3)
    let es := bits f.m 3 2
    let ed := bits f.m 5 2
    if elemCount (fsA fs) ≤ es ∨ elemCount (fsO fs) ≤ ed then .error (.illegal, 7)
    else
      let x := fmtDecode (fsA fs) (element (fsA fs) es (read32 s w l t f f.a))
      let b := read32 s w l t f f.b
      let idx := b.toNat * 2 ^ 32 + threadNumber s w l * 4 + ed
      let e := fmtEncode (fsO fs) (Mode.ofCode (fsRnd fs)) (fsSat fs) (rsrBits (seedOf s w) idx) x
      .ok (t.result f.d.reg [withElement (fsO fs) ed e (read32 s w l t f f.c)])) s

/-- CVTP (R197). -/
def execCvtp (f : Fields) (s : State) : Host.Outcome State Fault Refusal :=
  execTry (shapeCvtp f) f (fun s w l t =>
    let fs := formatSlot s w (bits f.m 0 3)
    let o := fsO fs
    let wide := fmtBits o = 16
    if fsA fs ≠ 0 ∨ 4 ≤ fsRnd fs ∨ o = 0 then .error (.illegal, 7)
    else if wide ∧ (f.c ≠ .none ∨ bit f.m 3) then .error (.illegal, 7)
    else if ¬ wide ∧ f.c = .none then .error (.illegal, 7)
    else
      let e (v : Word) : Nat := fmtEncode o (Mode.ofCode (fsRnd fs)) (fsSat fs) 0 (f32 v)
      let ea := e (read32 s w l t f f.a)
      let eb := e (read32 s w l t f f.b)
      if wide then .ok (t.result f.d.reg [BitVec.ofNat 32 (ea + eb * 2 ^ 16)])
      else
        let h := if bit f.m 3 then 2 else 0
        .ok (t.result f.d.reg [withElement o (h + 1) eb (withElement o h ea (read32 s w l t f f.c))])) s

/-- The class bit of an FP32 word (R198). -/
def classBit (w : Word) : Nat :=
  let ex := bits w 23 8
  let fr := bits w 0 23
  let s := bit w 31
  if ex = 255 then (if fr = 0 then (if s then 0 else 7) else if bit w 22 then 9 else 8)
  else if ex = 0 then (if fr = 0 then (if s then 3 else 4) else (if s then 2 else 5))
  else if s then 1 else 6

/-- FCLASS (R198). -/
def execFclass (f : Fields) (s : State) : Host.Outcome State Fault Refusal :=
  result3 (shapeDA f 0) f (fun a _ _ => BitVec.ofNat 32 (2 ^ classBit a)) s

end Sys2Proof.Machine
end

