-- ==== Sys2Proof/Machine/WaveOps.lean ====
section
/-! DEFINITION. The wave instructions (R199, R200), and the form of an instruction whose participating
threads act together. -/

namespace Sys2Proof.Machine

open Sys2Proof

/-- An instruction whose participating threads P act together: `check` may fault a thread, which then
leaves P, and `g` gives each remaining thread after it. All sources are read at issue, from the wave at issue. -/
def execAcross (sh : Shape) (f : Fields) (check : State → Wave → Nat → Thread → Option (Cause × DWord))
    (g : State → Wave → List Nat → Nat → Thread → Thread) (s : State) : Host.Outcome State Fault Refusal :=
  withGroup s fun s w lanes =>
    match checkIssue .user (w.levelOf lanes) sh f w.blocks with
    | some (c, e) => faultLanes s w.id lanes c e w.seq
    | none =>
      let v := w.issued s sh f
      let fails (l : Nat) : Option (Cause × DWord) := (v.threads[l]?).bind fun t => check s v l t
      let on := (w.clearLanes sh f lanes).filter fun l => (fails l).isNone
      lanes.foldl (fun s lane =>
        if on.contains lane then
          s.modThread w.id lane fun t => (g s v on lane (t.issued s sh f)).advance f.form.len
        else if (w.clearLanes sh f lanes).contains lane then
          match fails lane with
          | some (c, e) => (logVault s w c e).modThread w.id lane fun t => t.fault c e w.seq
          | none => s
        else runOthers sh f w s lane) s

/-- Source A of a lane, as read at issue. -/
def laneA (s : State) (w : Wave) (f : Fields) (lane : Nat) : Word :=
  ((w.threads[lane]?).map fun t => read32 s w lane t f f.a).getD 0

/-- The lane that WSHFL reads (R199). -/
def shuffleLane (mode g lane : Nat) (b : Word) : Nat :=
  let w := 2 ^ g
  let base := lane - lane % w
  let j := lane % w
  match mode with
  | 0 => base + b.toNat % w
  | 1 => base + (j + b.toNat) % w
  | 2 => base + (j ^^^ (b.toNat % w))
  | _ => base + (w - 1 - j)

/-- WSHFL (R199). -/
def execWshfl (f : Fields) (s : State) : Host.Outcome State Fault Refusal :=
  execAcross (shapeWshfl f) f (fun _ _ _ _ => none) (fun s w on lane t =>
    let src := shuffleLane (bits f.m 0 2) (bits f.m 2 3) lane (read32 s w lane t f f.b)
    t.result f.d.reg [laneA s w f (if on.contains src then src else lane)]) s

/-- The result of a vote over the lanes of P and their values (R199). -/
def voteValue (code : Nat) (on : List Nat) (v : Nat → Word) : Word :=
  let set := on.filter fun l => v l ≠ 0
  match code with
  | 0 => ofBits fun i => set.contains i
  | 1 => if set.length = on.length then 1 else 0
  | 2 => if set = [] then 0 else 1
  | 3 => if allSame (on.map v) then 1 else 0
  | 4 => BitVec.ofNat 32 set.length
  | _ => match set with
    | l :: _ => BitVec.ofNat 32 l
    | [] => 32

/-- WVOTE (R199). -/
def execWvote (f : Fields) (s : State) : Host.Outcome State Fault Refusal :=
  execAcross (shapeWvote f) f (fun _ _ _ _ => none) (fun s w on _ t =>
    t.result f.d.reg [voteValue (bits f.m 0 3) on (laneA s w f)]) s

/-- The operations of WREDUX but for `.FADD` (R200). -/
def reduxOp (code : Nat) (a b : Word) : Word :=
  match code with
  | 0 => a + b
  | 1 => minValue false a b
  | 2 => maxValue false a b
  | 3 => minValue true a b
  | 4 => maxValue true a b
  | 5 => a &&& b
  | 6 => a ||| b
  | 7 => a ^^^ b
  | 9 => fmin32 a b
  | _ => fmax32 a b

/-- The reduction of a non-empty list (R80, R200); a NaN result is the default NaN (R59). -/
def reduxValue (code : Nat) (vs : List Word) : Word :=
  if code = 8 then quiet32 ((splitSum fadd32 32 vs).getD 0)
  else
    let v := match vs with
      | [] => 0
      | v :: vs => vs.foldl (reduxOp code) v
    if 9 ≤ code then quiet32 v else v

/-- WREDUX (R199, R200). -/
def execWredux (f : Fields) (s : State) : Host.Outcome State Fault Refusal :=
  execAcross (shapeWredux f) f (fun _ _ _ _ => none) (fun s w on lane t =>
    let upTo := if bit f.m 4 then on.filter fun l => decide (l ≤ lane) else on
    t.result f.d.reg [reduxValue (bits f.m 0 4) (upTo.map (laneA s w f))]) s

end Sys2Proof.Machine
end

