-- ==== Sys2Proof/Machine/Slots.lean ====
section
/-! DEFINITION. Operand slots (R254, R260), OCLAIM, ORELEASE, LAYSET, OLOAD and OFENCE (R261-R264). -/

namespace Sys2Proof.Machine

open Sys2Proof

/-- An operand slot at the start of a workgroup (R254). -/
def OpSlot.start : OpSlot := { held := false, marked := false, markTicket := 0, bytes := [], poison := [] }

def Workgroup.slot (g : Workgroup) (k : Nat) : OpSlot := lookD OpSlot.start g.slots k

def Workgroup.setSlot (g : Workgroup) (k : Nat) (x : OpSlot) : Workgroup := { g with slots := put g.slots k x }

/-- The slots that a 64-bit mask names. -/
def maskSlots (m : DWord) : List Nat := (List.range 64).filter fun k => m.getLsbD k

/-- A mask that names no slot, or one that the workgroup does not hold (R261). -/
def Workgroup.badMask (g : Workgroup) (m : DWord) : Bool := m = 0 || (maskSlots m).any fun k => decide (g.nslots ≤ k)

/-- A wave instruction of a workgroup (R258): a wave without one names nothing that exists (R255). -/
def execGroup (sh : Shape) (f : Fields) (vals : State → Wave → Nat → Thread → List Word)
    (body : State → Wave → Workgroup → List Nat → List Word → WRes) (s : State) : Host.Outcome State Fault Refusal :=
  execWave sh f vals (fun s w on v =>
    match s.ownGroup w with
    | none => .fault .illegal 7
    | some g => body s w g on v) s

/-- The two words of the pair in A. -/
def pairA (f : Fields) (s : State) (w : Wave) (lane : Nat) (t : Thread) : List Word :=
  let v := read64 s w lane t f f.a
  [loWord v, hiWord v]

/-- The threads of a workgroup parked in OCLAIM: the order and the mask of each execution. -/
def State.claims (s : State) (wg : Nat) : List (Nat × DWord) :=
  s.waves.flatMap fun w => if w.wg = wg && w.isUser then
      w.threads.filterMap fun t => match t.parkNow with | some (.oclaim m o) => some (o, m) | _ => none
    else []

/-- OCLAIM (R261): the threads park until the claim is granted. -/
def execOclaim (f : Fields) (s : State) : Host.Outcome State Fault Refusal :=
  execGroup (shapeA64 f) f (pairA f) (fun s _ g _ v =>
    let m := pair (word v 0) (word v 1)
    if g.badMask m then .fault .illegal 7
    else .done s.fresh fun _ t => t.park (.oclaim m s.nextId) f) s

/-- The first claim that may be granted: its slots FREE, and no earlier claim of one of them waiting. -/
def State.nextClaim (s : State) (g : Workgroup) : Option (Nat × DWord) :=
  let cs := s.claims g.id
  cs.find? fun c =>
    (maskSlots c.2).all (fun k => !(g.slot k).held) && !cs.any fun d => decide (d.1 < c.1) && d.2 &&& c.2 ≠ 0

/-- Grant claims of a workgroup. -/
def State.grantClaims (wg : Nat) : Nat → State → State
  | 0, s => s
  | fuel + 1, s =>
    match (s.wg? wg).bind fun g => (s.nextClaim g).map fun c => (g, c) with
    | none => s
    | some (g, (o, m)) =>
      let g := (maskSlots m).foldl (fun g k => g.setSlot k { g.slot k with held := true, marked := false }) g
      let s := s.setWg g
      State.grantClaims wg fuel { s with waves := s.waves.map fun w =>
        if w.wg = wg then
          { w with threads := w.threads.map fun t =>
              match t.run with
              | .parked (.oclaim _ x) len => if x = o then t.unpark len none [] else t
              | _ => t }
        else w }

/-- An operation reads a slot. -/
def TicketKind.reads (k : TicketKind) (slot : Nat) : Bool :=
  match k with
  | .mma a b _ _ _ _ => a = slot || b = slot
  | .mtrans a _ _ _ | .mperm a _ _ _ _ | .mrsum a _ _ _ _ => a = slot
  | _ => false

/-- Marked slots become FREE once no operation of theirs up to the mark is left (R261). -/
def Workgroup.freeSlots (g : Workgroup) : Workgroup :=
  { g with slots := g.slots.map fun p =>
      if p.2.marked && !g.ops.any fun o => o.kind.reads p.1 && decide ((o.ticket - p.2.markTicket).toInt ≤ 0) then
        (p.1, { p.2 with held := false, marked := false })
      else p }

/-- ORELEASE (R261). -/
def execOrelease (f : Fields) (s : State) : Host.Outcome State Fault Refusal :=
  execGroup (shapeA64 f) f (pairA f) (fun s _ g _ v =>
    let m := pair (word v 0) (word v 1)
    if g.badMask m || (maskSlots m).any fun k => !(g.slot k).held then .fault .illegal 7
    else
      let mark (g : Workgroup) (k : Nat) : Workgroup :=
        let x := g.slot k
        if x.marked then g else g.setSlot k { x with marked := true, markTicket := g.issued }
      .done (s.setWg ((maskSlots m).foldl mark g).freeSlots) fun _ t => t.advance f.form.len) s

/-! ## Sources read between issue and completion (R131, R323) -/

/-- Element `i` of `w` bits of a group of bytes. -/
def digit (w v i : Nat) : Nat := v / 2 ^ (w * i) % 2 ^ w

/-- One of several values or else the last one, by the draws of a number. The choice is open (R131, DESIGN CHOICE log 4). -/
def pickOne (draw k : Nat) (b : Nat) : List Nat → Nat
  | [] => b
  | a :: as => if a ≠ b && Config.coin (draw * 2 ^ 32 + k) then a else pickOne draw (k + 1) b as

/-- Bytes of elements of `w` bits, each element one of those that stood there before or the one there now. -/
def mixElems (w : Nat) : Nat → Nat → List (List Byte) → List Byte → List Byte
  | 0, _, _, new => new
  | fuel + 1, draw, olds, new =>
    if new = [] then []
    else
      let c := if w = 6 then 3 else w / 8
      let as := olds.map fun o => leNat (o.take c)
      let b := leNat (new.take c)
      let n := 8 * c / w
      let v := (List.range n).foldl (fun v i =>
        v + 2 ^ (w * i) * pickOne (draw + i) 0 (digit w b i) (as.map fun a => digit w a i)) 0
      leBytes c v ++ mixElems w fuel (draw + n) (olds.map fun o => o.drop c) (new.drop c)

/-- The same; bytes that have not changed are those. -/
def mixBytes (w draw : Nat) (olds : List (List Byte)) (new : List Byte) : List Byte :=
  if olds.all fun o => o = new then new else mixElems w new.length draw olds new

/-- What stood under a key before, the oldest first. -/
def versions (before : List (Nat × Sparse Byte)) (k : Nat) : List (Sparse Byte) :=
  before.filterMap fun p => if p.1 = k then some p.2 else none

/-- Bits of an element as it is packed (R61). -/
def packedBits (code : Nat) : Nat := if code = 4 then 6 else fmtBits code

/-- The vaults of a workgroup's gang, by workgroup, with some stores that are still queued (R114). -/
def State.gangVaults (s : State) (g : Workgroup) (queued : List Access1) : List (Nat × Sparse Byte) :=
  (s.wgs.filter fun x => x.gang = g.gang).map fun x =>
    (x.id, (vaultStores x.id queued).foldl (fun v p => swrite v p.1 p.2) x.vault)

/-! ## Layout records and OLOAD -/

/-- LAYSET (R262). -/
def execLayset (f : Fields) (s : State) : Host.Outcome State Fault Refusal :=
  execGroup (shapeLayset f) f (fun s w lane t => read32 s w lane t f f.a :: readRun t f.b 8) (fun s _ g _ v =>
    let a := (word v 0).toNat
    let run := v.drop 1
    if 7 < a || bits (word run 7) 2 30 ≠ 0 then .fault .illegal 7
    else .done (s.setWg { g with layouts := put g.layouts a run }) fun _ t => t.advance f.form.len) s

/-- The matrix formats of R72. -/
def matFormat (code : Nat) : Bool := code = 1 || code = 3 || code = 4

/-- K of a matrix format (R72). -/
def matK (code : Nat) : Nat := if code = 1 then 32 else 64

/-- A pair of formats that R72 accepts. -/
def matPair (a b : Nat) : Bool := matFormat a && matFormat b && (a = 1) = (b = 1)

/-- Bytes of an operand tile (R260). -/
def tileBytes (code : Nat) (roleB : Bool) : Nat := fmtRowBytes code (matK code) * (if roleB then 96 else 128)

/-- The vault addresses of the chunks of a layout record from a base (R263). -/
def chunkAddrs (ly : List Word) (base : Word) : List Word :=
  let ext (d : Nat) : Nat := bits (word ly (5 + d / 2)) (16 * (d % 2)) 16
  let at_ (d i : Nat) : Word := BitVec.ofNat 32 i * word ly (1 + d)
  (List.range (ext 3)).flatMap fun i3 => (List.range (ext 2)).flatMap fun i2 =>
    (List.range (ext 1)).flatMap fun i1 => (List.range (ext 0)).map fun i0 =>
      base + at_ 0 i0 + at_ 1 i1 + at_ 2 i2 + at_ 3 i3

/-- The check of a chunk (R263): aligned to its size, wholly in a DATA buffer that is FULL or DRAINING. -/
def State.chunkAt (s : State) (g : Workgroup) (ch : Nat) (addr : Word) : Except (Cause × DWord) (Nat × Nat) :=
  match s.vaultIn (some g) addr ch ch with
  | .error e => .error e
  | .ok (x, off) =>
    if x.tracked off ch && (x.touched off ch).all Buffer.loads then .ok (x.id, off)
    else .error (vaultFault .vaultState addr)

/-- The chunks of an OLOAD in slot order, or the first fault: bounds before states (R211). -/
def State.chunks (s : State) (g : Workgroup) (ch : Nat) (addrs : List Word) : Except (Cause × DWord) (List (Nat × Nat)) :=
  let rs := addrs.map (s.chunkAt g ch)
  let err (b : Bool) : Option (Cause × DWord) :=
    (rs.filterMap fun r => match r with | .error e => if (e.1 = .vaultBounds) = b then some e else none | .ok _ => none).head?
  match (err true).orElse fun _ => err false with
  | some e => .error e
  | none => .ok (rs.filterMap fun r => match r with | .ok x => some x | .error _ => none)

/-- OLOAD (R263). -/
def execOload (f : Fields) (s : State) : Host.Outcome State Fault Refusal :=
  execGroup (shapeOload f) f
    (fun s w lane t => [read32 s w lane t f f.a, read32 s w lane t f f.b, read32 s w lane t f f.c]) (fun s w g on v =>
    let a := (word v 0).toNat
    let c := (word v 2).toNat
    let roleB := bit f.m 3
    let fs := formatSlot s w (bits f.m 0 3)
    let code := if roleB then fsB fs else fsA fs
    if g.nslots ≤ a || 7 < c || !matFormat code || !(g.slot a).held then .fault .illegal 7
    else
      let ly := lookD (List.replicate 8 0) g.layouts c
      let ch := 8 * 2 ^ bits (word ly 7) 0 2
      let ext (d : Nat) : Nat := bits (word ly (5 + d / 2)) (16 * (d % 2)) 16
      if ext 0 * ext 1 * ext 2 * ext 3 * ch ≠ tileBytes code roleB then .fault .illegal 7
      else
        match s.chunks g ch (chunkAddrs ly (word ly 0 + word v 1)) with
        | .error (c, e) => .fault c e
        | .ok from_ =>
          if w.acquiring on then .hold
          else
            let o : Oload := { id := s.nextId, wave := w.id, slot := a, chunk := ch, code := code, from_ := from_, before := s.gangVaults g w.store }
            .done (s.fresh.modWg g.id fun g => { g with oloads := g.oloads ++ [o] }) fun _ t => t.advance f.form.len) s

/-- The bank of a piece: the core whose vault holds it, and va[8:4] (R264). -/
def State.bankOf (s : State) (wg off : Nat) : Nat := (((s.wg? wg).map fun g => g.core).getD 0) * 32 + off / 16 % 32

/-- The largest number of equal elements. -/
def mostOften (l : List Nat) : Nat := l.foldl (fun m x => max m (l.count x)) 0

/-- Extra clks of an OLOAD's groups of up to 512 bytes (R264). -/
def State.conflictsOf (s : State) (ch : Nat) : Nat → List (Nat × Nat) → Nat
  | 0, _ => 0
  | fuel + 1, l =>
    if l = [] then 0
    else
      let group := l.take (512 / ch)
      let banks := group.flatMap fun c => (List.range ((ch + 15) / 16)).map fun i => s.bankOf c.1 (c.2 + 16 * i)
      (mostOften banks - 1) + State.conflictsOf s ch fuel (l.drop (512 / ch))

/-- The bytes of a chunk, as they were in each of several states of its vault: as many as there were writes. -/
def Oload.chunkWas (o : Oload) (i : Nat) : List Byte :=
  o.from_.flatMap fun c => let vs := versions o.before c.1; sbytes (vs.getD (min i (vs.length - 1)) []) c.2 o.chunk

/-- The bytes that an OLOAD reads, element by element those at issue, those that a write since replaced, or those now (R131), and the granules of its slot that a poisoned source poisons (R104). -/
def State.oloadBytes (s : State) (o : Oload) : List Byte × List Nat :=
  let cs := (List.range o.from_.length).zip o.from_
  (mixBytes (packedBits o.code) s.draws ((List.range o.before.length).map o.chunkWas)
      (o.from_.flatMap fun c => match s.wg? c.1 with
        | some g => sbytes g.vault c.2 o.chunk
        | none => List.replicate o.chunk 0),
    cs.flatMap fun c => match s.wg? c.2.1 with
      | some g => if poisonedIn g.poison c.2.2 o.chunk then granules (c.1 * o.chunk) o.chunk else []
      | none => [])

/-- The stores that the wave of an OLOAD queued to its source bytes are performed. -/
def State.oloadReady (s : State) (o : Oload) : Bool :=
  match s.wave? o.wave with
  | none => true
  | some w => w.store.all fun a =>
    match a.work with
    | .vault g off d => !o.from_.any fun c => c.1 = g && meets c.2 o.chunk off d.length
    | _ => true

/-- OLOAD_COMPLETE (R264): the load writes its slot, its conflicts are counted, and a poisoned source is
logged (R104). -/
def execOloadComplete (wg : Nat) (id : Nat) (s : State) : Host.Outcome State Fault Refusal :=
  match (s.wg? wg).bind fun g => (g.oloads.find? fun o => o.id = id).map fun o => (g, o) with
  | none => .next s
  | some (g, o) =>
    if !s.oloadReady o then .next s
    else
      let (data, bad) := s.oloadBytes o
      let s := s.drawnBy (8 * data.length)
      let s := match o.from_.find? fun c => ((s.wg? c.1).map fun x => poisonedIn x.poison c.2 o.chunk).getD false with
        | some c => s.logCheck (dieOf g.core) g.core 3 0 0 0 c.2
        | none => s
      let n := s.conflictsOf o.chunk o.from_.length o.from_
      .next (s.modWg wg fun g =>
        let x := g.slot o.slot
        let g := { g with ops := g.ops.map fun (p : TicketOp) => p.keeps false o.slot x.bytes }
        { g.setSlot o.slot { x with bytes := swrite x.bytes 0 data, poison := addPoison (clearPoison x.poison 0 data.length) bad } with
          oloads := g.oloads.filter fun p => p.id ≠ id
          conflicts := min (g.conflicts + n) (2 ^ 32 - 1) })

/-- The last OLOAD of a wave in flight. -/
def Workgroup.lastOload (g : Workgroup) (wave : Nat) : Option Nat :=
  ((g.oloads.filter fun o => o.wave = wave).map fun o => o.id).foldl (fun m x => some (max (m.getD 0) x)) none

/-- OFENCE (R264). -/
def execOfence (f : Fields) (s : State) : Host.Outcome State Fault Refusal :=
  execGroup (shapeDOnly f) f (fun _ _ _ _ => []) (fun s w g _ _ =>
    match g.lastOload w.id with
    | some last => .done s.fresh fun _ t => t.park (.ofence last s.nextId f.d.reg) f
    | none =>
      .done (s.setWg { g with conflicts := 0 }) fun _ t => (t.result f.d.reg [BitVec.ofNat 32 g.conflicts]).advance f.form.len) s

/-- The OFENCEs of a wave whose loads have all written their slots, by their order. -/
def Wave.fences (w : Wave) (g : Workgroup) : List Nat :=
  w.threads.filterMap fun t => match t.parkNow with
    | some (.ofence last order _) => if g.oloads.any fun o => o.wave = w.id && decide (o.id ≤ last) then none else some order
    | _ => none

/-- The earliest OFENCE of a workgroup that may end, with its wave. -/
def State.fenceReady (s : State) (g : Workgroup) : Option (Nat × Nat) :=
  ((s.waves.filter fun w => w.wg = g.id && w.isUser).flatMap fun w => (w.fences g).map fun o => (w.id, o)).foldl
    (fun best x => match best with
      | none => some x
      | some b => if x.2 < b.2 then some x else some b) none

/-- Finish the OFENCEs of a workgroup in their order: each execution pushes the conflict counter and clears it. -/
def State.passFences (wg : Nat) : Nat → State → State
  | 0, s => s
  | fuel + 1, s =>
    match (s.wg? wg).bind fun g => (s.fenceReady g).map fun x => (g, x) with
    | none => s
    | some (g, (wave, order)) =>
      let s := s.setWg { g with conflicts := 0 }
      State.passFences wg fuel { s with waves := s.waves.map fun w =>
        if w.id = wave then
          { w with threads := w.threads.map fun t =>
              match t.run with
              | .parked (.ofence _ x d) len => if x = order then t.unpark len d [BitVec.ofNat 32 g.conflicts] else t
              | _ => t }
        else w }

end Sys2Proof.Machine
end

