-- ==== Sys2Proof/Machine/Ticket.lean ====
section
/-! DEFINITION. Tickets (R256, R257), leave tokens of panes (R270, R350), the checks of engine accesses
(R259), and accumulator tiles (R254, R276). -/

namespace Sys2Proof.Machine

open Sys2Proof

/-! ## MAT tokens (R270, R350) -/

/-- The pane of a wave. -/
def Wave.pane (w : Wave) : Nat := w.slot % 4

def Core.stock (c : Core) (pane : Nat) : Stock := lookD { since := [] } c.stocks pane

def Core.setStock (c : Core) (pane : Nat) (x : Stock) : Core := { c with stocks := put c.stocks pane x }

/-- A pane's free tokens. -/
def State.paneTokens (s : State) (core pane : Nat) : Nat := ((s.core core).stock pane).since.length

/-- An operation takes its token from its pane: the one that came first. -/
def State.takeToken (s : State) (core pane : Nat) : State :=
  let c := s.core core
  let x := c.stock pane
  s.setCore core (c.setStock pane { since := x.since.drop 1 })

/-- A token comes back to its pane's stock; beyond two it goes to the pool. -/
def State.giveToken (s : State) (core pane : Nat) : State :=
  let c := s.core core
  let x := c.stock pane
  if 2 ≤ x.since.length then { s with power := { s.power with matOut := s.power.matOut - 1 } }
  else s.setCore core (c.setStock pane { since := x.since ++ [s.clk] })

/-! ## Issue of ticketed operations (R256) -/

/-- Ticketed operations that a workgroup may hold. -/
def ticketLimit : Nat := 64

/-- The sources that an operation reads between its issue and its completion (R131, R323). -/
def State.sources (s : State) (g : Workgroup) (kind : TicketKind) : List (Nat × Sparse Byte) :=
  match kind with
  | .mma a b _ _ _ _ => [(a, (g.slot a).bytes), (b, (g.slot b).bytes)]
  | .mtrans a _ _ _ | .mperm a _ _ _ _ | .mrsum a _ _ _ _ => [(a, (g.slot a).bytes)]
  | .adrain _ _ _ (some _) _ _ | .desc _ _ _ _ _ _ | .dgrad _ _ _ _ _ => s.gangVaults g []
  | .adrain _ _ _ none _ _ | .aclr _ | .pgroup _ _ _ => []

/-- A ticketed operation issues: the state, and the ticket pushed. -/
def State.issueTicket (s : State) (w : Wave) (g : Workgroup) (level : Level) (pane : Option Nat) (kind : TicketKind) :
    State × Word :=
  let tk := g.issued + 1
  let o : TicketOp :=
    { ticket := tk, wave := w.id, core := w.core, pane := pane, level := level, tileSeq := (s.core w.core).tileSeq, kind := kind,
      before := s.sources g kind, others := [] }
  (s.modWg g.id fun g => { g with issued := tk, ops := g.ops ++ [o] }, tk.zeroExtend 32)

/-- The level of the first participating thread. -/
def State.levelAt (s : State) (w : Wave) (on : List Nat) : Level :=
  ((on.head?.bind fun l => s.thread? w.id l).map fun t => t.level).getD .user

/-- A ticketed wave instruction that needs no token: a 65th operation waits at issue, as one does for an earlier
acquire (R118). -/
def ticketed (f : Fields) (s : State) (w : Wave) (g : Workgroup) (on : List Nat) (kind : TicketKind) : WRes :=
  if ticketLimit ≤ g.ops.length || w.acquiring on then .hold
  else
    let (s, tk) := s.issueTicket w g (s.levelAt w on) none kind
    .done s fun _ t => (t.result f.d.reg [tk]).advance f.form.len

/-- One that takes a MAT token of its pane: it waits at issue for it. -/
def ticketedMat (f : Fields) (s : State) (w : Wave) (g : Workgroup) (on : List Nat) (kind : TicketKind) : WRes :=
  if ticketLimit ≤ g.ops.length || s.paneTokens w.core w.pane = 0 || w.acquiring on then .hold
  else
    let (s, tk) := (s.takeToken w.core w.pane).issueTicket w g (s.levelAt w on) (some w.pane) kind
    .done s fun _ t => (t.result f.d.reg [tk]).advance f.form.len

/-! ## MWAIT (R257, R273) -/

/-- A ticket has completed: (C - tk) mod 2^16 < 2^15. -/
def Workgroup.ticketDone (g : Workgroup) (tk : BitVec 16) : Bool := decide (0 ≤ (g.done - tk).toInt)

/-- A ticket is covered by a wait for another: it is no later. -/
def covered (tk m : BitVec 16) : Bool := decide (0 ≤ (tk - m).toInt)

/-- An MWAIT of a thread completes: it pushes 1, and takes MATRIX_CHECK for the oldest mismatched ticket that
it covers (DEDUCED log 50). -/
def State.mwaitDone (s : State) (w : Wave) (lane : Nat) (t : Thread) (tk : BitVec 16) : State :=
  match s.wg? w.wg with
  | none => s.setThread w.id lane t
  | some g =>
    match g.mismatched.find? (covered tk) with
    | none => s.setThread w.id lane t
    | some m =>
      (s.setWg { g with mismatched := g.mismatched.filter fun x => x ≠ m }).setThread w.id lane
        (t.raise { cause := .matrixCheck, epc := t.pc, eval := m.zeroExtend 64, imp := false, toSys := false, seq := w.seq })

/-- MWAIT (R257): the thread parks; it leaves at once where its ticket is done. -/
def execMwait (f : Fields) (s : State) : Host.Outcome State Fault Refusal :=
  execEach (shapeDA f 0) f (fun s w lane t =>
    let a := read32 s w lane t f f.a
    match s.ownGroup w with
    | none => .fault .illegal 7
    | some g =>
      let tk := a.extractLsb' 0 16
      if 65536 ≤ a.toNat || 0 < (tk - g.issued).toInt then .fault .illegal 7
      else if !g.ticketDone tk then .done s (t.park (.mwait tk f.d.reg) f)
      else
        let t := (t.result f.d.reg [1]).advance f.form.len
        let s := s.mwaitDone w lane t tk
        .done s ((s.thread? w.id lane).getD t)) s

/-! ## Engine accesses to the vault (R259) -/

/-- An engine's read, checked as an LDV of the same bytes, poison too. -/
def State.engineLoad (s : State) (g : Workgroup) (addr : Word) (len align : Nat) : Except (Cause × DWord) (Workgroup × Nat) :=
  match s.engineVault g addr len align Buffer.loads with
  | .error e => .error e
  | .ok (x, off) =>
    if poisonedIn x.poison off len then .error (vaultFault .poison (addr &&& ~~~31#32)) else .ok (x, off)

/-- An engine's write, checked as an STV of the same bytes. -/
def State.engineStore (s : State) (g : Workgroup) (addr : Word) (len align : Nat) : Except (Cause × DWord) (Workgroup × Nat) :=
  s.engineVault g addr len align Buffer.stores

/-- The first fault of several checks: bounds first, then states, then poison (R211). -/
def firstFault (rs : List (Except (Cause × DWord) (Workgroup × Nat))) : Option (Cause × DWord) :=
  let err (c : Cause) : Option (Cause × DWord) :=
    (rs.filterMap fun r => match r with | .error e => if e.1 = c then some e else none | .ok _ => none).head?
  ((err .vaultBounds).orElse fun _ => err .vaultState).orElse fun _ => err .poison

/-- Bytes at a vault address as an operation reads them, byte by byte: those at issue, with what earlier operations wrote,
one that a write since has replaced, or those now (R131, R323). -/
def State.operandBytes (s : State) (g : Workgroup) (o : TicketOp) (draw : Nat) (addr : Word) (len : Nat) : List Byte :=
  match s.vaultIn (some g) addr len 1 with
  | .ok (x, off) => mixBytes 8 draw ((versions o.before x.id).map fun v => sbytes v off len) (sbytes x.vault off len)
  | .error _ => List.replicate len 0

/-- The first bytes of a slot as a tile operation reads them, element by element (R131). -/
def TicketOp.slotBytes (o : TicketOp) (g : Workgroup) (k code rows draw : Nat) : List Byte :=
  let n := rows * fmtRowBytes code (matK code)
  let now := (g.slot k).bytes
  mixBytes (packedBits code) draw ((versions o.before k).map fun v => sbytes v 0 n) (sbytes now 0 n)

/-- A later operation reads what an earlier one has written (R256). -/
def TicketOp.sees (o : TicketOp) (wg off : Nat) (data : List Byte) : TicketOp :=
  match o.kind with
  | .adrain _ _ _ _ _ _ | .desc _ _ _ _ _ _ | .dgrad _ _ _ _ _ =>
    { o with before := o.before.map fun p => if p.1 = wg then (p.1, swrite p.2 off data) else p }
  | _ => o

/-- An operation writes bytes at a vault address. -/
def State.engineWriteVault (s : State) (g : Workgroup) (addr : Word) (data : List Byte) : State :=
  match s.vaultIn (some g) addr data.length 1 with
  | .ok (x, off) =>
    (s.vaultWrite x.id off data).modWg g.id fun g => { g with ops := g.ops.map fun o => o.sees x.id off data }
  | .error _ => s

/-! ## Accumulator tiles -/

/-- A tile's words, by 96 i + j; an unlisted one is +0.0. -/
def Workgroup.tile (g : Workgroup) (k : Nat) : Sparse Word := lookD [] g.tiles k

def Workgroup.setTile (g : Workgroup) (k : Nat) (x : Sparse Word) : Workgroup :=
  { g with tiles := if x = [] then drop g.tiles k else put g.tiles k x }

/-- A table of `n` words from index `i` on, each made from the old one. -/
def mapWords (h : Nat → Word → Word) : Nat → Nat → Sparse Word → Sparse Word
  | 0, _, _ => []
  | n + 1, i, l =>
    let (old, rest) : Word × Sparse Word := match l with
      | (k, v) :: r => if k = i then (v, r) else (0, l)
      | [] => (0, [])
    let v := h i old
    let tail := mapWords h n (i + 1) rest
    if v = 0 then tail else (i, v) :: tail

/-- A tile with every element made from its row, column and old value. -/
def mapTile (h : Nat → Nat → Word → Word) (x : Sparse Word) : Sparse Word :=
  mapWords (fun i old => h (i / 96) (i % 96) old) (128 * 96) 0 x

/-- The tile that an operation reads or writes. -/
def TicketKind.usesTile (k : TicketKind) (tile : Nat) : Bool :=
  match k with
  | .mma _ _ c _ _ _ | .mtrans _ c _ _ | .mperm _ c _ _ _ | .mrsum _ c _ _ _ | .adrain c _ _ _ _ _ => c = tile
  | .aclr m => m.getLsbD tile
  | _ => false

/-- The tile that an operation writes. -/
def TicketKind.writesTile (k : TicketKind) (tile : Nat) : Bool :=
  match k with
  | .adrain c _ _ _ _ clr => clr && c = tile
  | k => k.usesTile tile

/-- An unpredictable word: one of those that could have been read there, or zero (R6, DESIGN CHOICE log 4). -/
def openWord (draw : Nat) (a b : Word) : Word :=
  if Config.coin (2 * draw) then a else if Config.coin (2 * draw + 1) then b else 0

/-- Unpredictable words, each of one of two lists or zero. -/
def openWords (draw : Nat) (a b : List Word) : List Word :=
  ((List.range a.length).zip (a.zip b)).map fun p => openWord (draw + p.1) p.2.1 p.2.2

/-- The position of AREAD and AWRITE (R276): tile, row, column; none where it breaks a limit. -/
def tilePosition (g : Workgroup) (a : Word) (n : Nat) : Option (Nat × Nat × Nat) :=
  let i := bits a 0 8
  let j := bits a 8 8
  let tile := bits a 16 16
  if i < 128 && j < 96 && tile < g.ntiles && j % n = 0 then some (tile, i, j) else none

/-- The words of a tile from a position on. -/
def Workgroup.tileRun (g : Workgroup) (tile i j n : Nat) : List Word :=
  (List.range n).map fun k => sget 0 (g.tile tile) (96 * i + j + k)

/-- Elements of a tile have no defined value for a thread: an incomplete operation writes them, or reads them and another thread
has written them since (R131, R276, R320). -/
def Workgroup.tileOpen (g : Workgroup) (wave lane tile at_ n : Nat) : Bool :=
  g.ops.any fun o => o.kind.writesTile tile || (o.kind.usesTile tile && o.tileOld.any fun x =>
    decide (at_ ≤ x.at_ ∧ x.at_ < at_ + n) && (x.wave ≠ wave || x.lane ≠ lane))

/-- AREAD (R276, R131): its value is that at issue; where that is not defined, it is found when the result arrives. -/
def execAread (f : Fields) (s : State) : Host.Outcome State Fault Refusal :=
  execEach (shapeAread f) f (fun s w lane t =>
    let n := tileWords (bits f.m 0 2)
    match (s.ownGroup w).bind fun g => (tilePosition g (read32 s w lane t f f.a) n).map fun x => (g, x) with
    | none => .fault .illegal 7
    | some (g, (tile, i, j)) =>
      if t.pendFull then .hold s
      else
        let ws := g.tileRun tile i j n
        let value := if g.tileOpen w.id lane tile (96 * i + j) n then none else some ws
        .done s.fresh ((t.pend s.nextId w.seq f.la.toNat n f.d.reg (.aread tile i j ws) value).advance f.form.len)) s

/-- An operation that reads a tile learns of elements that a thread changes under it. -/
def TicketOp.tileChanges (o : TicketOp) (wave lane tile at_ : Nat) (olds : List Word) : TicketOp :=
  if o.kind.usesTile tile && !o.kind.writesTile tile then
    { o with tileOld := o.tileOld ++ ((List.range olds.length).zip olds).map fun p =>
        { at_ := at_ + p.1, old := p.2, wave := wave, lane := lane } }
  else o

/-- AWRITE (R276, R320): elements that an incomplete operation writes are left unpredictable. -/
def execAwrite (f : Fields) (s : State) : Host.Outcome State Fault Refusal :=
  execEach (shapeAwrite f) f (fun s w lane t =>
    let n := tileWords (bits f.m 0 2)
    match (s.ownGroup w).bind fun g => (tilePosition g (read32 s w lane t f f.a) n).map fun x => (g, x) with
    | none => .fault .illegal 7
    | some (g, (tile, i, j)) =>
      let open_ := g.ops.any fun o => o.kind.writesTile tile
      let olds := g.tileRun tile i j n
      let new := if n = 1 then [read32 s w lane t f f.b] else readRun t f.b n
      let ws := if open_ then openWords s.draws new olds else new
      let s := if open_ then { s with draws := s.draws + n } else s
      let x := ((List.range n).zip ws).foldl (fun x p => sset 0 x (96 * i + j + p.1) p.2) (g.tile tile)
      let g := { g with ops := g.ops.map fun (o : TicketOp) => o.tileChanges w.id lane tile (96 * i + j) olds }
      .done (s.setWg (g.setTile tile x)) (t.advance f.form.len)) s

end Sys2Proof.Machine
end

