-- ==== Sys2Proof/Machine/Matrix.lean ====
section
/-! DEFINITION. The tile operations (R265-R269), the replay check (R272-R274), ACLR and ADRAIN (R275, R277),
and KNOCK (R271). -/

namespace Sys2Proof.Machine

open Sys2Proof

/-! ## Operand tiles (R260) -/

/-- The code of element `k` of a row that starts at byte `base` (R61). -/
def rowElem (code : Nat) (bs : Array Byte) (base k : Nat) : Nat :=
  let b (i : Nat) : Nat := (bs.getD (base + i) 0).toNat
  if code = 4 then (b (6 * k / 8) + 256 * b (6 * k / 8 + 1)) / 2 ^ (6 * k % 8) % 64
  else if fmtBits code = 32 then b (4 * k) + 256 * b (4 * k + 1) + 65536 * b (4 * k + 2) + 16777216 * b (4 * k + 3)
  else if fmtBits code = 16 then b (2 * k) + 256 * b (2 * k + 1)
  else b k

/-- The bytes of a row of codes (R61). -/
def packRow (code : Nat) (cs : List Nat) : List Byte :=
  let w := if code = 4 then 6 else fmtBits code
  leBytes (fmtRowBytes code cs.length) (cs.foldr (fun c acc => acc * 2 ^ w + c % 2 ^ w) 0)

/-- The elements in the bytes of a slot by row (of A) or column (of B), K fastest. -/
def slotElems (data : List Byte) (code rows : Nat) : Array FVal :=
  let n := fmtRowBytes code (matK code)
  let bs := data.toArray
  ((List.range rows).flatMap fun r => (List.range (matK code)).map fun k => fmtDecode code (rowElem code bs (r * n) k)).toArray

/-- Positive zero. -/
def FVal.zero : FVal := .fin false 0 0

/-- An exact sum (R10): one of -0 alone is -0, any other zero is +0 (DEDUCED log 47). -/
def exactSum : List FVal → FVal
  | [] => FVal.zero
  | x :: l => l.foldl (fun a b => a.add false b) x

/-- An exact sum S goes into an accumulator element (R73, R74). -/
def accumulate (zero : Bool) (old : Word) (x : FVal) : Word :=
  if zero then rne32 x else rne32 ((f32 old).add false x)

/-- The sum of a dot product of row `i` of one operand and row `j` of the other. -/
def dotRows (k : Nat) (a b : Array FVal) (i j : Nat) : FVal :=
  exactSum ((List.range k).map fun n => (a.getD (i * k + n) FVal.zero).mul (b.getD (j * k + n) FVal.zero))

/-- MMA's tile from the bytes of its slots (R265). -/
def mmaTile (a b : List Byte) (fs : Word) (zero : Bool) (x : Sparse Word) : Sparse Word :=
  let k := matK (fsA fs)
  let ea := slotElems a (fsA fs) 128
  let eb := slotElems b (fsB fs) 96
  mapTile (fun i j old => accumulate zero old (dotRows k ea eb i j)) x

/-- MTRANS's tile (R266) (DEDUCED log 48). -/
def mtransTile (a : List Byte) (fs : Word) (x : Sparse Word) : Sparse Word :=
  let k := matK (fsB fs)
  let e := slotElems a (fsB fs) 96
  mapTile (fun i j old => accumulate false old (if i < 96 ∧ j < k then e.getD (i * k + j) FVal.zero else FVal.zero)) x

/-- π of MPERM (R266). -/
def permRow (k : Nat) (perm : Word) (i : Nat) : Nat := ((i ^^^ bits perm 0 6) + bits perm 8 6) % k

/-- MPERM's tile (R266). -/
def mpermTile (a : List Byte) (fs perm : Word) (x : Sparse Word) : Sparse Word :=
  let k := matK (fsB fs)
  let e := slotElems a (fsB fs) 96
  mapTile (fun i j old => accumulate false old (if i < k then e.getD (j * k + permRow k perm i) FVal.zero else FVal.zero)) x

/-- MRSUM's tile (R266). -/
def mrsumTile (a : List Byte) (fs : Word) (col : Bool) (x : Sparse Word) : Sparse Word :=
  let code := if col then fsB fs else fsA fs
  let k := matK code
  let e := slotElems a code (if col then 96 else 128)
  mapTile (fun i j old =>
    let r := if col then j else i
    accumulate false old (exactSum ((List.range k).map fun n => e.getD (r * k + n) FVal.zero))) x

/-! ## Issue of tile operations -/

/-- The replay check of the next tile operation of a core: its rotation, if it is checked (R272, R274). -/
def State.replayOf (s : State) (core : Nat) (g : Workgroup) (chk : Bool) (rot : Option Nat) : Option Nat :=
  let c := s.core core
  let sampled := c.mchkctl.getLsbD 1 && c.tileSeq % 2 ^ bits c.mchkctl 8 4 = 0
  if chk || sampled then some (rot.getD (1 + (g.issued + 1).toNat % 127)) else none

/-- A tile operation issues: it takes its token, ticket and core-wide number. -/
def State.issueTile (s : State) (w : Wave) (g : Workgroup) (level : Level) (chk : Bool) (rot : Option Nat)
    (kind : Option Nat → TicketKind) : State × Word :=
  let (s', tk) := (s.takeToken w.core w.pane).issueTicket w g level (some w.pane) (kind (s.replayOf w.core g chk rot))
  let c := s'.core w.core
  (s'.setCore w.core { c with tileSeq := c.tileSeq + 1 }, tk)

/-- A tile operation of a wave instruction: it waits at issue for room and for a token. -/
def tileOp (f : Fields) (s : State) (w : Wave) (g : Workgroup) (on : List Nat) (chk : Bool) (rot : Option Nat)
    (kind : Option Nat → TicketKind) : WRes :=
  if ticketLimit ≤ g.ops.length || s.paneTokens w.core w.pane = 0 || w.acquiring on then .hold
  else
    let (s, tk) := s.issueTile w g (s.levelAt w on) chk rot kind
    .done s fun _ t => (t.result f.d.reg [tk]).advance f.form.len

/-- A slot that an operation may read: it exists and is HELD (R255, R261). -/
def Workgroup.readable (g : Workgroup) (k : Nat) : Bool := k < g.nslots && (g.slot k).held

/-- The first `n` bytes of a slot hold poison (R104). -/
def Workgroup.slotPoison (g : Workgroup) (k n : Nat) : Bool := poisonedIn (g.slot k).poison 0 n

/-- The operands of an MMA as they were read. -/
def mmaFields (f : Fields) (s : State) (w : Wave) (lane : Nat) (t : Thread) : SignFields :=
  { a := read32 s w lane t f f.a, b := read32 s w lane t f f.b, c := read32 s w lane t f f.c, m := f.m &&& 0x20F,
    e := if f.form = .f128 then some (read32 s w lane t f f.e) else none }

/-- An MMA names a slot, tile, format or rotation that it may not (R255, R265, R272). -/
def mmaIllegal (fs : Word) (g : Workgroup) (x : SignFields) : Bool :=
  decide (g.nslots ≤ x.a.toNat) || decide (g.nslots ≤ x.b.toNat) || decide (g.ntiles ≤ x.c.toNat)
    || !matPair (fsA fs) (fsB fs)
    || (match x.e with | some e => e = 0 || decide (127 < e.toNat) | none => false)

/-- Its operation. -/
def mmaKind (fs : Word) (x : SignFields) (check : Option Nat) : TicketKind :=
  .mma x.a.toNat x.b.toNat x.c.toNat fs (x.m.getLsbD 3) check

/-- Its slots are HELD and hold no poison: the fault otherwise. -/
def mmaSlots (fs : Word) (g : Workgroup) (x : SignFields) : Option (Cause × DWord) :=
  if !(g.slot x.a.toNat).held || !(g.slot x.b.toNat).held then some (.illegal, 7)
  else if g.slotPoison x.a.toNat (tileBytes (fsA fs) false) || g.slotPoison x.b.toNat (tileBytes (fsB fs) true) then
    some (.poison, 0)
  else none

/-- Threads of a workgroup that signed a convergence register leave their parks with the ticket (R268). -/
def State.leaveSign (s : State) (wg cv : Nat) (tk : Word) : State :=
  { s with waves := s.waves.map fun w =>
      if w.wg = wg then
        { w with threads := w.threads.map fun t =>
            match t.run with
            | .parked (.sign n d) len => if n = cv then t.unpark len d [tk] else t
            | _ => t }
      else w }

/-- One thread signs (R268). -/
def signMma (f : Fields) (s : State) (w : Wave) (lane : Nat) (t : Thread) : TRes :=
  match s.ownGroup w with
  | none => .fault .illegal 7
  | some g =>
    let fs := formatSlot s w (bits f.m 0 3)
    let x := mmaFields f s w lane t
    let cv := bits f.m 5 4
    if mmaIllegal fs g x then .fault .illegal 7
    else match look g.cvs cv with
      | none => .fault .illegal 7
      | some v =>
        if v.fields.isSome && v.fields ≠ some x then .fault .msignMismatch (BitVec.ofNat 64 cv)
        else if v.count + 1 < v.n then
          .done (s.setWg { g with cvs := put g.cvs cv { v with count := v.count + 1, fields := some x } }) (t.park (.sign cv f.d.reg) f)
        else match mmaSlots fs g x with
          | some (.poison, e) => .poison e 0
          | some (c, e) => .fault c e
          | none =>
            if ticketLimit ≤ g.ops.length || s.paneTokens w.core w.pane = 0 || t.acquiring then .hold s
            else
              let (s, tk) := s.issueTile w g t.level (x.m.getLsbD 9) (x.e.map fun e => e.toNat) (mmaKind fs x)
              let s := s.modWg g.id fun g => { g with cvs := drop g.cvs cv }
              .done (s.leaveSign g.id cv tk) ((t.result f.d.reg [tk]).advance f.form.len)

/-- MMA (R265), with `.J` by each thread's signature (R268). -/
def execMma (f : Fields) (s : State) : Host.Outcome State Fault Refusal :=
  if bit f.m 4 then execEach (shapeMma f) f (signMma f) s
  else
    execGroup (shapeMma f) f
      (fun s w lane t =>
        let x := mmaFields f s w lane t
        [x.a, x.b, x.c] ++ x.e.toList) (fun s w g on v =>
      let fs := formatSlot s w (bits f.m 0 3)
      let x : SignFields := { a := word v 0, b := word v 1, c := word v 2, m := f.m &&& 0x20F, e := v[3]? }
      if mmaIllegal fs g x then .fault .illegal 7
      else match mmaSlots fs g x with
        | some (c, e) => .fault c e
        | none => tileOp f s w g on (bit f.m 9) (x.e.map fun e => e.toNat) (mmaKind fs x)) s

/-- MSIGN (R267). -/
def execMsign (f : Fields) (s : State) : Host.Outcome State Fault Refusal :=
  execGroup (shapeMsign f) f (fun s w lane t => [read32 s w lane t f f.a]) (fun s _ g _ v =>
    let n := (word v 0).toNat
    let cv := bits f.m 0 4
    if n = 0 || 1024 < n || (look g.cvs cv).isSome then .fault .illegal 7
    else .done (s.setWg { g with cvs := put g.cvs cv { n := n, count := 0, fields := none } }) fun _ t => t.advance f.form.len) s

/-- A tile operation on one slot: its checks, then its issue. -/
def oneSlot (f : Fields) (s : State) (w : Wave) (g : Workgroup) (on : List Nat) (a c : Nat) (code : Nat) (roleB : Bool)
    (kind : Option Nat → TicketKind) : WRes :=
  if !g.readable a || g.ntiles ≤ c || !matFormat code then .fault .illegal 7
  else if g.slotPoison a (tileBytes code roleB) then .fault .poison 0
  else tileOp f s w g on false none kind

/-- MTRANS (R266). -/
def execMtrans (f : Fields) (s : State) : Host.Outcome State Fault Refusal :=
  execGroup (shapeMtrans f) f (fun s w lane t => [read32 s w lane t f f.a, read32 s w lane t f f.c]) (fun s w g on v =>
    let fs := formatSlot s w (bits f.m 0 3)
    let a := (word v 0).toNat
    let c := (word v 1).toNat
    oneSlot f s w g on a c (fsB fs) true (.mtrans a c fs)) s

/-- MPERM (R266). -/
def execMperm (f : Fields) (s : State) : Host.Outcome State Fault Refusal :=
  execGroup (shapeDABC f 7) f
    (fun s w lane t => [read32 s w lane t f f.a, read32 s w lane t f f.b, read32 s w lane t f f.c]) (fun s w g on v =>
    let fs := formatSlot s w (bits f.m 0 3)
    let a := (word v 0).toNat
    let b := word v 1
    let c := (word v 2).toNat
    if bits b 6 2 ≠ 0 || bits b 14 18 ≠ 0 || (matK (fsB fs) = 32 && (32 ≤ bits b 0 6 || 32 ≤ bits b 8 6)) then .fault .illegal 7
    else oneSlot f s w g on a c (fsB fs) true (.mperm a c fs b)) s

/-- MRSUM (R266). -/
def execMrsum (f : Fields) (s : State) : Host.Outcome State Fault Refusal :=
  execGroup (shapeMrsum f) f (fun s w lane t => [read32 s w lane t f f.a, read32 s w lane t f f.c]) (fun s w g on v =>
    let fs := formatSlot s w (bits f.m 0 3)
    let a := (word v 0).toNat
    let c := (word v 1).toNat
    let col := bit f.m 3
    oneSlot f s w g on a c (if col then fsB fs else fsA fs) col (.mrsum a c fs col)) s

/-! ## ACLR and ADRAIN -/

/-- ACLR (R275). -/
def execAclr (f : Fields) (s : State) : Host.Outcome State Fault Refusal :=
  execGroup (shapeDA f 0) f (fun s w lane t => [read32 s w lane t f f.a]) (fun s w g on v =>
    let a := (word v 0).toNat
    if a = 0 || 2 ^ g.ntiles ≤ a || 65536 ≤ a then .fault .illegal 7
    else ticketed f s w g on (.aclr (BitVec.ofNat 16 a))) s

/-- Bytes of an element of an output format where its rows need alignment, else 1 (R259). -/
def drainAlign (code : Nat) : Nat := if code = 4 then 1 else fmtBits code / 8

/-- The address of row `i` of a drain. -/
def drainRow (dst : Word) (pitch i : Nat) : Word := dst + BitVec.ofNat 32 (i * pitch)

/-- ADRAIN (R277). -/
def execAdrain (f : Fields) (s : State) : Host.Outcome State Fault Refusal :=
  execGroup (shapeAdrain f) f
    (fun s w lane t => [read32 s w lane t f f.a, read32 s w lane t f f.b, read32 s w lane t f f.c]) (fun s w g on v =>
    let fs := formatSlot s w (bits f.m 0 3)
    let a := word v 0
    let code := fsO fs
    let row := fmtRowBytes code 96
    let p := bits a 16 16
    let pitch := if p = 0 then row else p
    let tile := bits a 0 4
    let scaled := decide (fsMode fs ≠ 0)
    if bits a 4 12 ≠ 0 || g.ntiles ≤ tile || pitch < row || pitch % drainAlign code ≠ 0 then .fault .illegal 7
    else if scaled = decide (f.c = .none) then .fault .illegal 7
    else
      let part (on : Bool) (lo n : Nat) := if on then [s.engineLoad g (word v 2 + BitVec.ofNat 32 lo) n 1] else []
      let rows := (List.range 128).map fun i => s.engineStore g (drainRow (word v 1) pitch i) row (drainAlign code)
      let scales := part (fsMode fs = 1 || fsMode fs = 3) 0 128 ++ part (fsMode fs = 2 || fsMode fs = 3) 128 96
      match firstFault (rows ++ scales) with
      | some (c, e) => .fault c e
      | none => ticketed f s w g on (.adrain tile pitch (word v 1) (if scaled then some (word v 2) else none) fs (bit f.m 3))) s

/-- An element of a drain (R75). -/
def drainElem (fs : Word) (seed : DWord) (ea eb idx : Nat) (d : Word) : Nat :=
  if ea = 255 ∨ eb = 255 then fmtNan (fsO fs)
  else
    fmtEncode (fsO fs) (Mode.ofCode (fsRnd fs)) (fsSat fs) (rsrBits seed idx)
      ((f32 d).scale ((ea : Int) - 127 + ((eb : Int) - 127)))

/-- A tile as an operation reads it: an element that an AWRITE has changed since its issue holds what it did before, what it holds
now, or zero (R6, R276). -/
def TicketOp.tileSeen (o : TicketOp) (draw : Nat) (x : Sparse Word) : Sparse Word :=
  (((List.range o.tileOld.length).zip o.tileOld).foldl (fun (r : Sparse Word) p =>
    sset 0 r p.2.at_ (openWord (draw + 256 + p.1) p.2.old (sget 0 x p.2.at_))) x)

/-- The rows that ADRAIN writes, and the tile after it (R75, R277). -/
def State.runDrain (s : State) (g : Workgroup) (o : TicketOp) (tile pitch : Nat) (dst : Word) (scale : Option Word) (fs : Word) (clr : Bool) : State :=
  let seed := ((s.entry? g.entry).map fun e => e.record.seed).getD 0
  let mode := fsMode fs
  let scaleA := if mode = 1 ∨ mode = 3 then (scale.map fun c => s.operandBytes g o s.draws c 128).getD [] else []
  let scaleB := if mode = 2 ∨ mode = 3 then (scale.map fun c => s.operandBytes g o (s.draws + 128) (c + 128) 96).getD [] else []
  let code (l : List Byte) (i : Nat) : Nat := ((l[i]?).map fun b => b.toNat).getD 127
  let x := (sgets (o.tileSeen s.draws (g.tile tile))).toArray
  let base := (s.linearWg g * 16 + tile) * 2 ^ 14
  let s := s.drawnBy (256 + o.tileOld.length)
  let s := (List.range 128).foldl (fun s i =>
    let cs := (List.range 96).map fun j => drainElem fs seed (code scaleA i) (code scaleB j) (base + i * 96 + j) (x.getD (i * 96 + j) 0)
    s.engineWriteVault g (drainRow dst pitch i) (packRow (fsO fs) cs)) s
  if clr then s.modWg g.id fun g => g.setTile tile [] else s
where
  /-- All the words of a tile in order. -/
  sgets (x : Sparse Word) : List Word := go (128 * 96) 0 x
  go : Nat → Nat → Sparse Word → List Word
    | 0, _, _ => []
    | n + 1, i, (k, v) :: r => if k = i then v :: go n (i + 1) r else 0 :: go n (i + 1) ((k, v) :: r)
    | n + 1, i, [] => 0 :: go n (i + 1) []

/-! ## Running a tile operation -/

/-- A tile operation writes its tile. -/
def State.runTile (s : State) (wg tile : Nat) (h : Sparse Word → Sparse Word) : State :=
  s.modWg wg fun g => g.setTile tile (h (g.tile tile))

/-- The end of a replay check (R273): a mismatch is logged and marked. -/
def State.endReplay (s : State) (g : Workgroup) (o : TicketOp) (tile : Nat) (check : Option Nat) : State :=
  if check.isNone then s
  else
    let c := s.core o.core
    let s := s.setCore o.core { c with mchkcnt := c.mchkcnt + 1 }
    if !c.replayFaults.contains o.tileSeq then s
    else
      let c := s.core o.core
      let s := s.setCore o.core { c with mchkmis := BitVec.ofNat 32 (min (c.mchkmis.toNat + 1) (2 ^ 32 - 1)) }
      let s := s.logCheck (dieOf o.core) o.core 6 0 tile o.ticket.toNat 0
      s.modWg g.id fun g => { g with
        matrixCheck := true
        mismatched := if c.mchkctl.getLsbD 2 then g.mismatched ++ [o.ticket] else g.mismatched }

/-! ## KNOCK (R271) -/

/-- Tokens of a class that a workgroup holds: 0 BULK, 1 DRAIN, 2 COLL. -/
def Workgroup.tokens (g : Workgroup) (cls : Nat) : Nat := if cls = 0 then g.bulk else if cls = 1 then g.drain else g.coll

def Workgroup.setTokens (g : Workgroup) (cls n : Nat) : Workgroup :=
  if cls = 0 then { g with bulk := n } else if cls = 1 then { g with drain := n } else { g with coll := n }

/-- Outstanding tokens of a class, and its current limit (R349). -/
def Power.out (p : Power) (cls : Nat) : Nat := if cls = 0 then p.bulkOut else if cls = 1 then p.drainOut else p.collOut
def Power.limit (p : Power) (cls : Nat) : Nat := if cls = 0 then p.bulkLimit else if cls = 1 then p.drainLimit else p.collLimit

def Power.setOut (p : Power) (cls n : Nat) : Power :=
  if cls = 0 then { p with bulkOut := n } else if cls = 1 then { p with drainOut := n } else { p with collOut := n }

/-- KNOCK (R271). -/
def execKnock (f : Fields) (s : State) : Host.Outcome State Fault Refusal :=
  execGroup (shapeDAB f 1) f (fun s w lane t => [read32 s w lane t f f.a, read32 s w lane t f f.b]) (fun s _ g _ v =>
    let cls := (word v 0).toNat
    let b := (word v 1).toNat
    if 3 ≤ cls || b = 0 || 8 < b then .fault .illegal 7
    else if bit f.m 0 then
      if g.tokens cls < b then .fault .illegal 7
      else
        let n := g.tokens cls - b
        .done { s.setWg (g.setTokens cls n) with power := s.power.setOut cls (s.power.out cls - b) }
          fun _ t => (t.result f.d.reg [BitVec.ofNat 32 n]).advance f.form.len
    else if 8 < g.tokens cls + b then .fault .illegal 7
    else .done s.fresh fun _ t => t.park (.knock cls b s.nextId f.d.reg) f) s

/-- KNOCK_GRANT (R271, R349): the pool grants all tokens of a parked request at once (DEDUCED log 51). One that would now make
its workgroup hold more than 8 raises ILLEGAL. -/
def execKnockGrant (die core slot lane : Nat) (s : State) : Host.Outcome State Fault Refusal :=
  match (s.waveAt (32 * die + core) slot).bind fun w => (s.wg? w.wg).bind fun g => (w.threads[lane]?).bind fun t =>
      t.parkNow.map fun p => (w, g, p) with
  | some (w, g, .knock cls b o _) =>
    if 8 < g.tokens cls + b then
      .next (s.setWave { w with threads := w.threads.map fun t =>
        match t.run with
        | .parked (.knock _ _ x _) _ => if x = o then { t with run := .running }.fault .illegal 7 w.seq else t
        | _ => t })
    else if s.power.stopped || s.power.limit cls < s.power.out cls + b then .next s
    else
      let n := g.tokens cls + b
      let s : State := { s.setWg (g.setTokens cls n) with power := s.power.setOut cls (s.power.out cls + b) }
      .next (s.setWave { w with threads := w.threads.map fun t =>
        match t.run with
        | .parked (.knock _ _ x d) len => if x = o then t.unpark len d [BitVec.ofNat 32 n] else t
        | _ => t })
  | _ => .next s

end Sys2Proof.Machine
end

