-- ==== Sys2Proof/Machine/Power.lean ====
section
/-! DEFINITION. The package power controller (R349-R351, R423) and the grant of MAT tokens to panes (R270,
R350). What is measured comes with the event (DESIGN CHOICE log 12). -/

namespace Sys2Proof.Machine

open Sys2Proof

/-! ## MAT tokens (R270, R346, R350) -/

/-- A group at an instruction would issue an operation that takes a MAT token (R270). -/
def State.usesToken (s : State) (w : Wave) (lanes : List Nat) (i : Instr) : Bool :=
  match i with
  | .mma f =>
    let on := w.onLanes f lanes
    if bit f.m 4 then
      match (s.wg? w.wg).bind fun g => look g.cvs (bits f.m 5 4) with
      | some v => on ≠ [] && decide (v.n ≤ v.count + on.length)
      | none => false
    else on ≠ []
  | .mtrans f | .mperm f | .mrsum f | .desc f => w.onLanes f lanes ≠ []
  | _ => false

/-- A wave is not ready for lack of a token (R270, R346). -/
def State.lacksToken (s : State) (w0 : Wave) : Bool :=
  s.paneTokens w0.core w0.pane = 0 && w0.isUser &&
    (let w := s.padded w0
     let lanes := packGroup w.eligibleLanes
     match w.firstThread lanes with
     | none => false
     | some t =>
       match s.fetchAt w t.level t.pc with
       | .ok i => s.usesToken w lanes i
       | _ => false)

/-- A pane requests a token of the pool (R350). -/
def State.requestsToken (s : State) (core pane : Nat) : Bool :=
  s.paneTokens core pane = 0
    && s.waves.any fun w => w.core = core && w.pane = pane && s.waveReady w && s.lacksToken w

/-- Cores with a requesting pane. -/
def State.tokenCores (s : State) : List Nat :=
  (s.waves.filter fun w => s.waveReady w && s.lacksToken w).map fun w => w.core

/-- How far a core stands from the next one to be served. -/
def Power.turnOf (p : Power) (core : Nat) : Nat := (core + 256 - p.nextCore) % 256

/-- TOKEN_GRANT (R349, R350): the pool serves cores round-robin, below the limit. -/
def execTokenGrant (die core pane : Nat) (s : State) : Host.Outcome State Fault Refusal :=
  let c := 32 * die + core
  let p := s.power
  if p.stopped || p.matLimit ≤ p.matOut || !s.requestsToken c pane
      || (s.tokenCores.any fun x => decide (p.turnOf x < p.turnOf c)) then .next s
  else
    let k := s.core c
    let s := s.setCore c (k.setStock pane { since := [s.clk] })
    .next { s with power := { p with matOut := p.matOut + 1, nextCore := (c + 1) % 256 } }

/-- TOKEN_IDLE_RETURN (R350). -/
def execTokenIdleReturn (die core pane : Nat) (s : State) : Host.Outcome State Fault Refusal :=
  let c := 32 * die + core
  let k := s.core c
  match (k.stock pane).since with
  | t :: ts =>
    if s.clk < t + 1024 then .next s
    else
      let s := s.setCore c (k.setStock pane { since := ts })
      .next { s with power := { s.power with matOut := s.power.matOut - 1 } }
  | [] => .next s

/-! ## Evaluation (R351, R423) -/

/-- The limits lowered by one step: COLL, then BULK, then DRAIN by halves, then MAT. -/
def Power.lower (p : Power) : Power :=
  if p.collLimit ≠ 0 then { p with collLimit := p.collLimit / 2 }
  else if p.bulkLimit ≠ 0 then { p with bulkLimit := p.bulkLimit / 2 }
  else if p.drainLimit ≠ 0 then { p with drainLimit := p.drainLimit / 2 }
  else { p with matLimit := p.matLimit - p.matSize / 16 }

/-- A limit doubled from 1, within its size. -/
def doubled (limit size : Nat) : Nat := min size (if limit = 0 then 1 else 2 * limit)

/-- The limits raised by one step, in the reverse order. -/
def Power.lift (p : Power) : Power :=
  if p.matLimit < p.matSize then { p with matLimit := min p.matSize (p.matLimit + p.matSize / 16) }
  else if p.drainLimit < p.drainSize then { p with drainLimit := doubled p.drainLimit p.drainSize }
  else if p.bulkLimit < p.bulkSize then { p with bulkLimit := doubled p.bulkLimit p.bulkSize }
  else { p with collLimit := doubled p.collLimit p.collSize }

/-- The controller after an evaluation of the averages over 10 ms and over 1 us, and of the hottest
junction. -/
def Power.evaluate (p : Power) (average fast temp : Nat) : Power :=
  let p := { p with
    avg := min average 8191
    temp := min temp 255
    stopped := if p.stopped then decide (p.cap ≤ fast) else decide (11 * p.cap < 10 * fast) }
  if p.cap < p.avg + 50 || p.throt ≤ p.temp then p.lower
  else if p.avg + 150 < p.cap then p.lift
  else p

/-- The temperature at which every pane stops (R423). -/
def tripTemp : Nat := 115

/-- Every pane stops until reset (R423). -/
def State.trip (s : State) (temp : Nat) : State :=
  { s with
    power := { s.power with temp := min temp 255, tripped := true }
    system := { s.system with err := 3 } }

/-- POWER_EVALUATE (R351, R423): every 4,096 clk. -/
def execPowerEvaluate (average fast temp : Nat) (s : State) : Host.Outcome State Fault Refusal :=
  if s.clk % 4096 ≠ 0 then .next s
  else
    let t : State := { s with power := s.power.evaluate average fast temp }
    .next (if temp < tripTemp then t else t.trip temp)

/-- THERMAL_TRIP (R423). -/
def execThermalTrip (temp : Nat) (s : State) : Host.Outcome State Fault Refusal :=
  if temp < tripTemp then .next s else .next (s.trip temp)

end Sys2Proof.Machine
end

