-- ==== Sys2Proof/Machine/Quant.lean ====
section
/-! DEFINITION. Block quantisation: QBLK and QRES (R77-R79, R278, R279). -/

namespace Sys2Proof.Machine

open Sys2Proof

/-- Body bits of a tapered format code (R62). -/
def tfBody (code : Nat) : Nat := if code = 3 then 7 else 5

/-- The exponent of a block of FP32 words with no NaN (R77). -/
def blockExp (xs : List Word) : Int :=
  let mags := xs.filterMap fun x => match f32 x with | .fin _ m e => some (m, e) | _ => none
  let top (x : Nat × Int) : Int := x.2 + Nat.log2 x.1
  let nz := mags.filter fun x => x.1 ≠ 0
  let e : Int := match nz with
    | [] => 0
    | x :: l => l.foldl (fun m y => max m (top y)) (top x)
  max (-127) (min 127 e)

/-- The scale of a block (R77); 0xFF where an element is NaN. -/
def blockScale (xs : List Word) : Nat :=
  if xs.any fun x => (f32 x).isNan then 255 else (blockExp xs + 127).toNat

/-- The code of an element of a block (R77). -/
def blockCode (fs : Word) (scale : Nat) (u : Nat) (x : Word) : Nat :=
  let w := tfBody (fsO fs)
  if scale = 255 then 2 ^ w
  else match f32 x with
    | .inf s => if fsSat fs then (if s then 2 ^ w else 0) + (2 ^ w - 1) else 2 ^ w
    | v => tfEncode w (Mode.ofCode (fsRnd fs)) (fsSat fs) u (v.scale (127 - (scale : Int)))

/-- The new residual of an element (R78). -/
def newResidual (fs : Word) (scale q : Nat) (x : Word) : Word :=
  let w := tfBody (fsO fs)
  match f32 x with
  | .fin s m e =>
    if q = 2 ^ w then 0
    else rne32 ((FVal.fin s m e).add false ((tfDecode q w).scale ((scale : Int) - 127)).neg)
  | _ => 0

/-- The values that a thread gives: one, or four with `.X4`. -/
def quantValues (f : Fields) (s : State) (w : Wave) (lane : Nat) (t : Thread) : List Word :=
  if bit f.m 3 then readRun t f.a 4 else [read32 s w lane t f f.a]

/-- The codes of a thread's elements (R278). -/
def threadCodes (f : Fields) (s : State) (w : Wave) (lane : Nat) (t : Thread) (scale : Nat) (xs : List Word) : List Nat :=
  let fs := formatSlot s w (bits f.m 0 3)
  let base := (read32 s w lane t f f.b).toNat * 2 ^ 32 + threadNumber s w lane * 4
  ((List.range xs.length).zip xs).map fun p => blockCode fs scale (rsrBits (seedOf s w) (base + p.1)) p.2

/-- The low word of the result: element j in byte j (R278). -/
def codeWord (cs : List Nat) : Word := BitVec.ofNat 32 (cs.foldr (fun c acc => acc * 256 + c % 256) 0)

/-- A format slot that QBLK and QRES refuse (R278). -/
def quantIllegal (f : Fields) (s : State) (w : Wave) : Bool :=
  let fs := formatSlot s w (bits f.m 0 3)
  fsA fs ≠ 0 || !(fsO fs = 3 || fsO fs = 4)

/-- QBLK (R278). -/
def execQblk (f : Fields) (s : State) : Host.Outcome State Fault Refusal :=
  execAcross (shapeQuant f .none) f (fun s w _ _ => if quantIllegal f s w then some (.illegal, 7) else none)
    (fun s w on lane t =>
      let values (l : Nat) : List Word := ((w.threads[l]?).map (quantValues f s w l)).getD []
      let scale := blockScale (on.flatMap values)
      t.result f.d.reg [codeWord (threadCodes f s w lane t scale (values lane)), BitVec.ofNat 32 scale]) s

/-- The vault stores of a wave that a QRES of one of its threads sees: the thread's own (R114), and residuals of the wave's QRES
before it (R79). -/
def residualStores (w : Wave) (lane wg : Nat) : List (Nat × List Byte) :=
  vaultStores wg (w.store.filter fun a => a.lane = lane || a.residual)

/-- The residual bytes of a thread, checked as both a load and a store (R279), poison too. -/
def residualAt (f : Fields) (s : State) (w : Wave) (lane : Nat) (t : Thread) : Except (Cause × DWord) (Workgroup × Nat) :=
  let addr := read32 s w lane t f f.c
  let n := if bit f.m 3 then 16 else 4
  match s.vaultAt w addr n n with
  | .error e => .error e
  | .ok (g, off) =>
    if !(g.touched off n).all fun b => b.loads && b.stores then .error (vaultFault .vaultState addr)
    else match poisonSeen g.poison off n (residualStores w lane g.id) with
      | some _ => .error (vaultFault .poison (addr &&& ~~~31#32))
      | none => .ok (g, off)

/-- The residuals that a thread of a wave reads at an offset. -/
def residualsAt (w : Wave) (lane : Nat) (g : Workgroup) (off n : Nat) : List Word :=
  wordsOf n (overlay off (sbytes g.vault off (4 * n)) (residualStores w lane g.id))

/-- A thread's elements with their residuals added (R78). -/
def residualValues (f : Fields) (s : State) (w : Wave) (lane : Nat) (t : Thread) : List Word :=
  let xs := quantValues f s w lane t
  match residualAt f s w lane t with
  | .error _ => xs
  | .ok (g, off) => (xs.zip (residualsAt w lane g off xs.length)).map fun p => rne32 ((f32 p.1).add false (f32 p.2))

/-- The faults of QRES in a thread (R278, R279). -/
def residualFault (f : Fields) (s : State) (w : Wave) (lane : Nat) (t : Thread) : Option (Cause × DWord) :=
  if quantIllegal f s w then some (.illegal, 7)
  else match residualAt f s w lane t with
    | .error e => some e
    | .ok _ => none

/-- Another wave's QRES has written a residual element, and nothing else has since (R79). -/
def Workgroup.residualClash (g : Workgroup) (wave k : Nat) : Bool :=
  let m := sget 0 g.residuals k
  m ≠ 0 && m ≠ wave + 2

/-- It is noted who writes residual elements: one wave, or several. -/
def Workgroup.markResiduals (g : Workgroup) (wave k n : Nat) : Workgroup :=
  { g with residuals := (List.range n).foldl (fun r i =>
      let m := sget 0 r (k + i)
      sset 0 r (k + i) (if m = 0 || m = wave + 2 then wave + 2 else 1)) g.residuals }

/-- Residuals that a thread has formed enter its wave's queue. Those of elements that another wave's QRES has written too end
unpredictable, whichever of the two is performed last (R6, R79, DESIGN CHOICE log 4). -/
def State.queueResiduals (s : State) (w : Wave) (lane : Nat) (g : Workgroup) (off : Nat) (ws : List Word) : State :=
  let clash (k : Nat) : Bool := g.residualClash w.id (off / 4 + k)
  let olds := residualsAt w lane g off ws.length
  let data := bytesOf (ws.mapIdx fun k x => if clash k then openWord (s.draws + k) x (word olds k) else x)
  let a := { s.accessOf w lane none none (.vault g.id off data) with residual := true }
  let s := (s.queueTo w.id a).modWg g.id fun g => g.markResiduals w.id (off / 4) ws.length
  if (List.range ws.length).any clash then
    { s with
      draws := s.draws + ws.length
      waves := s.waves.map fun v =>
        if v.id = w.id then v
        else { v with store := v.store.map fun b =>
          match b.work with
          | .vault x o d => if b.residual && x = g.id then { b with work := .vault x o (overlay o d [(off, data)]) } else b
          | _ => b } }
  else s

/-- The residual store of a participating thread enters its wave's queue. -/
def storeResidual (f : Fields) (w : Wave) (scale : Nat) (s : State) (lane : Nat) : State :=
  match w.threads[lane]? with
  | none => s
  | some t =>
    match residualAt f s w lane t with
    | .error _ => s
    | .ok (g, off) =>
      let fs := formatSlot s w (bits f.m 0 3)
      let xs := residualValues f s w lane t
      let cs := threadCodes f s w lane t scale xs
      s.queueResiduals w lane ((s.wg? g.id).getD g) off ((xs.zip cs).map fun p => newResidual fs scale p.2 p.1)

/-- The participating threads of QRES and the scale of their block. -/
def residualBlock (sh : Shape) (f : Fields) (s : State) (w : Wave) (lanes : List Nat) : List Nat × Nat :=
  let v := w.issued s sh f
  let ok (l : Nat) : Bool := ((v.threads[l]?).map fun t => (residualFault f s v l t).isNone).getD false
  let on := (w.clearLanes sh f lanes).filter ok
  (on, blockScale (on.flatMap fun l => ((v.threads[l]?).map (residualValues f s v l)).getD []))

/-- QRES (R279) of a wave whose earlier reads are performed: the block, then the residual stores in ascending lane order. A group
with a participating thread whose earlier acquire is not performed waits at issue. -/
def quantResidual (f : Fields) (s : State) : Host.Outcome State Fault Refusal :=
  let sh := shapeQuant f .s32
  let r := execAcross sh f (fun s w lane t => residualFault f s w lane t)
    (fun s w on lane t =>
      let values (l : Nat) : List Word := ((w.threads[l]?).map (residualValues f s w l)).getD []
      let scale := blockScale (on.flatMap values)
      t.result f.d.reg [codeWord (threadCodes f s w lane t scale (values lane)), BitVec.ofNat 32 scale]) s
  match r, s.cur with
  | .next s', .group wave lanes =>
    match s.wave? wave with
    | none => .next s'
    | some w =>
      if (checkIssue .user (w.levelOf lanes) sh f w.blocks).isSome then .next s'
      else
        let w := { w with seq := w.seq + 1 }
        let (on, scale) := residualBlock sh f s w lanes
        if w.acquiring on then .next s
        else .next (on.foldl (storeResidual f (w.issued s sh f) scale) s')
  | r, _ => r

/-- QRES (R279): its reads follow those of its wave's earlier instructions, and it waits at issue where they cannot be performed
yet (R115). -/
def execQres (f : Fields) (s : State) : Host.Outcome State Fault Refusal :=
  match s.cur with
  | .group wave lanes =>
    match s.wave? wave with
    | none => quantResidual f s
    | some w =>
      match State.performReads wave s (w.readsBefore (w.seq + 1) 0) with
      | some s =>
        if lanes.any fun l => ((s.thread? wave l).bind fun t => t.due).isSome then .next s else quantResidual f s
      | none => .next (s.fetchBefore w (w.seq + 1) 0)
  | _ => quantResidual f s

end Sys2Proof.Machine
end

