-- ==== Sys2Proof/Machine/Descent.lean ====
section
/-! DEFINITION. The descent unit (R280-R288, R323): DESC, PGROUP, PTREAD, NODEA and DGRAD, and the completion of
ticketed operations (R256). -/

namespace Sys2Proof.Machine

open Sys2Proof

/-! ## Descriptors (R280, R281) -/

/-- Bytes of an element row of `h` elements. -/
def rowBytes (code h : Nat) : Nat := fmtRowBytes code h

/-- The descriptor in 64 bytes, with the word of its format slot. -/
def treeOf (slot : Nat → Word) (d : List Byte) : TreeDesc :=
  { base := BitVec.ofNat 64 (unsignedAt d 0 8), h := unsignedAt d 8 4, depth := unsignedAt d 12 1,
    fs := slot (unsignedAt d 13 1), stride := unsignedAt d 16 4 }

/-- The limits of R281, with the smallest record that STRIDE must hold. -/
def treeBad (d : List Byte) (t : TreeDesc) (record : Nat) : Bool :=
  t.base.toNat % 64 ≠ 0 || t.h < 64 || 4096 < t.h || t.h % 64 ≠ 0 || t.depth = 0 || 16 < t.depth
    || 7 < unsignedAt d 13 1 || unsignedAt d 14 2 ≠ 0 || t.stride % 64 ≠ 0 || t.stride < record
    || unsignedAt d 20 4 % 64 ≠ 0 || unsignedAt d 24 8 % 64 ≠ 0 || (d.drop 32).any (fun b => b ≠ 0)
    || !matPair (fsA t.fs) (fsB t.fs)

/-- The byte at which a node record's bias stands (R280). -/
def biasAt (t : TreeDesc) : Nat := rowBytes (fsB t.fs) t.h

/-- Alignment of X rows (R259). -/
def xAlign (code : Nat) : Nat := if code = 1 then 2 else 1

/-- The descriptor that A names, read at issue and checked (R259, R281, R323). -/
def State.treeAt (s : State) (w : Wave) (g : Workgroup) (addr : Word) (record : TreeDesc → Nat) :
    Except (Cause × DWord) TreeDesc :=
  match s.engineLoad g addr 64 64 with
  | .error e => .error e
  | .ok (x, off) =>
    let d := sbytes x.vault off 64
    let t := treeOf (formatSlot s w) d
    if treeBad d t (record t) then .error (.illegal, 7) else .ok t

/-- The address of row `t` of X. -/
def xRow (x : Word) (stride t : Nat) : Word := x + BitVec.ofNat 32 (t * stride)

/-- The row stride: packed rows for zero (R282). -/
def xStride (t : TreeDesc) (e : Nat) : Nat := if e = 0 then rowBytes (fsA t.fs) t.h else e

/-- DESC (R282). -/
def execDesc (f : Fields) (s : State) : Host.Outcome State Fault Refusal :=
  execGroup (shapeDesc f) f
    (fun s w lane t => [read32 s w lane t f f.a, read32 s w lane t f f.b, read32 s w lane t f f.c,
      read32 s w lane t f f.e, read32 s w lane t f f.f]) (fun s w g on v =>
    let n := (word v 2).toNat
    let margin := if f.f = .none then none else some (word v 4)
    if !g.hasPaths || n = 0 || 128 < n then .fault .illegal 7
    else match s.treeAt w g (word v 0) (fun t => biasAt t + 4) with
      | .error (c, e) => .fault c e
      | .ok t =>
        let stride := xStride t (word v 3).toNat
        let rows := (List.range n).map fun i => s.engineLoad g (xRow (word v 1) stride i) (rowBytes (fsA t.fs) t.h) (xAlign (fsA t.fs))
        let mg := match margin with | some a => [s.engineStore g a (8 * n) 4] | none => []
        match firstFault (rows ++ mg) with
        | some (c, e) => .fault c e
        | none => ticketedMat f s w g on (.desc (word v 0) t (word v 1) (word v 3).toNat n margin)) s

/-- PGROUP (R285). -/
def execPgroup (f : Fields) (s : State) : Host.Outcome State Fault Refusal :=
  execGroup (shapeDABC f 0) f
    (fun s w lane t => [read32 s w lane t f f.a, read32 s w lane t f f.b, read32 s w lane t f f.c]) (fun s w g on v =>
    let d := (word v 2).toNat
    if !g.hasPaths || d = 0 || 16 < d then .fault .illegal 7
    else match firstFault [s.engineStore g (word v 0) 256 2, s.engineStore g (word v 1) (4 * (2 ^ d + 1)) 4] with
      | some (c, e) => .fault c e
      | none => ticketed f s w g on (.pgroup (word v 0) (word v 1) d)) s

/-- An operation writes the path traces. -/
def TicketKind.writesPaths : TicketKind → Bool
  | .desc _ _ _ _ _ _ => true
  | _ => false

/-- PTREAD (R286, R131): its value is that at issue; while a DESC is incomplete it is found when the result arrives. -/
def execPtread (f : Fields) (s : State) : Host.Outcome State Fault Refusal :=
  execEach (shapePtread f) f (fun s w lane t =>
    let a := (read32 s w lane t f f.a).toNat
    match s.ownGroup w with
    | none => .fault .illegal 7
    | some g =>
      if !g.hasPaths || 127 < a then .fault .illegal 7
      else if t.pendFull then .hold s
      else
        let v := sget 0 g.traces a
        let value := if g.ops.any fun o => o.kind.writesPaths then none else some [v]
        .done s.fresh ((t.pend s.nextId w.seq f.la.toNat 1 f.d.reg (.ptread a v) value).advance f.form.len)) s

/-- NODEA (R255, R287). -/
def execNodea (f : Fields) (s : State) : Host.Outcome State Fault Refusal :=
  execTry (shapeNodea f) f (fun s w lane t =>
    if !((s.ownGroup w).map fun g => g.hasPaths).getD false then .error (.illegal, 7)
    else
    let base := read64 s w lane t f f.a
    let b := read32 s w lane t f f.b
    let c := (read32 s w lane t f f.c).toNat
    let l := bits b 0 5
    let sd := bits b 8 24 * 64
    if bits b 5 3 ≠ 0 || sd = 0 then .error (.illegal, 7)
    else if !bit f.m 0 && (16 < l || 2 ^ l ≤ c) then .error (.illegal, 7)
    else
      let n := if bit f.m 0 then c else 2 ^ l - 1 + c
      let v := base + BitVec.ofNat 64 (n * sd)
      .ok (t.result f.d.reg [loWord v, hiWord v])) s

/-- DGRAD (R288). -/
def execDgrad (f : Fields) (s : State) : Host.Outcome State Fault Refusal :=
  execGroup (shapeDgrad f) f
    (fun s w lane t => [read32 s w lane t f f.a, read32 s w lane t f f.b, read32 s w lane t f f.c,
      if f.form = .f128 then read32 s w lane t f f.e else 0]) (fun s w g on v =>
    if !g.hasPaths then .fault .illegal 7
    else match s.treeAt w g (word v 0) (fun t => 4 * t.h + 4) with
      | .error (c, e) => .fault c e
      | .ok t => ticketed f s w g on (.dgrad (word v 0) t (word v 1) (word v 3).toNat (word v 2))) s

/-! ## Node records -/

/-- The number of a ticketed operation among what its workgroup's engines do; copies have the others. -/
def TicketOp.number (o : TicketOp) : Nat := 2 ^ 32 + o.ticket.toNat

/-- The lines of a cached access of an engine come to its die's LLC. -/
def State.touchLines (s : State) (die pa n : Nat) (write : Bool) : State :=
  (linesIn pa n).foldl (fun s k => s.touchLine die (128 * k) .min write) s

/-- What a unit's cached or direct `.MIN` access to a range waits for, if anything (R97, R125). -/
def State.unitWait (s : State) (g : Workgroup) (pa n : Nat) (direct write : Bool) : Option EngineWait :=
  if direct then (if s.enginePath g.core pa n .min write then none else some .path)
  else if s.peerDram pa then
    ((linesIn pa n).find? fun k => !s.lineServes (dieOf g.core) (128 * k) write).map fun k => .line (128 * k) write
  else none

/-- An access through a leaf is performed as `.DR` (R358, R361). -/
def unitDirect (leaf : DWord) (pa : Nat) : Bool := pteDr leaf || decide (paSpace pa ≠ 0)

/-- The unit reads bytes of a node record page by page, as `.AL` `.MIN` loads, with the mark of a poisoned granule (R282, R284,
R361). -/
def State.nodeBytes (g : Workgroup) (o : TicketOp) (need : Need) : Nat → State → DWord → Nat → Marked → Got
  | 0, s, _, _, acc => .ok s acc
  | fuel + 1, s, va, n, acc =>
    if n = 0 then .ok s acc
    else
      let k := min n (65536 - va.toNat % 65536)
      let more (s : State) (m : Marked) := State.nodeBytes g o need fuel s (va + BitVec.ofNat 64 k) (n - k) (acc ++ m)
      match s.wgVa g o.number o.level need va with
      | (s, .ok pa leaf) =>
        let direct := unitDirect leaf pa
        if paSpace pa = 1 || !s.devOpen o.level (s.partOf (dieOf g.core)) pa k then .stop s (stop .permission)
        else match s.unitWait g pa k direct false with
          | some x => .wait x
          | none =>
            if !direct && s.peerDram pa then
              let bad := badBytes s.poison pa k
              let s := if bad = [] then s else s.logCheck (dieOf g.core) g.core 3 0 0 0 pa
              more (s.touchLines (dieOf g.core) pa k false) (marked (s.peek pa k) bad)
            else
              let s := if direct then s.recallRange pa k else s.touchLines (dieOf g.core) pa k false
              let (s, data, bad) := s.engineRead (dieOf g.core) g.core o.level pa k
              more s (marked data bad)
      | (s, .psn pa) => more (s.logCheck (dieOf g.core) g.core 3 0 0 0 pa) ((s.peek pa k).map fun b => (b, true))
      | (s, .fault x) => .stop s (stop x)
      | (s, .table pa) => .stop s { cause := .translation, table := some pa }
      | (_, .miss) => .wait (.page need va)

/-- The address of the record of heap index `n` (R280). -/
def nodeVa (t : TreeDesc) (n : Nat) : DWord := t.base + BitVec.ofNat 64 (n * t.stride)

/-- A range of marked bytes is poisoned. -/
def markedBad (m : Marked) (at_ n : Nat) : Bool := ((m.drop at_).take n).any fun p => p.2

/-- A word of marked bytes as a value; NaN where it is poisoned. -/
def markedWord (m : Marked) (at_ : Nat) : FVal :=
  if markedBad m at_ 4 then .nan else f32 (word (wordsOf 1 (((m.drop at_).take 4).map fun p => p.1)) 0)

/-- The weights of a node record (R280); those of a poisoned granule are NaR (R284). -/
def weightsOf (code h : Nat) (m : Marked) : List FVal :=
  let bs := (m.map fun p => p.1).toArray
  let bad := (m.map fun p => p.2).toArray
  let w := fmtBits code / 8
  (List.range h).map fun k =>
    let lo := if code = 4 then 6 * k / 8 else w * k
    let hi := if code = 4 then (6 * k + 5) / 8 else w * k + w - 1
    if bad.getD lo false || bad.getD hi false then .nan else fmtDecode code (rowElem code bs 0 k)

/-- The elements of a row of X. -/
def rowValues (code h : Nat) (bs : List Byte) : List FVal :=
  let a := bs.toArray
  (List.range h).map fun k => fmtDecode code (rowElem code a 0 k)

/-! ## DESC (R282-R284) -/

/-- A token on its way. -/
structure Token where
  t : Nat
  x : Nat
  dep : Nat
  ok : Bool
  margin : Word
  level : Nat
  deriving DecidableEq, Repr

/-- An exact sum by R10, from -0. -/
def exactDot (a b : List FVal) : FVal := ((a.zip b).map fun p => p.1.mul p.2).foldl (fun s v => s.add false v) (.fin true 0 0)

/-- The dot product by 64-element chunks, then the bias (R80, R282). -/
def chunkSum : Nat → FVal → List FVal → List FVal → FVal
  | 0, s, _, _ => s
  | n + 1, s, a, b => chunkSum n (f32 (rne32 (s.add false (exactDot (a.take 64) (b.take 64))))) (a.drop 64) (b.drop 64)

/-- A token's sum at a node (R282). -/
def nodeSum (tree : TreeDesc) (x : List FVal) (rec_ : Marked) : Word :=
  let s := chunkSum (tree.h / 64) (.fin true 0 0) x (weightsOf (fsB tree.fs) tree.h rec_)
  rne32 (s.add false (markedWord rec_ (biasAt tree)))

/-- A token after its decision at level `l`. -/
def Token.decide_ (k : Token) (l : Nat) (s : Word) : Token :=
  if (f32 s).isNan then { k with ok := false }
  else
    let a := s &&& 0x7FFFFFFF
    let k := { k with x := 2 * k.x + (if s.getLsbD 31 then 0 else 1), dep := l + 1 }
    if (f32 a).lt (f32 k.margin) then { k with margin := a, level := l } else k

/-- How far a run of the unit has come: on, with what it holds; stopped by a fault of a node record, of which `.stop` gives the
cause; or to be run again once what it waits for is there. -/
inductive Ran (α : Type) where
  | on (s : State) (x : α)
  | stop (s : State) (x : Stop)
  | wait (x : EngineWait)

/-- The tokens of one level, node by node in ascending prefix (R282). -/
def State.descLevel (g : Workgroup) (o : TicketOp) (tree : TreeDesc) (xs : Nat → List FVal) (l : Nat) :
    List Nat → State → List Token → Ran (List Token)
  | [], s, ts => .on s ts
  | x :: nodes, s, ts =>
    match State.nodeBytes g o .r 3 s (nodeVa tree (2 ^ l - 1 + x)) (biasAt tree + 4) [] with
    | .stop s c => .stop s c
    | .wait x => .wait x
    | .ok s rec_ =>
      State.descLevel g o tree xs l nodes s
        (ts.map fun k => if k.ok && k.x = x && k.dep = l then k.decide_ l (nodeSum tree (xs k.t) rec_) else k)

/-- All levels from `l` on. -/
def State.descLevels (g : Workgroup) (o : TicketOp) (tree : TreeDesc) (xs : Nat → List FVal) :
    Nat → Nat → State → List Token → Ran (List Token)
  | 0, _, s, ts => .on s ts
  | n + 1, l, s, ts =>
    let live := (ts.filter fun k => k.ok && k.dep = l).map fun k => k.x
    let nodes := (List.range (2 ^ l)).filter fun x => live.contains x
    match State.descLevel g o tree xs l nodes s ts with
    | .on s ts => State.descLevels g o tree xs n (l + 1) s ts
    | r => r

/-- A path trace (R283). -/
def Token.trace (k : Token) : Word :=
  BitVec.ofNat 32 ((if k.ok then 2 ^ 31 else 0) + k.dep * 2 ^ 16 + k.x)

/-- Set the path traces of a workgroup. -/
def Workgroup.setTraces (g : Workgroup) (ws : List Word) : Workgroup :=
  { g with traces := ((List.range ws.length).zip ws).filter fun p => p.2 ≠ 0 }

/-- Words without a defined value (DEDUCED log 20). -/
def freeWords (draw n : Nat) : List Word := (List.range n).map fun i => Config.freeWord (draw + i)

/-- The descriptor as an operation reads it when it runs, in the draws from the current one on (R323). -/
def State.treeNow (s : State) (g : Workgroup) (o : TicketOp) (addr : Word) : TreeDesc :=
  treeOf (fun i => ((s.entry? g.entry).map fun e => e.record.fs i).getD 0) (s.operandBytes g o s.draws addr 64)

/-- A descriptor that was rewritten since it was checked, and with which the operation has no meaning: rows beyond 4,096 elements
or cut inside a chunk, a depth beyond 16, or formats that form no pair. What it then computes is free (DEDUCED log 20). -/
def TreeDesc.senseless (t : TreeDesc) : Bool :=
  4096 < t.h || t.h % 64 ≠ 0 || 16 < t.depth || !matPair (fsA t.fs) (fsB t.fs)

/-- A report of an operation of the descent unit (R376). -/
def TicketOp.report (o : TicketOp) (c : Cause) : Report :=
  { cause := c, number := o.ticket.toNat, descent := true, wave := some o.wave }

/-- A translation or permission fault on a node record stops an operation, with every trace zero (R284). -/
def State.nodeFault (s : State) (g : Workgroup) (o : TicketOp) (c : Stop) : State :=
  (s.logStop g.core c).modWg g.id fun g => (g.setTraces []).report (o.report c.cause)

/-- DESC runs (R282); a fault stops it with every trace zero (R284). -/
def State.runDesc (s : State) (g : Workgroup) (o : TicketOp) (addr x : Word) (e n : Nat) (margin : Option Word) : Ran Unit :=
  let tree := s.treeNow g o addr
  let write (s : State) (ws : List Word) : State :=
    match margin with
    | some a => s.engineWriteVault g a (bytesOf ws)
    | none => s
  if tree.senseless then
    .on (write ((s.drawnBy (64 + 3 * n)).modWg g.id fun g => g.setTraces (freeWords (s.draws + 64) n))
      (freeWords (s.draws + 64 + n) (2 * n))) ()
  else
    let len := rowBytes (fsA tree.fs) tree.h
    let rows := (List.range n).map fun i =>
      rowValues (fsA tree.fs) tree.h (s.operandBytes g o (s.draws + 64 + i * len) (xRow x (xStride tree e) i) len)
    let s := s.drawnBy (64 + n * len)
    let start := (List.range n).map fun t =>
      { t := t, x := 0, dep := 0, ok := true, margin := 0x7F800000, level := 0 : Token }
    match State.descLevels g o tree (fun t => rows.getD t []) tree.depth 0 s start with
    | .stop s c => .on (s.nodeFault g o c) ()
    | .wait x => .wait x
    | .on s ts =>
      .on (write (s.modWg g.id fun g => g.setTraces (ts.map Token.trace)) (ts.flatMap fun k => [k.margin, BitVec.ofNat 32 k.level])) ()

/-! ## PGROUP (R285) -/

/-- The path trace of a token. -/
def Workgroup.trace (g : Workgroup) (t : Nat) : Word := sget 0 g.traces t

/-- A token is listed: valid and of depth `d`. -/
def Workgroup.listed (g : Workgroup) (d t : Nat) : Bool := (g.trace t).getLsbD 31 && bits (g.trace t) 16 5 = d

/-- The tokens in PGROUP's order. -/
def Workgroup.groupOrder (g : Workgroup) (d : Nat) : List Nat :=
  let ts := List.range 128
  (List.range (2 ^ d)).flatMap (fun x => ts.filter fun t => g.listed d t && bits (g.trace t) 0 16 = x)
    ++ ts.filter fun t => !g.listed d t

/-- PGROUP's histogram. -/
def Workgroup.histogram (g : Workgroup) (d : Nat) : List Nat :=
  let ts := List.range 128
  (List.range (2 ^ d)).map (fun x => (ts.filter fun t => g.listed d t && bits (g.trace t) 0 16 = x).length)
    ++ [(ts.filter fun t => !g.listed d t).length]

def State.runPgroup (s : State) (g : Workgroup) (perm hist : Word) (d : Nat) : State :=
  (s.engineWriteVault g perm ((g.groupOrder d).flatMap fun t => leBytes 2 t)).engineWriteVault g hist
    ((g.histogram d).flatMap fun n => leBytes 4 n)

/-! ## DGRAD (R288) -/

/-- One update: a token's X row and δ into a gradient record. -/
def gradRecord (h : Nat) (x : List FVal) (delta : Word) (m : Marked) : List Byte :=
  let d := f32 delta
  let w (k : Nat) : Word := rne32 ((markedWord m (4 * k)).add false (d.mul (x.getD k .nan)))
  bytesOf (((List.range h).map w) ++ [rne32 ((markedWord m (4 * h)).add false d)])

/-- The words of a write that another workgroup's DGRAD has updated since this one issued end unpredictable (R6, R288). -/
def sharedWords (draw : Nat) (others : List (Nat × Nat)) (pa : Nat) : Nat → List Byte → List Byte → List Byte
  | 0, d, _ => d
  | fuel + 1, d, old =>
    if d = [] then []
    else
      (if others.any fun r => meets r.1 r.2 pa 4 then bytesOf [openWord draw (word (wordsOf 1 d) 0) (word (wordsOf 1 old) 0)]
        else d.take 4)
        ++ sharedWords (draw + 1) others (pa + 4) fuel (d.drop 4) (old.drop 4)

/-- A DGRAD has updated a range: the open ones of other workgroups are told. -/
def State.gradWritten (s : State) (wg pa n : Nat) : State :=
  { s with wgs := s.wgs.map fun g =>
      if g.id = wg then g
      else { g with ops := g.ops.map fun o =>
        match o.kind with
        | .dgrad _ _ _ _ _ => { o with others := (pa, n) :: o.others.filter fun r => r ≠ (pa, n) }
        | _ => o } }

/-- A piece of a gradient record is written back through a leaf: in the die's LLC, or at its home; what is then on its way. -/
def State.writePart (s : State) (g : Workgroup) (o : TicketOp) (via : Option TlbEntry) (pa : Nat) (direct : Bool) (d : List Byte) :
    State × List (Nat × Option TlbEntry) :=
  if direct then
    let (s, ids) := s.engineWrite g.core (s.partOf (dieOf g.core)) o.level via pa .min d []
    (s, ids.map fun i => (i, via))
  else ((s.touchLines (dieOf g.core) pa d.length true).poke g.core pa d none, [])

/-- A gradient record is written back, to be performed at PKG. -/
def State.writeNode (g : Workgroup) (o : TicketOp) (s : State) (va : DWord) (data : List Byte) : Ran (List (Nat × Option TlbEntry)) :=
  (pagesOf va data.length).foldl (fun r p =>
    match r with
    | .on s fl =>
      let at_ := (p - va).toNat
      let d := (data.drop at_).take (65536 - p.toNat % 65536)
      let via := findTlb (s.die (dieOf g.core)).tlb (rootTag (s.rootOfWg g)) p
      match s.wgVa g o.number o.level .rw p with
      | (s, .ok pa leaf) =>
        let direct := unitDirect leaf pa
        match s.unitWait g pa d.length direct true with
        | some x => .wait x
        | none =>
          let d := sharedWords s.draws o.others pa d.length d (s.peek pa d.length)
          let s := (s.drawnBy d.length).gradWritten g.id pa d.length
          let (s, l) := s.writePart g o via pa direct d
          .on s (fl ++ l)
      | (s, .fault c) => .stop s (stop c)
      | (s, .table pa) => .stop s { cause := .translation, table := some pa }
      | (s, .psn _) => .stop s (stop .translation)
      | (_, .miss) => .wait (.page .rw p)
    | r => r) (.on s [])

/-- The steps of DGRAD: tokens ascending, then levels (R288). A row or a δ that fails stops it with the traces as they are. -/
def State.gradSteps (g : Workgroup) (o : TicketOp) (tree : TreeDesc) (x : Word) (e : Nat) (scales : Word) :
    List (Nat × Nat) → State → List (Nat × Option TlbEntry) → Ran (List (Nat × Option TlbEntry))
  | [], s, fl => .on s fl
  | (t, l) :: rest, s, fl =>
    let tr := g.trace t
    let d := bits tr 16 5
    let code := fsA tree.fs
    let row := xRow x (xStride tree e) t
    let len := rowBytes code tree.h
    match firstFault [s.engineVault g row len (xAlign code) Buffer.loads,
        s.engineVault g (scales + BitVec.ofNat 32 (4 * (16 * t + l))) 4 4 Buffer.loads] with
    | some (c, _) => .on (s.modWg g.id fun g => g.report (o.report c)) fl
    | none =>
      let xs := rowValues code tree.h (s.operandBytes g o s.draws row len)
      let delta := word (wordsOf 1 (s.operandBytes g o (s.draws + len) (scales + BitVec.ofNat 32 (4 * (16 * t + l))) 4)) 0
      let s := s.drawnBy (len + 4)
      let va := nodeVa tree (2 ^ l - 1 + bits tr 0 16 / 2 ^ (d - l))
      match State.nodeBytes g o .rw 3 s va (4 * tree.h + 4) [] with
      | .stop s c => .on (s.nodeFault g o c) fl
      | .wait x => .wait x
      | .ok s m =>
        match State.writeNode g o s va (gradRecord tree.h xs delta m) with
        | .stop s c => .on (s.nodeFault g o c) fl
        | .wait x => .wait x
        | .on s more => State.gradSteps g o tree x e scales rest s (fl ++ more)

/-- DGRAD runs (R288): what it has sent that is not performed yet. -/
def State.runDgrad (s : State) (g : Workgroup) (o : TicketOp) (addr x : Word) (e : Nat) (scales : Word) :
    Ran (List (Nat × Option TlbEntry)) :=
  let tree := s.treeNow g o addr
  let s := s.drawnBy 64
  if tree.senseless then .on s []
  else
    let steps := ((List.range 128).filter fun t => (g.trace t).getLsbD 31).flatMap fun t =>
      (List.range (bits (g.trace t) 16 5)).map fun l => (t, l)
    State.gradSteps g o tree x e scales steps s []

/-! ## Completion (R256) -/

/-- A ticketed operation runs (DEDUCED log 20): what it has sent that is not performed yet, or what it waits for. -/
def State.runTicket (s : State) (g : Workgroup) (o : TicketOp) : Ran (List (Nat × Option TlbEntry)) :=
  let slot (k code : Nat) (roleB : Bool) : List Byte := o.slotBytes g k code (if roleB then 96 else 128) (s.draws + if roleB then 8192 else 0)
  let tiled (tile : Nat) (check : Option Nat) (h : Sparse Word → Sparse Word) : Ran (List (Nat × Option TlbEntry)) :=
    .on (((s.drawnBy 16384).runTile g.id tile h).endReplay g o tile check) []
  match o.kind with
  | .mma a b tile fs zero check => tiled tile check (mmaTile (slot a (fsA fs) false) (slot b (fsB fs) true) fs zero)
  | .mtrans a tile fs check => tiled tile check (mtransTile (slot a (fsB fs) true) fs)
  | .mperm a tile fs perm check => tiled tile check (mpermTile (slot a (fsB fs) true) fs perm)
  | .mrsum a tile fs col check => tiled tile check (mrsumTile (slot a (if col then fsB fs else fsA fs) col) fs col)
  | .aclr m => .on (s.modWg g.id fun g => { g with tiles := g.tiles.filter fun p => !m.getLsbD p.1 }) []
  | .adrain tile pitch dst scale fs clr => .on (s.runDrain g o tile pitch dst scale fs clr) []
  | .desc addr _ x e n margin =>
    match s.runDesc g o addr x e n margin with
    | .on s _ => .on s []
    | .stop s c => .stop s c
    | .wait x => .wait x
  | .pgroup perm hist d => .on (s.runPgroup g perm hist d) []
  | .dgrad addr _ x e scales => s.runDgrad g o addr x e scales

/-- The oldest operation of a workgroup has completed: its token returns, and slots marked for release may become FREE. -/
def State.endTicket (s : State) (wg : Nat) (o : TicketOp) : State :=
  let s := s.modWg wg fun g => { g with ops := g.ops.drop 1, done := o.ticket }.freeSlots
  match o.pane with
  | some p => s.giveToken o.core p
  | none => s

/-- TICKET_COMPLETE (R256): the oldest operation of a workgroup runs and, once all that it wrote is performed (R288), completes. -/
def execTicketComplete (wg : Nat) (s : State) : Host.Outcome State Fault Refusal :=
  match (s.wg? wg).bind fun g => g.ops.head?.map fun o => (g, o) with
  | none => .next s
  | some (g, o) =>
    match o.ran with
    | some fl => .next (if fl.any fun f => s.flying f.1 then s else s.endTicket wg o)
    | none =>
      match s.runTicket g o with
      | .on s [] => .next (s.endTicket wg o)
      | .on s fl => .next (s.modWg wg fun g => { g with ops := g.ops.map fun x => if x.ticket = o.ticket then { x with ran := some fl } else x })
      | .stop s _ => .next s
      | .wait x => .next (s.askFor g o.number o.level x)

end Sys2Proof.Machine
end

