-- ==== Sys2Proof/Machine/Collective.lean ====
section
/-! DEFINITION. The collective instructions (R301-R315): the invocation that runs them, the combine tree,
placements, and the failure of a phase. -/

namespace Sys2Proof.Machine

open Sys2Proof

/-! ## The invocation (R301-R303) -/

/-- The port of a timer invocation (R303). -/
def timerPort : Nat := 0xFF

/-- Register k(i). -/
def Invocation.reg (v : Invocation) (i : Nat) : DWord := v.k.getD i 0

def Invocation.setReg (v : Invocation) (i : Nat) (x : DWord) : Invocation := { v with k := setAt v.k i x }

/-- A fragment field (R303). -/
def State.fragField (s : State) (w : Window) (v : Invocation) (code : Nat) : Nat :=
  let g := v.frag
  if v.timer then (match code with | 0 => 0xFFFF | 4 => timerPort | 5 => v.phase | _ => 0)
  else match code with
    | 0 => (w.contributor (s.senderEntry g)).getD 0xFFFF
    | 1 => g.off
    | 2 => g.data.length
    | 3 => g.seq
    | 4 => g.port
    | _ => v.phase

/-- Source a (R304). -/
def srcA (s : State) (w : Window) (v : Invocation) (c : CFields) : DWord :=
  if c.fa then BitVec.ofNat 64 (s.fragField w v c.a.toNat) else v.reg c.a.toNat

/-- Source b (R304). -/
def srcB (v : Invocation) (c : CFields) : DWord := if c.ib then c.imm.signExtend 64 else v.reg c.b.toNat

/-- The registers of an invocation at its start (R302). -/
def startRegs (w : Window) : List DWord :=
  List.replicate 8 0 ++ (List.range 8).map fun i => BitVec.ofNat 64 (w.param i)

/-- What a collective instruction does. -/
inductive CRes where
  /-- The invocation goes on, after the state and window around it. -/
  | go (s : State) (w : Window) (v : Invocation)
  /-- It ends. -/
  | done (s : State) (w : Window)
  /-- It is suspended, to resume at an instruction (R307). -/
  | suspend (v : Invocation)
  /-- The phase fails with a code of R305. -/
  | fail (code : Nat)

/-! ## Ends (R301, R305, R307) -/

/-- Fragments dropped as late. -/
def Window.drops (w : Window) (n : Nat) : Window := { w with late := min 0xFFFF (w.late + n) }

/-- The oldest suspended invocation that is due resumes, if any (R307). -/
def Window.resume (w : Window) : Window :=
  match w.suspended.find? fun v => v.due with
  | some v => { w with running := some { v with due := false }, suspended := w.suspended.erase v }
  | none => { w with running := none }

/-- The running invocation has ended: every suspended one is due (R307). -/
def Window.next (w : Window) : Window :=
  Window.resume { w with suspended := w.suspended.map fun v => { v with due := true } }

/-- A phase fails (R305): its latch is completed once its placements are performed. Outside an ARMED phase
only the invocation ends (DEDUCED log 54). -/
def State.failPhase (s : State) (n code : Nat) : State :=
  let w := s.window n
  if w.state ≠ .armed then s.setWindow n w.next
  else
    (s.returnColl w).setWindow n
      ({ w with state := .failed, failCode := code, failSignal := true, sigs := [], queue := [], running := none,
                suspended := [] }.drops w.queue.length)

/-- The steps that one invocation may run (R305) (DEDUCED log 53). -/
def stepLimit : Nat := 256

/-- Run an instruction of the invocation that a window's executor runs. The last step before STEPS has its effect (R305). -/
def withInvocation (s : State) (k : State → Window → Invocation → CRes) : Host.Outcome State Fault Refusal :=
  match s.cur with
  | .executor n =>
    let w := s.window n
    match w.running with
    | none => .fault .noInvocation
    | some v =>
      .next (match k s w { v with pc := v.pc + 1, steps := v.steps + 1 } with
        | .go s w v => if stepLimit ≤ v.steps then (s.setWindow n w).failPhase n 2 else s.setWindow n { w with running := some v }
        | .done s w => s.setWindow n w.next
        | .suspend v =>
          if stepLimit ≤ v.steps then s.failPhase n 2
          else if w.state = .armed then s.setWindow n (Window.resume { w with suspended := w.suspended ++ [v] })
          else s.setWindow n w.next
        | .fail code => s.failPhase n code)
  | _ => .fault .noInvocation

/-- An instruction that writes register D. -/
def collResult (c : CFields) (s : State) (h : State → Window → Invocation → DWord) : Host.Outcome State Fault Refusal :=
  withInvocation s fun s w v => .go s w (v.setReg c.d.toNat (h s w v))

/-! ## Control and arithmetic (R307) -/

/-- The target in IMM[7:0]. -/
def collTarget (c : CFields) : Nat := bits c.imm 0 8

/-- CNOP (R306). -/
def execCnop (_c : CFields) (s : State) : Host.Outcome State Fault Refusal := withInvocation s fun s w v => .go s w v

/-- CJMP (R307). -/
def execCjmp (c : CFields) (s : State) : Host.Outcome State Fault Refusal :=
  withInvocation s fun s w v => .go s w { v with pc := collTarget c }

/-- CBR (R307). -/
def execCbr (c : CFields) (s : State) : Host.Outcome State Fault Refusal :=
  withInvocation s fun s w v =>
    .go s w (if decide (srcA s w v c ≠ 0) != c.op.getLsbD 0 then { v with pc := collTarget c } else v)

/-- CEND (R307). -/
def execCend (_c : CFields) (s : State) : Host.Outcome State Fault Refusal := withInvocation s fun s w _ => .done s w

/-- CYIELD (R307). -/
def execCyield (c : CFields) (s : State) : Host.Outcome State Fault Refusal :=
  withInvocation s fun _ _ v => .suspend { v with pc := collTarget c }

/-- CMOV (R307). -/
def execCmov (c : CFields) (s : State) : Host.Outcome State Fault Refusal := collResult c s fun s w v => srcA s w v c

/-- CLDI (R307). -/
def execCldi (c : CFields) (s : State) : Host.Outcome State Fault Refusal := collResult c s fun _ _ _ => c.imm.signExtend 64

/-- CADD (R307). -/
def execCadd (c : CFields) (s : State) : Host.Outcome State Fault Refusal :=
  collResult c s fun s w v => srcA s w v c + srcB v c

/-- CSUB (R307). -/
def execCsub (c : CFields) (s : State) : Host.Outcome State Fault Refusal :=
  collResult c s fun s w v => srcA s w v c - srcB v c

/-- CAND (R307). -/
def execCand (c : CFields) (s : State) : Host.Outcome State Fault Refusal :=
  collResult c s fun s w v => srcA s w v c &&& srcB v c

/-- COR (R307). -/
def execCor (c : CFields) (s : State) : Host.Outcome State Fault Refusal :=
  collResult c s fun s w v => srcA s w v c ||| srcB v c

/-- CSHR (R307). -/
def execCshr (c : CFields) (s : State) : Host.Outcome State Fault Refusal :=
  collResult c s fun s w v => srcA s w v c >>> ((srcB v c).toNat % 64)

/-- CSHL (R307). -/
def execCshl (c : CFields) (s : State) : Host.Outcome State Fault Refusal :=
  collResult c s fun s w v => srcA s w v c <<< ((srcB v c).toNat % 64)

/-- The conditions of CCMP (R306). -/
def collCond (code : Nat) (a b : DWord) : Bool :=
  match code with
  | 0 => a = b
  | 1 => a ≠ b
  | 2 => decide (a.toInt < b.toInt)
  | 3 => decide (a.toNat < b.toNat)
  | 4 => decide (b.toInt ≤ a.toInt)
  | _ => decide (b.toNat ≤ a.toNat)

/-- CCMP (R307). -/
def execCcmp (c : CFields) (s : State) : Host.Outcome State Fault Refusal :=
  collResult c s fun s w v => if collCond (bits c.op 0 3) (srcA s w v c) (srcB v c) then 1 else 0

/-! ## Bookkeeping (R308) -/

/-- Bytes of a window's raw staging. -/
def rawStaging : Nat := 4096

/-- The poisoned granules of raw staging after a write whose listed bytes have a poisoned source (R104, R105). -/
def markRaw (old : List Nat) (off n : Nat) (bad : List Nat) : List Nat := addPoison (clearPoison old off n) (badGranules off bad)

/-- CSTAGE (R308). -/
def execCstage (c : CFields) (s : State) : Host.Outcome State Fault Refusal :=
  withInvocation s fun s w v =>
    let a := (srcA s w v c).toNat
    let n := v.frag.data.length
    if rawStaging < a + n then .fail 5
    else .go s { w with raw := swrite w.raw a v.frag.data, rawPoison := markRaw w.rawPoison a n v.frag.bad } v

/-- A contributor and a block of the window (R305). -/
def Window.holds (w : Window) (a b : Nat) : Bool := decide (a < w.ncontrib ∧ b < w.nblk)

/-- CSEEN (R308). -/
def execCseen (c : CFields) (s : State) : Host.Outcome State Fault Refusal :=
  withInvocation s fun s w v =>
    let a := (srcA s w v c).toNat
    let b := (srcB v c).toNat
    if !w.holds a b then .fail 1
    else
      let k := a * w.nblk + b
      let old := w.seen.contains k
      .go s { w with seen := if old then w.seen else k :: w.seen } (v.setReg c.d.toNat (if old then 1 else 0))

/-- The root of a block, if complete (R309). -/
def Window.root (w : Window) (b : Nat) : Option TreeNode :=
  w.nodes.find? fun x => x.blk = b && x.lo = 0 && x.hi = w.ncontrib

/-- CREADY (R308). -/
def execCready (c : CFields) (s : State) : Host.Outcome State Fault Refusal :=
  withInvocation s fun s w v =>
    if c.op.getLsbD 0 then .go s w (v.setReg c.d.toNat (BitVec.ofNat 64 w.complete))
    else
      let a := (srcA s w v c).toNat
      if w.nblk ≤ a then .fail 1
      else .go s w (v.setReg c.d.toNat (if (w.root a).isSome then 1 else 0))

/-- CCNT (R308). -/
def execCcnt (c : CFields) (s : State) : Host.Outcome State Fault Refusal :=
  withInvocation s fun s w v =>
    let a := (srcA s w v c).toNat
    if 7 < a then .fail 1
    else
      let n := (sget 0 w.counters a + (srcB v c).toNat) % 2 ^ 64
      .go s { w with counters := sset 0 w.counters a n } (v.setReg c.d.toNat (BitVec.ofNat 64 n))

/-- CTIME (R308). -/
def execCtime (c : CFields) (s : State) : Host.Outcome State Fault Refusal :=
  withInvocation s fun s w v =>
    if c.op.getLsbD 0 then .go s { w with timer := some (srcA s w v c).toNat } v
    else .go s w (v.setReg c.d.toNat s.pcc)

/-! ## The combine tree (R309) -/

/-- The first contributor of the upper half of a range. -/
def splitAt_ (lo hi : Nat) : Nat := lo + 2 ^ Nat.log2 (hi - lo - 1)

/-- The parent of a node below a range, and its other half. -/
def treeParent (nlo nhi : Nat) : Nat → Nat → Nat → Option ((Nat × Nat) × (Nat × Nat))
  | 0, _, _ => none
  | fuel + 1, lo, hi =>
    if hi ≤ lo + 1 then none
    else
      let m := splitAt_ lo hi
      if (nlo, nhi) = (lo, m) then some ((lo, hi), (m, hi))
      else if (nlo, nhi) = (m, hi) then some ((lo, hi), (lo, m))
      else if nhi ≤ m then treeParent nlo nhi fuel lo m
      else treeParent nlo nhi fuel m hi

/-- Combine two FP32 elements (R309). -/
def combineElem (op : Nat) (l r : Word) : Word :=
  match op with
  | 2 => fmax32 l r
  | 3 => fmin32 l r
  | _ => fadd32 l r

/-- Fold a completed node into a block's tree: the nodes after it, and whether the root is complete. -/
def foldNode (n op : Nat) : Nat → List TreeNode → TreeNode → List TreeNode × Bool
  | 0, ns, x => (ns ++ [x], false)
  | fuel + 1, ns, x =>
    if x.lo = 0 ∧ x.hi = n then (ns ++ [x], true)
    else match treeParent x.lo x.hi 9 0 n with
      | none => (ns ++ [x], false)
      | some (p, sib) =>
        match ns.find? fun y => y.blk = x.blk && y.lo = sib.1 && y.hi = sib.2 with
        | none => (ns ++ [x], false)
        | some y =>
          let l := if x.lo < y.lo then x else y
          let r := if x.lo < y.lo then y else x
          let v := (l.value.zip r.value).map fun e => combineElem op e.1 e.2
          foldNode n op fuel (ns.filter fun z => z ≠ y)
            { blk := x.blk, lo := p.1, hi := p.2, value := v, bad := addPoison x.bad y.bad }

/-- The payload as FP32 elements; BF16 is widened exactly. -/
def payloadElems (op e : Nat) (data : List Byte) : List Word :=
  if op = 1 then
    (List.range e).map fun i => BitVec.ofNat 32 (leNat ((data.drop (2 * i)).take 2) * 65536)
  else wordsOf e data

/-- The elements of a payload with a poisoned byte; BF16 elements take two bytes. -/
def badElems (op : Nat) (bad : List Nat) : List Nat := addPoison [] (bad.map fun i => i / if op = 1 then 2 else 4)

/-- CCOMB (R309). -/
def execCcomb (c : CFields) (s : State) : Host.Outcome State Fault Refusal :=
  withInvocation s fun s w v =>
    let op := bits c.op 0 2
    let a := (srcA s w v c).toNat
    let b := (srcB v c).toNat
    let len := if op = 1 then 2 * w.elems else 4 * w.elems
    if !w.holds a b || v.frag.data.length ≠ len || ((look w.blkOps b).map fun o => decide (o ≠ op)).getD false then .fail 1
    else if w.present.contains (b, a) then .go s w (v.setReg c.d.toNat 2)
    else
      let leaf : TreeNode :=
        { blk := b, lo := a, hi := a + 1, value := payloadElems op w.elems v.frag.data, bad := badElems op v.frag.bad }
      let (ns, root) := foldNode w.ncontrib op 10 w.nodes leaf
      .go s { w with nodes := ns, present := w.present ++ [(b, a)], blkOps := put w.blkOps b op }
        (v.setReg c.d.toNat (if root then 1 else 0))

/-! ## Output (R312, R313) -/

/-- Bytes to send, and which of them have a poisoned source (R104, R313). -/
abbrev Payload := List Byte × List Nat

/-- A fragment's payload. -/
def Fragment.payload (g : Fragment) : Payload := (g.data, g.bad)

/-- The bytes of a root: FP32, or rounded once to BF16 (R312). -/
def rootBytes (half : Bool) (x : TreeNode) : Payload :=
  let n := if half then 2 else 4
  (if half then x.value.flatMap fun v => leBytes 2 (bf16.encode .rne false 0 (f32 v)) else bytesOf x.value,
    x.bad.flatMap fun e => (List.range n).map fun i => n * e + i)

/-- Begin a placement of the window's phase. -/
def State.place (s : State) (n : Nat) (phase : Nat) (bad : List Nat) (what : Placed) : State :=
  { s.fresh with placements := s.placements ++ [{ id := s.nextId, window := n, phase := phase, bad := bad, what := what }] }

/-- An entry accepts `len` bytes at offset `a`: its kind, and LIMIT (R312). -/
def Dest.reaches (d : Dest) (kinds : List Nat) (a len : Nat) : Bool :=
  kinds.contains d.kind && decide (a + len ≤ d.limit)

/-- Send bytes to destination entry `i` at offset `a`; the entry has been checked. -/
def sendTo (n i a : Nat) (x : Payload) (s : State) (w : Window) (v : Invocation) : State × Window :=
  let d := w.dest i
  if x.1 = [] then (s, w)
  else
    let q := sget 0 w.destSeq i
    let counted := { w with destSeq := sset 0 w.destSeq i (q + 1) }
    match d.kind with
    | 1 =>
      let latch := if d.latch = 0xFFFFFFFF then none else some d.latch
      (s.place n v.phase x.2 (.vault w.armEntry d.wg (d.addr + a) latch x.1), w)
    | 2 =>
      if d.path = 1 then (s.place n v.phase x.2 (.ue d.uep d.mode (d.addr + a) 0 0 v.phase false x.1 0), w)
      else (s.place n v.phase x.2 (.global (d.addr + a) x.1), w)
    | _ =>
      let num := paOffset d.addr / 2 ^ 32
      if d.path = 1 then (s.place n v.phase x.2 (.ue d.uep d.mode num a q v.phase true x.1 0), counted)
      else (s.place n v.phase x.2 (.window (paPkg d.addr) num a q v.phase x.1), counted)

/-- The window that the executor runs for. -/
def State.executing (s : State) : Nat := match s.cur with | .executor n => n | _ => 0

/-- Send to one entry, or fail DEST (R312). -/
def sendOne (kinds : List Nat) (i a : Nat) (x : Payload) (s : State) (w : Window) (v : Invocation) : CRes :=
  if !(w.dest i).reaches kinds a x.1.length then .fail 3
  else
    let (s, w) := sendTo s.executing i a x s w v
    .go s w v

/-- CPLACE (R312). -/
def execCplace (c : CFields) (s : State) : Host.Outcome State Fault Refusal :=
  withInvocation s fun s w v =>
    let a := (srcA s w v c).toNat
    let b := (srcB v c).toNat
    let send (x : Payload) : CRes := sendOne [1, 2] (bits c.imm 0 3) a x s w v
    match bits c.op 0 2 with
    | 0 => send v.frag.payload
    | 1 =>
      let n := bits c.imm 8 10 + 1
      if rawStaging < b + n then .fail 5 else send (sbytes w.raw b n, badBytes w.rawPoison b n)
    | op =>
      match w.root b with
      | none => .fail 1
      | some x => send (rootBytes (op = 3) x)

/-- CFWD (R312). -/
def execCfwd (c : CFields) (s : State) : Host.Outcome State Fault Refusal :=
  withInvocation s fun s w v =>
    let a := (srcA s w v c).toNat
    let send (x : Payload) : CRes := sendOne [3] (bits c.imm 0 3) a x s w v
    if bits c.op 0 2 = 0 then send v.frag.payload
    else match w.root (srcB v c).toNat with
      | none => .fail 1
      | some x => send (rootBytes false x)

/-- CMCAST (R312). -/
def execCmcast (c : CFields) (s : State) : Host.Outcome State Fault Refusal :=
  withInvocation s fun s w v =>
    let a := (srcA s w v c).toNat
    let x : Payload := v.frag.payload
    let is := (List.range 8).filter fun i => c.imm.getLsbD i
    if is.any fun i => !(w.dest i).reaches [1, 2, 3] a x.1.length then .fail 3
    else
      let (s, w) := is.foldl (fun p i => sendTo s.executing i a x p.1 p.2 v) (s, w)
      .go s w v

/-- CACK (R312). -/
def execCack (c : CFields) (s : State) : Host.Outcome State Fault Refusal :=
  withInvocation s fun s w v =>
    let seq := s.fragField w v 3
    let data := leBytes 4 (seq % 2 ^ 32) ++ leBytes 4 ((srcA s w v c).toNat % 2 ^ 32)
    sendOne [3] (bits c.imm 0 3) (srcB v c).toNat (data, []) s w v

/-- CDROPF (R315). -/
def execCdropf (c : CFields) (s : State) : Host.Outcome State Fault Refusal :=
  withInvocation s fun s w _ => if c.op.getLsbD 0 then .fail 4 else .done s w

/-- CSIG (R314): the arrival is made by CSIG_ARRIVAL. -/
def execCsig (c : CFields) (s : State) : Host.Outcome State Fault Refusal :=
  withInvocation s fun s w v => .go s { w with sigs := w.sigs ++ [((srcB v c).toNat, c.op.getLsbD 0)] } v

end Sys2Proof.Machine
end

