-- ==== Sys2Proof/Machine/WindowOps.lean ====
section
/-! DEFINITION. CWARM and CWSTAT (R298-R300), and the events of the Scegus die: fragments, invocations,
placements and completions (R296-R301, R308, R313, R314, R328), bindings (R291-R294, R297, R417), collective
programs (R305) and the endpoint table (R403). -/

namespace Sys2Proof

/-- The branch target of an instruction lies within a program of `n` instructions (R305). -/
def Instr.targetIn (n : Nat) : Instr → Bool
  | .cjmp c | .cbr c | .cyield c => decide (bits c.imm 0 8 < n)
  | _ => true

/-- The last instruction of a program lets no invocation run past the end (R305). -/
def Instr.endsProgram : Instr → Bool
  | .cjmp _ | .cend _ | .cdropf _ | .cyield _ => true
  | _ => false

end Sys2Proof

namespace Sys2Proof.Machine

open Sys2Proof

/-! ## CWARM and CWSTAT (R299, R300) -/

/-- Window numbers of a package (R108). One beyond them stands for a window of another package, which no
grid of this package may arm (DEDUCED log 30). -/
def windowCount : Nat := 4096

/-- The window that a physical address of space 1 names. -/
def State.windowNumber (s : State) (pa : Nat) : Nat :=
  if paPkg pa = s.system.pkgid then paOffset pa / 2 ^ 32 else windowCount

/-- CWARM (R299): the thread parks until WINDOW_ARM answers it. -/
def execCwarm (f : Fields) (s : State) : Host.Outcome State Fault Refusal :=
  execEach (shapeCwarm f) f (fun s w lane t =>
    let va := read64 s w lane t f f.a
    if t.acquiring then .hold s
    else
      withPa s w lane t .window va fun s pa _ =>
        match s.latchAt w (read32 s w lane t f f.b) with
        | .error (c, e) => .fault c e
        | .ok l => .done s.fresh (t.park (.cwarm va (s.windowNumber pa) l s.nextId (s.viaOf w va) f.d.reg) f)) s

/-- CWSTAT (R300). -/
def execCwstat (f : Fields) (s : State) : Host.Outcome State Fault Refusal :=
  execEach (shapeCwstat f) f (fun s w lane t =>
    let va := read64 s w lane t f f.a
    if t.acquiring || t.pendFull then .hold s
    else
      withPa s w lane t .window va fun s pa _ =>
        .done s.fresh ((t.pend s.nextId w.seq f.la.toNat 2 f.d.reg (.cwstat (s.windowNumber pa) va (s.viaOf w va)) none).advance f.form.len)) s

/-- The words that CWSTAT reads (R300). -/
def Window.status (w : Window) : List Word :=
  let st : Nat := match w.state with | .idle => 0 | .armed => 1 | .done => 2 | .failed => 3
  let blocks := if w.kind = 1 then min 0xFFFF w.complete else 0
  [BitVec.ofNat 32 (st + (if w.hold = [] then 0 else 4) + w.failCode % 256 * 2 ^ 8 + blocks * 2 ^ 16), BitVec.ofNat 32 w.phi]

/-! ## Arming (R299) -/

/-- A CWARM parked for a window: its wave, lane and thread, virtual address, latch, destination and length. -/
structure Arming where
  wave : Wave
  lane : Nat
  thread : Thread
  va : DWord
  latch : LatchRef
  d : Option Nat
  len : Nat

/-- The parked CWARMs of a window. -/
def State.armings (s : State) (n : Nat) : List Arming :=
  s.waves.flatMap fun w => ((List.range w.threads.length).zip w.threads).filterMap fun x =>
    match x.2.run with
    | .parked (.cwarm va k l _ _ d) len =>
      if k = n then some { wave := w, lane := x.1, thread := x.2, va := va, latch := l, d := d, len := len } else none
    | _ => none

/-- What an ended phase began is over: its failure is signalled, its invocations and arrivals are done. -/
def Window.settled (w : Window) : Bool :=
  w.state = .armed || (!w.failSignal && w.running.isNone && w.queue = [] && w.sigs = [])

/-- WINDOW_ARM (R299). -/
def execWindowArm (n : Nat) (s : State) : Host.Outcome State Fault Refusal :=
  let w := s.window n
  match s.armings n with
  | [] => .next s
  | a :: _ =>
    if s.waveSaving a.wave then .next s
    else
      let part := s.partOfWave a.wave
      let entry := ((s.wg? a.wave.wg).map fun (g : Workgroup) => g.entry).getD 0
      if w.bound && s.changing w.owner then
        .next (s.setThread a.wave.id a.lane (a.thread.unpark a.len a.d [1, BitVec.ofNat 32 w.phi]))
      else if !w.settled && s.mayArm part w then .next s
      else match s.arm part a.wave.wg entry n a.latch with
        | (s, some ws) => .next (s.setThread a.wave.id a.lane (a.thread.unpark a.len a.d ws))
        | (s, none) =>
          .next (s.setThread a.wave.id a.lane ({ a.thread with run := .running }.fault .permission a.va a.wave.seq))

/-! ## Fragments (R296, R303, R308, R328) -/

/-- FRAGMENT_ARRIVE (R296): one that meets a full hold queue stays where it is and stops its die port. -/
def execFragmentArrive (id : Nat) (s : State) : Host.Outcome State Fault Refusal :=
  match s.net.find? fun a => a.id = id with
  | none => .next s
  | some a =>
    match a.work with
    | .fragment g _ =>
      if !s.pathClear a || s.portStopped id g.port || !s.fragmentTurn g then .next s
      else match s.reachWindow g with
        | some (s, _) =>
          let w := s.window g.window
          .next ((s.setWindow g.window { w with stalled := w.stalled.filter fun i => i ≠ id }).landed id)
        | none =>
          let w := s.window g.window
          .next (if w.stalled.contains id then s else s.setWindow g.window { w with stalled := w.stalled ++ [id] })
    | _ => .next s

/-- The fragment that a remote sender's makes here. -/
def arrived (g : RemoteFragment) : Fragment :=
  { window := g.window, off := g.off, data := g.data, bad := g.bad, seq := g.seq, port := g.port, from_ := g.src,
    phase := some g.phase }

/-- UE_FRAGMENT_ARRIVE (R328): acknowledged once it is accepted or held; one that meets a full hold queue is dropped without
acknowledgement, and one whose payload was trimmed gets a negative one (R402) (DEDUCED log 64). -/
def execUeFragmentArrive (g : RemoteFragment) (s : State) : Host.Outcome State Fault Refusal :=
  if !(16 ≤ g.port && g.port < 32 && g.window < windowCount) || !s.fragmentTurn (arrived g) then .next s
  else if g.data = [] then .next (s.signal (.ueAck g.port g.src g.seq false))
  else
    match s.reachWindow (arrived g) with
    | none => .next s
    | some (s, dropped) => .next (if dropped then s else s.signal (.ueAck g.port g.src g.seq true))

/-- Executors of the Scegus die (R289). -/
def executors : Nat := 16

/-- The executors that run an invocation. -/
def State.executing_ (s : State) : Nat := (s.windows.filter fun p => p.2.running.isSome).length

/-- INVOCATION_START (R301, R302). -/
def execInvocationStart (n : Nat) (s : State) : Host.Outcome State Fault Refusal :=
  let w := s.window n
  match w.running, w.queue with
  | none, g :: gs =>
    if executors ≤ s.executing_ then .next s
    else
      let v : Invocation :=
        { frag := g, timer := g.port = timerPort, phase := g.phase.getD w.phi, pc := 0, steps := 0, k := startRegs w }
      .next (s.setWindow n { w with queue := gs, running := some v })
  | _, _ => .next s

/-- TIMER_INVOCATION (R308). -/
def execTimerInvocation (n : Nat) (s : State) : Host.Outcome State Fault Refusal :=
  let w := s.window n
  match w.timer with
  | none => .next s
  | some a =>
    if s.pcc.toNat < a then .next s
    else
      let w := { w with timer := none }
      let g : Fragment :=
        { window := n, off := 0, data := [], seq := 0, port := timerPort, from_ := 0, phase := none }
      .next (s.setWindow n (if w.state = .armed then w.accept g else w))

/-! ## Placements (R313) -/

/-- A placement of a window that a completion waits for: not one sent in an unreliable mode (R314). -/
def Placement.waited (p : Placement) : Bool :=
  match p.what with
  | .ue _ mode _ _ _ _ _ _ _ => mode ≠ 2
  | _ => true

/-- Where the workgroup of a linear index of a grid stands. -/
inductive Seat where
  | here (g : Workgroup)
  /-- Not yet placed, or saved. -/
  | away
  /-- Retired, or beyond the grid. -/
  | gone

/-- The seat of a workgroup of an entry (R19, R313). -/
def State.seat (s : State) (entry wg : Nat) : Seat :=
  match s.wgs.find? fun g => g.entry = entry && s.linearWg g = wg with
  | some g => .here g
  | none =>
    match s.entry? entry with
    | none => .gone
    | some e =>
      let size := e.record.gsize
      if (e.gangs.getD 0) * size ≤ wg then .gone
      else if s.saved.any fun x => x.gang.entry = entry && x.gang.index = wg / size
          && x.wgs.any (fun g => g.member = wg % size) then .away
      else if e.placed ≤ wg / size then .away
      else .gone

/-- A placement ends. -/
def State.placed (s : State) (id : Nat) : State := { s with placements := s.placements.filter fun p => p.id ≠ id }

/-- A placement fails its phase DEST and writes nothing (R305, R313). -/
def State.placeFail (s : State) (p : Placement) : State :=
  let s := s.placed p.id
  if (s.window p.window).phi = p.phase then s.failPhase p.window 3 else s

/-- A latch that lies in a LATCH buffer of its workgroup (R93, R305). -/
def State.latchStands (s : State) (l : LatchRef) : Bool :=
  ((s.wg? l.wg).map fun g => (g.touched l.off 16).any fun b => b.latch).getD false

/-- A placement is written to a vault as a copy in (R90), with its arrival (R313). -/
def State.placeVault (s : State) (p : Placement) (g : Workgroup) (off : Nat) (latch : Option Nat) (data : List Byte) : State :=
  let n := data.length
  if g.vaultSize < off + n || !g.endAllowed off n Buffer.copiesIn then s.placeFail p
  else if s.storesBefore g off n then s
  else
    let s := match g.copyBuffer off n with
      | some (some (k, b)) => if b.state = BufState.empty then s.setWg { g with buffers := put g.buffers k ({ b with state := .filling, fill := 0, got := [] } : Buffer) } else s
      | _ => s
    let s := s.writeVaultEnd g.id off (((List.range n).zip data).map fun x => (x.2, p.bad.contains x.1))
    let s := match latch with
      | some o =>
        let l : LatchRef := { wg := g.id, off := o }
        if s.latchStands l then s.arrive l n else s
      | none => s
    s.placed p.id

/-- The kept packets that carry a placement. -/
def State.placeSent (s : State) (p : Placement) (packets : List Nat) : State :=
  { s with placements := s.placements.map fun x => if x.id = p.id then { x with sent := packets } else x }

/-- The ports that an endpoint's traffic may use (R403). -/
def State.uePorts (s : State) (uep : Nat) : List Nat := (List.range 16).filter fun i => (s.endpointWord uep 2).getLsbD (16 + i)

/-- The port of a packet to an endpoint (R403): one for an ordered context, else by entropy (DESIGN CHOICE log 11). -/
def State.uePort (s : State) (uep mode : Nat) : Option Nat :=
  let ps := s.uePorts uep
  ps[(if mode = 1 then Config.contextPort uep else (Config.freeWord s.draws).toNat) % ps.length]?

/-- A placement over Ultra Ethernet is sent once more; an unreliable one is then over (R314, R402). -/
def State.placeUe (s : State) (p : Placement) : State :=
  { s with draws := s.draws + 1, placements := s.placements.filterMap fun x =>
      if x.id = p.id then
        match x.what with
        | .ue uep mode window off seq phase isWindow data sends =>
          if mode = 2 then none
          else some { x with port := s.uePort uep mode, what := .ue uep mode window off seq phase isWindow data (sends + 1) }
        | _ => some x
      else some x }

/-- The endpoint and mode of a placement over Ultra Ethernet. -/
def Placement.context (p : Placement) : Option (Nat × Nat) :=
  match p.what with
  | .ue uep mode _ _ _ _ _ _ _ => some (uep, mode)
  | _ => none

/-- An earlier placement of the same ordered context has not been acknowledged (R402). -/
def State.ueBehind (s : State) (p : Placement) : Bool :=
  match p.context with
  | some (uep, 1) => (s.placements.takeWhile fun x => x.id ≠ p.id).any fun x => x.context = some (uep, 1)
  | _ => false

/-- Times that a placement was sent over Ultra Ethernet. -/
def Placement.ueSends (p : Placement) : Option Nat :=
  match p.what with
  | .ue _ _ _ _ _ _ _ _ n => some n
  | _ => none

/-- PLACEMENT_DELIVER (R313). -/
def execPlacementDeliver (id : Nat) (s : State) : Host.Outcome State Fault Refusal :=
  match s.placements.find? fun p => p.id = id with
  | none => .next s
  | some p =>
    if p.sent ≠ [] then .next s
    else
      let owner := (s.window p.window).owner
      match p.what with
      | .vault entry wg off latch data =>
        match s.seat entry wg with
        | .away => .next s
        | .gone => .next (s.placeFail p)
        | .here g => .next (s.placeVault p g off latch data)
      | .global pa data =>
        let (s, ids) := s.engineWrite 0 owner .user none pa .adp data p.bad
        .next (if ids = [] then s.placed id else s.placeSent p ids)
      | .window pkg window off seq phase data =>
        if pkg = s.system.pkgid then
          let g : Fragment :=
            { window := window, off := off, data := data, bad := p.bad, seq := seq, port := 33, from_ := pkg,
              phase := some phase }
          if !(s.window window).bound then .next (s.placeFail p)
          else if !s.fragmentTurn g then .next s
          else .next (((s.reachWindow g).map fun r => r.1.placed id).getD s)
        else
          let g : RemoteFragment :=
            { window := window, port := 32, src := s.system.pkgid, seq := seq, phase := phase, off := off, data := data, bad := p.bad }
          let (s, k) := s.sendPod pkg owner .adp { core := 0, home := 0, lane := 0 } (.fragment g)
          .next (s.placeSent p [k])
      | .ue uep _ _ _ _ _ _ _ sends =>
        .next (if sends ≠ 0 then s else if Config.ueRequires uep then s.placeFail p else s.placeUe p)

/-- UE_TRANSPORT_ACK (R314, R328): in the reliable ordered mode, those of a context come in order (R402). -/
def execUeTransportAck (id : Nat) (s : State) : Host.Outcome State Fault Refusal :=
  match s.placements.find? fun p => p.id = id with
  | none => .next s
  | some p => .next (if (p.ueSends.getD 0) = 0 || s.ueBehind p then s else s.placed id)

/-- UE_RETRANSMIT (R328). -/
def execUeRetransmit (id : Nat) (s : State) : Host.Outcome State Fault Refusal :=
  match s.placements.find? fun p => p.id = id with
  | none => .next s
  | some p => .next (if (p.ueSends.getD 0) = 0 then s else s.placeUe p)

/-! ## Completion (R305, R314) -/

/-- The workgroup of a latch is saved. -/
def State.latchSaved (s : State) (l : LatchRef) : Bool := s.saved.any fun x => x.wgs.any fun g => g.id = l.wg

/-- The completion of a failed phase on its latch (R305). -/
def State.failArrive (s : State) (l : LatchRef) : State :=
  if !s.latchStands l then s
  else
    let e := (s.latchWord l 0).toNat
    if e = 0 then s.setLatch l 0 0 (s.latchPhase l + 1) else s.arrive l (e - (s.latchWord l 1).toNat)

/-- The phase ends by CSIG `.END` (R295, R307, R314). -/
def State.endPhase (s : State) (n : Nat) : State :=
  let w := s.window n
  if w.state = .armed then (s.returnColl w).setWindow n { w with state := .done, suspended := [] } else s

/-- CSIG_ARRIVAL (R314), and the completion of a failed phase (R305). -/
def execCsigArrival (n : Nat) (s : State) : Host.Outcome State Fault Refusal :=
  let w := s.window n
  if s.placements.any fun p => p.window = n && p.waited then .next s
  else match w.latch with
    | none => .next s
    | some l =>
      if s.latchSaved l then .next s
      else if w.failSignal then .next ((s.failArrive l).setWindow n { w with failSignal := false })
      else match w.sigs with
        | [] => .next s
        | (b, last) :: rest =>
          let s := if s.latchStands l then s.arrive l b else s
          let s := s.setWindow n { w with sigs := rest }
          .next (if last then s.endPhase n else s)

/-! ## Endpoints (R403, R416) -/

/-- A binding of a partition may name an endpoint; `ordered` for a destination of MODE 1 (R294, R403). -/
def State.endpointOk (s : State) (part e : Nat) (ordered : Bool) : Bool :=
  let x := s.endpointWord e 2
  decide (e < 1024) && x.getLsbD 40 && decide (bits x 16 16 ≠ 0) && bits x 48 16 = part && (!ordered || x.getLsbD 41)

/-- The bits of a word of an endpoint entry that are not reserved (R403). -/
def endpointMask (i : Nat) : DWord := if i < 2 then ~~~0#64 else if i = 2 then 0xFFFF033FFFFFFFFF else 0

/-- ENDPOINT_WRITE (R403, R416). -/
def execEndpointWrite (entry i : Nat) (value : DWord) (writer : Writer) (s : State) : Host.Outcome State Fault Refusal :=
  let x := s.endpointWord entry 2
  if 1024 ≤ entry || 8 ≤ i || (x.getLsbD 40 && writer.other (bits x 48 16)) || (i = 2 && writer.other (bits value 48 16)) then .next s
  else .next { s with endpoints := sset 0 s.endpoints (8 * entry + i) (value &&& endpointMask i) }

/-! ## Bindings (R291-R294, R297, R417) -/

/-- The bytes of a binding record. -/
def recordBytes : Nat := 1344

/-- The binding record in the window table (R416). -/
def State.tableRecord (s : State) (n : Nat) : List Byte := sbytes s.wtable (2048 * n) recordBytes

/-- A run of record bytes holds zeros. -/
def recZero (r : List Byte) (at_ n : Nat) : Bool := ((r.drop at_).take n).all fun b => b = 0

/-- A destination entry without a reserved value or non-zero reserved field (R292) (DEDUCED log 56). -/
def destOk (r : List Byte) (i : Nat) (d : Dest) : Bool :=
  let b := 64 + 32 * i
  if recZero r b 32 then true
  else
    recZero r (b + 19) 1 && recZero r (b + 26) 6 && decide (1 ≤ d.limit ∧ d.limit ≤ 2 ^ 30)
      && (d.path = 0 && d.mode = 0 || d.path = 1 && decide (d.mode ≤ 2))
      && (match d.kind with
        | 1 => decide (d.addr < 2 ^ 30) && d.path = 0
        | 2 => d.latch = 0xFFFFFFFF && decide (d.addr < 2 ^ 52) && paSpace d.addr = 0 && !paBad d.addr
        | 3 => d.latch = 0xFFFFFFFF && decide (d.addr < 2 ^ 52) && paSpace d.addr = 1 && d.addr % 2 ^ 32 = 0
        | _ => false)

/-- A contributor entry without a non-zero reserved field (R293). -/
def contribOk (c : Nat) : Bool :=
  if c < 2 ^ 31 then decide (c < 2 ^ 13)
  else if c < 2 ^ 31 + 2 ^ 30 then decide (c - 2 ^ 31 < 32)
  else decide (c - 2 ^ 31 - 2 ^ 30 < 2 ^ 16)

/-- The record has no reserved value and no non-zero reserved field (R291). -/
def Window.fieldsOk (w : Window) : Bool :=
  let r := w.record
  decide (w.kind ≤ 2) && (w.scope = 4 || w.scope = 5) && decide (3 ≤ w.blkLog ∧ w.blkLog ≤ 6)
    && decide (1 ≤ w.ncontrib ∧ w.ncontrib ≤ 256) && decide (1 ≤ w.nblk ∧ w.nblk ≤ 4096) && decide (recNum r 8 4 ≤ 1)
    && recZero r 12 4 && recZero r 48 16
    && ((List.range 8).all fun i => destOk r i (w.dest i))
    && ((List.range w.ncontrib).all fun i => contribOk (w.contrib i))
    && recZero r (320 + 4 * w.ncontrib) (1024 - 4 * w.ncontrib)

/-- No two of some numbers are equal. -/
def allDifferent : List Nat → Bool
  | [] => true
  | a :: l => !l.contains a && allDifferent l

/-- Staging that a REDUCE window reserves (R294). -/
def Window.staging (w : Window) : Nat := if w.kind = 1 then w.nblk * w.ncontrib * 4 * w.elems else 0

/-- Staging memory of the Scegus die (R289). -/
def stagingSize : Nat := 48 * 2 ^ 20

/-- Windows that may be bound at one time (R289) (DEDUCED log 57). -/
def boundWindows : Nat := 1024

/-- Staging reserved by bound windows. -/
def State.reserved (s : State) : Nat :=
  ((s.windows.filter fun p => p.2.bound).map fun p => p.2.staging).foldl (· + ·) 0

/-- Bound windows. -/
def State.boundCount (s : State) : Nat := (s.windows.filter fun p => p.2.bound).length

/-- Every endpoint that a record names may be named by a partition, and its WINDOW entries of PATH 1 follow
R327. -/
def State.recordEndpoints (s : State) (part : Nat) (w : Window) : Bool :=
  ((List.range 8).all fun i =>
    let d := w.dest i
    d.path ≠ 1 || (s.endpointOk part d.uep (d.mode = 1) && (d.kind ≠ 3 || d.addr / 2 ^ 44 = 1)))
  && (List.range w.ncontrib).all fun i =>
    decide (w.contrib i < 2 ^ 31 + 2 ^ 30) || s.endpointOk part (w.contrib i % 2 ^ 16) false

/-- The partition that a bind by SYS gives a window: that of the first agent of this package among its
contributors, else partition 0 (the spec names no owner there) (DEDUCED log 44). -/
def State.sysOwner (s : State) (w : Window) : Nat :=
  match (List.range w.ncontrib).find? fun i => w.contrib i < 2 ^ 13 && w.contrib i / 256 = s.system.pkgid with
  | some i => s.partOf (w.contrib i / 32 % 8)
  | none => 0

/-- The reason for which a bind is refused, 0 for none: the lowest that holds (R294, R417). -/
def State.bindReason (s : State) (part : Nat) (old w : Window) : Nat :=
  if !w.fieldsOk then 1
  else if (s.program w.prog).loaded = [] then 2
  else if !allDifferent ((List.range w.ncontrib).map w.contrib) then 3
  else if stagingSize < s.reserved + w.staging
      || (!old.bound && decide (boundWindows ≤ s.boundCount)) then 4
  else if old.bound then 5
  else if !s.recordEndpoints part w then 6
  else 0

/-- A writer may not touch the window: another partition owns it, and it is bound (R416). -/
def shutOut (wr : Writer) (w : Window) : Bool := w.bound && wr.other w.owner

/-- The counts of fragments to a window start anew in every core (R327). -/
def State.resetSeq (s : State) (n : Nat) : State :=
  { s with cores := s.cores.map fun p => (p.1, { p.2 with fragSeq := sset 0 p.2.fragSeq n 0 }) }

/-- WINDOW_BIND (R294, R295, R297, R417). A failure of the former binding still to be signalled stays so. -/
def execWindowBind (n : Nat) (writer : Writer) (s : State) : Host.Outcome State Fault Refusal :=
  let old := s.window n
  if windowCount ≤ n || shutOut writer old then .next s
  else
    let new := { Window.reset with record := s.tableRecord n, latch := old.latch, failSignal := old.failSignal }
    let part := match writer with | .sys => s.sysOwner new | .super p => p
    match s.bindReason part old new with
    | 0 => .next ((s.setWindow n { new with bound := true, owner := part }).resetSeq n)
    | reason => .next (s.setWindow n { old with refused := !old.bound, reason := reason })

/-- The fragments of a window that its full hold queue stopped, and those behind them at the same die ports (R296, R297). -/
def State.stoppedAt (s : State) (n : Nat) : List Nat :=
  let ids := (s.window n).stalled
  let ports := s.net.filterMap fun a => match a.work with
    | .fragment g _ => if ids.contains a.id then some g.port else none
    | _ => none
  (s.net.filter fun a => match a.work with
    | .fragment g _ => g.window = n && ports.contains g.port
    | _ => false).map fun a => a.id

/-- A packet that the full hold queue of a window stopped at the pod port (R296). -/
def waitsAtWindow (n : Nat) (k : PodPacket) : Bool := match k.payload with | .fragment g => g.window = n | _ => false

/-- A window is unbound: what it holds is discarded and counted late (R297, R417) (DEDUCED log 72). -/
def State.unbind (s : State) (n : Nat) : State :=
  let w := s.window n
  let ids := s.stoppedAt n
  let pods := s.fabric.ingress.filter (waitsAtWindow n)
  let late := min 0xFFFF (w.late + w.hold.length + ids.length + pods.length)
  let s : State := { s with
    net := s.net.filter fun a => !ids.contains a.id
    fabric := { s.fabric with ingress := s.fabric.ingress.filter fun k => !waitsAtWindow n k } }
  let s := pods.foldl (fun s k => s.signal (.ack k.src k.part k.number)) s
  s.setWindow n { Window.reset with late := late, latch := w.latch, failSignal := w.failSignal }

/-- WINDOW_UNBIND (R294, R297, R417). -/
def execWindowUnbind (n : Nat) (writer : Writer) (s : State) : Host.Outcome State Fault Refusal :=
  let w := s.window n
  if !w.bound || shutOut writer w then .next s
  else if w.state = .armed then .next (s.setWindow n { w with reason := 5 })
  else .next (s.unbind n)

/-! ## Programs (R305, R417) -/

/-- A program number is bound to an ARMED window. -/
def State.programHeld (s : State) (g : Nat) : Bool :=
  s.windows.any fun p => p.2.bound && p.2.prog = g && p.2.state = .armed

/-- The instructions of collective words, none where one is refused. -/
def decodeAll : List DWord → Option (List Instr)
  | [] => some []
  | x :: xs =>
    match decodeCollective x, decodeAll xs with
    | some i, some is => some (i :: is)
    | _, _ => none

/-- The program that words make, or none (R305). -/
def checkProgram (ws : List DWord) : Option (List Instr) :=
  match decodeAll ws with
  | none => none
  | some is =>
    if is.all (Instr.targetIn is.length) && ((is.getLast?).map Instr.endsProgram).getD false then some is else none

/-- The words of a program's store. -/
def Program.text (p : Program) (n : Nat) : List DWord := (List.range n).map fun i => sget 0 p.words i

/-- SHA-384 measurement `i` extended (R422) (DEDUCED log 63). -/
def System.extend (y : System) (i : Nat) (d : List Byte) : System :=
  { y with measures := put y.measures i (Config.sha384 (lookD (List.replicate 48 0) y.measures i ++ d)) }

/-- PROGRAM_LOAD (R305, R417, R422): a PGCTL write; [15:8] gives the length - 1. -/
def execProgramLoad (g : Nat) (value : Word) (s : State) : Host.Outcome State Fault Refusal :=
  if 256 ≤ g || !value.getLsbD 0 || s.programHeld g then .next s
  else
    let p := s.program g
    match checkProgram (p.text (bits value 8 8 + 1)) with
    | some is =>
      let text := (p.text (bits value 8 8 + 1)).flatMap fun x => leBytes 8 x.toNat
      .next { s.setProgram g { p with loaded := is, status := 1 } with system := s.system.extend 6 text }
    | none => .next (s.setProgram g { p with status := 2 })

end Sys2Proof.Machine
end

