-- ==== Sys2Proof/Machine/QueueRegs.lean ====
section
/-! DEFINITION. Writes of the queue registers (R336, R337, R369, R382, R429) and of a partition's phaser share
(R430) and upper-half root. -/

namespace Sys2Proof.Machine

open Sys2Proof

/-- A 64-bit register after a write of its low or high half. -/
def writeHalf (old : DWord) (high : Bool) (v : Word) : DWord :=
  if high then pair (loWord old) v else pair v (hiWord old)

/-- A queue of a partition that exists (R410). -/
def State.queueThere (s : State) (part queue : Nat) : Bool := s.exists_ part && decide (queue < 64)

/-! ## QDOOR (R336, R337, R370) -/

/-- The levels of the records that a QDOOR write appends. -/
def Appended.host (level : Level) : Appended :=
  { level := level, launcher := none, notBefore := none, latchLast := none, killed := false }

/-- QDOOR_WRITE (R336). -/
def execQdoorWrite (part queue : Nat) (value : Word) (writer : Level) (s : State) : Host.Outcome State Fault Refusal :=
  let q := s.queue part queue
  let tail := value.extractLsb' 0 16
  let ahead := (tail - q.head).toNat
  match Level.ofCode (bits value 16 2) with
  | none => .next s
  | some level =>
    if !s.queueThere part queue || q.ufeed || !q.en || s.changing part || ahead < q.used || q.slots < ahead then .next s
    else
      .next (s.setQueue part queue { q with
        tail := tail
        appended := q.appended ++ List.replicate (ahead - q.used) (Appended.host (level.min writer)) })

/-! ## QCFG, QRING, QDONE, QROOT, SROOT, QCTX -/

/-- A LAUNCH of this clk is undone: its record leaves the queue again, and its thread, which still stands behind it, has pushed 0
(R355). -/
def State.unlaunch (s : State) (x : Launched) : State :=
  let q := s.queue x.part x.queue
  let core := x.place / 2048
  let s := s.setQueue x.part x.queue { q with tail := q.tail - 1, appended := q.appended.dropLast }
  match s.waveAt core (x.place / 32 % 64) with
  | none => s
  | some w => s.modThread w.id (x.place % 32) fun t =>
    if t.pc = x.pc then { t with queue := QEntry.val 0 :: t.queue.drop 1 }.writeD x.d [0] else t

/-- EN of a queue is cleared: the LAUNCHes that appended to it in the same clk find it so (R355). -/
def State.unlaunchAll (s : State) (part queue : Nat) : State :=
  let mine (x : Launched) : Bool := x.part = part && x.queue = queue
  { (s.launched.filter mine).foldl State.unlaunch s with launched := s.launched.filter fun x => !mine x }

/-- QCFG_WRITE (R337) (DEDUCED log 85). -/
def execQcfgWrite (part queue : Nat) (value : Word) (s : State) : Host.Outcome State Fault Refusal :=
  let s := if value.getLsbD 31 then s else s.unlaunchAll part queue
  let q := s.queue part queue
  let depth := bits value 16 4
  if !s.queueThere part queue then .next s
  else
    .next (s.setQueue part queue { q with
      en := value.getLsbD 31, ufeed := value.getLsbD 30, npok := value.getLsbD 29, maxPri := bits value 27 2
      depth := if q.busy || depth < 4 || 10 < depth then q.depth else depth
      slice := value.extractLsb' 0 16 })

/-- Bits [51:8] of QRING and QDONE. -/
def ringMask : DWord := 0x000FFFFFFFFFFF00

/-- QRING_WRITE (R337): registers 0x3E5 to 0x3E8. -/
def execQringWrite (part queue num : Nat) (value : Word) (s : State) : Host.Outcome State Fault Refusal :=
  let q := s.queue part queue
  if !s.queueThere part queue || q.busy then .next s
  else
    match num with
    | 0x3E5 => .next (s.setQueue part queue { q with ring := writeHalf q.ring false value &&& ringMask })
    | 0x3E6 => .next (s.setQueue part queue { q with ring := writeHalf q.ring true value &&& ringMask })
    | 0x3E7 => .next (s.setQueue part queue { q with done := writeHalf q.done false value &&& ringMask })
    | 0x3E8 => .next (s.setQueue part queue { q with done := writeHalf q.done true value &&& ringMask })
    | _ => .next s

/-- The bits of QROOT that are not reserved (R369). -/
def rootMask : DWord := 0x03EFFFFFFFFFFFFF

/-- QROOT_WRITE (R369): registers 0x3F0 and 0x3F1. -/
def execQrootWrite (part queue num : Nat) (value : Word) (s : State) : Host.Outcome State Fault Refusal :=
  let q := s.queue part queue
  if !s.queueThere part queue || q.busy then .next s
  else .next (s.setQueue part queue { q with root := writeHalf q.root (num = 0x3F1) value &&& rootMask })

/-- SROOT_WRITE (R369): registers 0x3F2 and 0x3F3. -/
def execSrootWrite (part num : Nat) (value : Word) (s : State) : Host.Outcome State Fault Refusal :=
  let p := s.partition part
  if !s.exists_ part then .next s
  else .next (s.setPartition part { p with sroot := writeHalf p.sroot (num = 0x3F3) value &&& rootMask &&& ~~~0xFFFF#64 })

/-- A write of QCTX (R382): ADDR and SIZE, and FULL cleared by a 1. -/
def State.writeQctx (s : State) (part queue : Nat) (high : Bool) (value : Word) : State :=
  let q := s.queue part queue
  s.setQueue part queue { q with
    ctx := writeHalf q.ctx high value &&& 0x000FFFFFFFFFFFFE
    ctxFull := q.ctxFull && (high || !value.getLsbD 0) }

/-! ## Phaser allotments (R429, R430) -/

/-- A range of phasers. -/
structure PhRange where
  base : Nat
  count : Nat
  deriving DecidableEq, Repr

namespace PhRange

/-- It lies below a number of phasers, or is empty. -/
def below (r : PhRange) (n : Nat) : Bool := r.count = 0 || decide (r.base + r.count ≤ n)

/-- It lies within another, or is empty. -/
def inside (r o : PhRange) : Bool := r.count = 0 || decide (o.base ≤ r.base ∧ r.base + r.count ≤ o.base + o.count)

/-- A phaser lies in the range. -/
def has (r : PhRange) (i : Nat) : Bool := decide (r.base ≤ i ∧ i < r.base + r.count)

/-- Two ranges have a phaser in common. -/
def overlaps (r o : PhRange) : Bool :=
  r.count ≠ 0 && o.count ≠ 0 && decide (r.base < o.base + o.count ∧ o.base < r.base + r.count)

end PhRange

/-- The fields of QPHAL and PPHAL. -/
def podRange (v : DWord) : PhRange := { base := bits v 48 8, count := bits v 56 8 }
def pkgRange (v : DWord) : PhRange := { base := bits v 24 8, count := bits v 32 9 }
def dieRange (v : DWord) : PhRange := { base := bits v 0 8, count := bits v 16 8 }

/-- No range exceeds the counts of R21. -/
def rangesBelow (v : DWord) : Bool := (podRange v).below 64 && (pkgRange v).below 256 && (dieRange v).below 128

/-- The PKG and POD ranges lie within a partition's share. -/
def rangesInside (v share : DWord) : Bool := (podRange v).inside (podRange share) && (pkgRange v).inside (pkgRange share)

/-- A phaser that a queue's new allotment takes in: neither the old one nor that of another queue of the partition
has it. -/
def State.newlyAllotted (s : State) (part queue : Nat) (v : DWord) (f : DWord → PhRange) (i : Nat) : Bool :=
  (f v).has i && !(f (s.queue part queue).phal).has i
    && !(s.partition part).queues.any fun q => q.1 ≠ queue && (f q.2.phal).has i

/-- A phaser starts at phase 0 when it is allotted (R240): a DIE phaser on every die of the partition (DEDUCED log 35). -/
def State.allotPhasers (s : State) (part queue : Nat) (v : DWord) : State :=
  { s with
    diePh := s.diePh.filter fun k => !((s.dieSet part).contains (k.1 / 128) && s.newlyAllotted part queue v dieRange (k.1 % 128))
    pkgPh := s.pkgPh.filter fun k => !s.newlyAllotted part queue v pkgRange k.1
    podPh := s.podPh.filter fun k => !s.newlyAllotted part queue v podRange k.1 }

/-- QPHAL_WRITE (R429): registers 0x3EE and 0x3EF (DEDUCED log 70). -/
def execQphalWrite (part queue num : Nat) (value : Word) (s : State) : Host.Outcome State Fault Refusal :=
  let q := s.queue part queue
  let v := writeHalf q.phal (num = 0x3EF) value &&& 0xFFFF01FFFFFF00FF
  if !s.queueThere part queue || q.busy || !rangesBelow v || !rangesInside v (s.partition part).pphal then .next s
  else .next ((s.allotPhasers part queue v).setQueue part queue { q with phal := v })

/-- PPHAL_WRITE (R430): registers 0x356 and 0x357. -/
def execPphalWrite (part num : Nat) (value : Word) (s : State) : Host.Outcome State Fault Refusal :=
  let p := s.partition part
  let v := writeHalf p.pphal (num = 0x357) value &&& 0xFFFF01FFFF000000
  let meet (o : Nat) : Bool :=
    o ≠ part && ((podRange v).overlaps (podRange (s.partition o).pphal) || (pkgRange v).overlaps (pkgRange (s.partition o).pphal))
  if !s.exists_ part || !rangesBelow v || s.partsNow.any meet
      || p.queues.any (fun q => q.2.busy && !rangesInside q.2.phal v) then .next s
  else .next (s.setPartition part { p with pphal := v })

end Sys2Proof.Machine
end

