-- ==== Sys2Proof/Machine/Placement.lean ====
section
/-! DEFINITION. The fit of a gang on an aligned core set (R18, R343), its placement (R17, R23, R24, R27, R84,
R254), and the arbiter's choice (R343, R344). -/

namespace Sys2Proof.Machine

open Sys2Proof

/-! ## What a core has and what a gang asks (R23, R24, R254, R343) -/

/-- What a workgroup asks of its core. -/
structure Demand where
  waves : Nat
  blocks : Nat
  vault : Nat
  slots : Nat
  tiles : Nat
  paths : Nat
  phasers : Nat
  deriving DecidableEq, Repr

/-- What a gang asks: each member's demand, and QUAD phasers. -/
structure GangDemand where
  members : List Demand
  quadPh : Nat
  deriving DecidableEq, Repr

/-- The demand of a gang that a record describes. -/
def Record.demand (r : Record) : GangDemand :=
  { members := List.replicate r.gsize
      { waves := r.nwaves, blocks := r.nwaves * r.blocks, vault := r.vault, slots := r.nslots, tiles := r.ntiles,
        paths := r.paths, phasers := r.corePh }
    quadPh := r.quadPh }

/-- The user wave slots of a core (R23). -/
def userSlots (core : Nat) : List Nat := (List.range 63).filter fun k => decide (k ≠ 0) || !isQuadHead core

/-- Operand slots, tiles and path-trace sets of a core (R1, R254), phasers of a sync unit (R21). -/
def coreSlots : Nat := 64
def coreTiles : Nat := 16
def corePathSets : Nat := 4
def syncPhasers : Nat := 64

/-- The end of the vault space of user workgroups of a core (R24). -/
def vaultTop (core : Nat) : Nat := 32 * 2 ^ 20 - (if isQuadHead core then 65536 else 0)

/-- The slots of a core that user waves do not hold. -/
def State.freeWaveSlots (s : State) (core : Nat) : List Nat :=
  (userSlots core).filter fun k => !s.waves.any fun w => w.core = core && w.slot = k && !w.exited

def sumOf {α : Type} (l : List α) (g : α → Nat) : Nat := (l.map g).foldl (· + ·) 0

/-- The workgroups of a core. -/
def State.groupsOn (s : State) (core : Nat) : List Workgroup := s.wgs.filter fun g => g.core = core

/-- The record of a workgroup's grid. -/
def State.recordOf (s : State) (g : Workgroup) : Record := ((s.entry? g.entry).map fun e => e.record).getD { words := [] }

/-- The lowest vault base with room for a range (first fit). -/
def vaultFit (size limit : Nat) (used : List (Nat × Nat)) : Option Nat :=
  let starts := 0 :: used.map fun u => u.1 + u.2
  (starts.filter fun b => decide (b + size ≤ limit) && used.all fun u => !meets b size u.1 u.2).foldl
    (fun best b => match best with
      | none => some b
      | some a => some (min a b)) none

/-- The place in a core's vault for a range. -/
def State.vaultRoom (s : State) (core size : Nat) : Option Nat :=
  vaultFit size (vaultTop core) ((s.groupsOn core).map fun g => (g.vaultBase, g.vaultSize))

/-- A core holds what a member asks. -/
def State.fitsCore (s : State) (core : Nat) (d : Demand) : Bool :=
  let gs := s.groupsOn core
  decide (d.waves ≤ (s.freeWaveSlots core).length) && decide (d.blocks ≤ s.freeBlocks core)
    && (s.vaultRoom core d.vault).isSome
    && decide (sumOf gs (fun g => g.nslots) + d.slots ≤ coreSlots)
    && decide (sumOf gs (fun g => g.ntiles) + d.tiles ≤ coreTiles)
    && decide (sumOf gs (fun g => if g.hasPaths then 1 else 0) + d.paths ≤ corePathSets)
    && decide (sumOf gs (fun g => (s.recordOf g).corePh) + d.phasers ≤ syncPhasers)

/-- QUAD phasers of a quad in use. -/
def State.quadUse (s : State) (quad : Nat) : Nat :=
  sumOf (s.gangs.filter fun g => quadOf g.base = quad) fun g =>
    (((s.entry? g.entry).map fun e => e.record.quadPh).getD 0)

/-- A gang fits on the core set that begins at `base`. -/
def State.fitsAt (s : State) (base : Nat) (d : GangDemand) : Bool :=
  ((List.range d.members.length).zip d.members).all (fun m => s.fitsCore (base + m.1) m.2)
    && decide (s.quadUse (quadOf base) + d.quadPh ≤ syncPhasers)

/-- The aligned core sets of a gang of `g` on a die, lowest first (R18). -/
def coreSets (die g : Nat) : List Nat :=
  if g = 0 then [] else (List.range (32 / g)).map fun i => 32 * die + g * i

/-- The dies of a partition in the order in which the arbiter looks: from the one after the last placement,
with wrap; the first time, from the lowest (R343). -/
def State.dieOrder (s : State) (part : Nat) : List Nat :=
  let ds := s.dieSet part
  match (s.partition part).lastDie with
  | none => ds
  | some l => (ds.filter fun d => decide (l < d)) ++ ds.filter fun d => decide (d ≤ l)

/-- The core sets in the arbiter's order on which a gang fits and which a test accepts (DESIGN CHOICE log 15). -/
def State.findSet (s : State) (part : Nat) (d : GangDemand) (ok : Nat → Bool) : Option Nat :=
  ((s.dieOrder part).flatMap fun die => coreSets die d.members.length).find? fun b => s.fitsAt b d && ok b

/-- A gang fits somewhere in a partition. -/
def State.fitsSomewhere (s : State) (part : Nat) (d : GangDemand) : Bool := (s.findSet part d fun _ => true).isSome

/-! ## Placing (R17, R23, R27, R84, R254, R377) -/

/-- A workgroup at its start. -/
def Workgroup.start (id gang entry member core vaultBase : Nat) (r : Record) : Workgroup :=
  { id := id, gang := gang, entry := entry, member := member, core := core, vaultBase := vaultBase, vaultSize := r.vault,
    vault := [], poison := [], buffers := [], ringLen := r.ringLen, pub := 0, copies := [], nslots := r.nslots, slots := [],
    layouts := [], ntiles := r.ntiles, tiles := [], cvs := [], hasPaths := r.paths = 1, traces := [], issued := 0, done := 0,
    ops := [], oloads := [], conflicts := 0, mismatched := [], scopeMiss := false, matrixCheck := false, impOvf := false,
    reports := [], dbgHalt := false, bulk := 0, drain := 0, coll := 0, phasers := [] }

/-- The slot of the next of a workgroup's waves: in the pane with the fewest of them, the lowest free one
(R23). -/
def nextSlot (free taken : List Nat) : Nat :=
  let count (k : Nat) : Nat := (taken.filter fun t => t % 4 = k % 4).length
  ((free.filter fun k => !taken.contains k).foldl (fun (best : Option Nat) k => match best with
    | none => some k
    | some b => if count k < count b || (count k = count b && decide (k % 4 < b % 4)) then some k else some b) none).getD 0

/-- The slots of `n` waves of a workgroup. -/
def takeSlots (free : List Nat) : Nat → List Nat → List Nat
  | 0, taken => taken
  | n + 1, taken => takeSlots free n (taken ++ [nextSlot free taken])

/-- A wave at its start (R25, R46, R373). -/
def Wave.start (id core slot : Nat) (kind : WaveKind) (wg index blocks : Nat) (pc : DWord) (level : Level) (clk : Nat) : Wave :=
  { id := id, core := core, slot := slot, kind := kind, wg := wg, index := index, blocks := blocks,
    threads := List.replicate 32 (Thread.start pc level), interval := 0, resident := true, store := [], seq := 0,
    lastIssue := clk, yieldUntil := 0, haltLogged := false }

/-- The instruction cache of a core is invalidated (R142). -/
def State.dropCode (s : State) (core : Nat) : State :=
  if (s.core core).code = [] then s else s.setCore core { s.core core with code := [] }

/-- Place a member of a new gang on its core. -/
def State.placeMember (s : State) (e : Entry) (gang : Nat) (m core : Nat) : State :=
  let id := s.nextId
  let r := e.record
  let g := Workgroup.start id gang e.id m core ((s.vaultRoom core r.vault).getD 0) r
  let slots := takeSlots (s.freeWaveSlots core) r.nwaves []
  let waves := ((List.range r.nwaves).zip slots).map fun x =>
    Wave.start (id + 1 + x.1) core x.2 .user id x.1 r.blocks r.entryPc e.level s.clk
  { s.dropCode core with wgs := s.wgs ++ [g], waves := s.waves ++ waves, nextId := id + 1 + r.nwaves }

/-- Place the next gang of an entry on the core set at `base`. -/
def State.placeGang (s : State) (e : Entry) (base : Nat) : State :=
  let id := s.nextId
  let gang : Gang :=
    { id := id, entry := e.id, index := e.placed, base := base, placedAt := s.clk, expired := false, asked := false,
      saving := false, owing := false, killed := false, phasers := [] }
  let s := { s.fresh with gangs := s.gangs ++ [gang] }
  let s := (List.range e.record.gsize).foldl (fun s m => s.placeMember e id m (base + m)) s
  let p := s.partition e.part
  (s.setPartition e.part { p with lastDie := some (dieOf base), lastPlaced := some s.clk }).modEntry e.id fun e => { e with placed := e.placed + 1 }

/-! ## An empty partition (R28, R333) -/

/-- The state with none of some gangs resident. -/
def State.withoutGangs (s : State) (gone : Gang → Bool) : State :=
  let ids := (s.gangs.filter gone).map fun g => g.id
  let wgs := (s.wgs.filter fun g => ids.contains g.gang).map fun g => g.id
  { s with
    gangs := s.gangs.filter fun g => !gone g
    wgs := s.wgs.filter fun g => !ids.contains g.gang
    waves := s.waves.filter fun w => !(w.isUser && wgs.contains w.wg)
    cores := s.cores.map fun c => (c.1, { c.2 with draining := [] }) }

/-- The most gangs that can be resident on a package: one wave slot each. -/
def gangLimit : Nat := 256 * 63

/-! ## Saved gangs as demands -/

/-- What a saved gang asks: what it holds (R33, R383) (DEDUCED log 68). -/
def SavedGang.demand (x : SavedGang) (r : Record) : GangDemand :=
  { members := x.wgs.map fun g =>
      let ws := x.waves.filter fun w => w.wg = g.id && !w.exited
      { waves := ws.length, blocks := sumOf ws fun w => w.blocks, vault := g.vaultSize, slots := g.nslots, tiles := g.ntiles,
        paths := if g.hasPaths then 1 else 0, phasers := r.corePh }
    quadPh := r.quadPh }

/-- The saved gangs of an entry, lowest GANG first. -/
def State.savedOf (s : State) (entry : Nat) : List SavedGang :=
  (s.saved.filter fun x => x.gang.entry = entry).foldl (fun l x =>
    (l.filter fun y => decide (y.gang.index ≤ x.gang.index)) ++ [x] ++ l.filter fun y => decide (x.gang.index < y.gang.index)) []

/-- An entry's next gang (R343). -/
inductive NextGang where
  | saved (x : SavedGang)
  | fresh

/-- The next gang of an entry that waits to be placed or restored. -/
def State.nextGang (s : State) (e : Entry) : Option NextGang :=
  match s.savedOf e.id with
  | x :: _ => some (.saved x)
  | [] => if e.placed < e.gangs.getD 0 then some .fresh else none

def NextGang.demand (g : NextGang) (r : Record) : GangDemand :=
  match g with
  | .saved x => x.demand r
  | .fresh => r.demand

/-! ## Saved gangs back on cores (R33, R343, R384) -/

/-- A sleep whose deadline has come ends (R174). -/
def Thread.awake (t : Thread) (pcc : Nat) : Thread :=
  match t.run with
  | .parked (.sleep deadline) len => if deadline ≤ pcc then { t with run := .running }.advance len else t
  | _ => t

/-- A restored wave: on its new core and slot; threads whose deadlines have passed are eligible (R174). -/
def Wave.restored (w : Wave) (core slot clk : Nat) (pcc : DWord) : Wave :=
  { w with core := core, slot := slot, lastIssue := clk, yieldUntil := 0, resident := true,
           threads := w.threads.map fun t => t.awake pcc.toNat }

/-- A member of a saved gang on its new core; the promises that it has read as met (R33). -/
def State.restoreMember (s : State) (x : SavedGang) (base : Nat) (g : Workgroup) : State :=
  let core := base + g.member
  let ws := x.waves.filter fun w => w.wg = g.id
  let live := ws.filter fun w => !w.exited
  let slots := takeSlots (s.freeWaveSlots core) live.length []
  let waves := ((live.zip slots).map fun y => y.1.restored core y.2 s.clk s.pcc)
    ++ (ws.filter Wave.exited).map fun w => w.restored core w.slot s.clk s.pcc
  let g' := { g with
    core := core, vaultBase := (s.vaultRoom core g.vaultSize).getD 0, met := g.met ++ g.promised, promised := [] }
  { s.dropCode core with wgs := s.wgs ++ [g'], waves := s.waves ++ waves }

/-- A saved gang once its frame is read, before the pool grants its tokens and its ring operations are reissued: the frame is not
free yet (R271, R384). -/
def SavedGang.back (x : SavedGang) (base clk : Nat) : Gang :=
  { x.gang with base := base, placedAt := clk, owing := true, reserved := some (x.frame, x.frameSize), held := x.ringOps }

/-- A saved gang stands on the core set at `base`. -/
def State.occupy (s : State) (x : SavedGang) (base : Nat) : State :=
  let s := { s with
    saved := s.saved.filter fun y => y.gang.id ≠ x.gang.id
    gangs := s.gangs ++ [x.back base s.clk] }
  let s := x.wgs.foldl (fun s g => s.restoreMember x base g) s
  let p := s.partOf (dieOf base)
  s.setPartition p { s.partition p with lastDie := some (dieOf base), lastPlaced := some s.clk }

/-! ## Producers (R332, R341, R344) -/

/-- KIND, value and fields of a dependence (R332). -/
def depKind (d : DWord) : Nat := bits d 29 3
def depValue (d : DWord) : Word := hiWord d
def depQueue (d : DWord) : Nat := bits d 16 6
def depNumber (d : DWord) : BitVec 16 := d.extractLsb' 0 16

/-- The dependences of a record. -/
def Record.deps (r : Record) : List DWord := (List.range 4).map r.dep

/-- The entry that an ENTRY dependence of a partition names, if it is read and not completed. -/
def State.depEntry (s : State) (part : Nat) (d : DWord) : Option Entry :=
  s.entries.find? fun e => e.part = part && e.queue = depQueue d && e.number = (depNumber d).toNat

/-- The producers of an entry. -/
def State.producers (s : State) (e : Entry) : List Entry :=
  (e.record.deps.filter fun d => depKind d = 1).filterMap (s.depEntry e.part)

/-- Every producer that still has an unplaced gang could place its next one (R344). -/
def State.producersFit (s : State) (e : Entry) : Bool :=
  (s.producers e).all fun p =>
    match s.nextGang p with
    | some g => p.gangs.getD 0 ≤ p.placed || s.fitsSomewhere p.part (g.demand p.record)
    | none => true

/-- The core set that the arbiter takes for an entry's next gang, if it fits (R343, R344). -/
def State.chooseSet (s : State) (e : Entry) (g : NextGang) : Option Nat :=
  s.findSet e.part (g.demand e.record) fun b => !e.record.early ||
    (match g with
      | .fresh => s.placeGang e b
      | .saved x => s.occupy x b).producersFit e

/-- Place up to `n` gangs of an entry, each on a set that the arbiter takes; none where one does not fit. -/
def State.placeMany (e : Nat) : Nat → State → Option State
  | 0, s => some s
  | n + 1, s =>
    match s.entry? e with
    | none => none
    | some x =>
      match s.chooseSet x .fresh with
      | none => none
      | some b => State.placeMany e n (s.placeGang x b)

/-- The fit of an entry in its empty partition: of one gang, or of the whole grid with COSCHED (R333). -/
def State.fitsEmpty (s : State) (e : Entry) : Bool :=
  let empty := s.withoutGangs fun _ => true
  let fits := { empty with entries := [e] }
  if e.record.cosched then
    match e.gangs with
    | none => fits.fitsSomewhere e.part e.record.demand
    | some n => decide (n ≤ gangLimit) && (State.placeMany e.id n fits).isSome
  else fits.fitsSomewhere e.part e.record.demand

/-! ## The arbiter (R343) -/

/-- The gangs that a COSCHED entry places in one step. -/
def State.wholeGrid (s : State) (e : Entry) : Option State :=
  State.placeMany e.id (e.gangs.getD 0 - e.placed) s

/-- Saved gangs of an entry fit one after another (R28). -/
def State.allFit (e : Entry) : List SavedGang → State → Bool
  | [], _ => true
  | x :: xs, s =>
    match s.chooseSet e (.saved x) with
    | some b => State.allFit e xs (s.occupy x b)
    | none => false

/-- The next gang of an entry fits: a COSCHED grid fits as a whole (R28, R343). -/
def State.entryFits (s : State) (e : Entry) : Bool :=
  match s.nextGang e with
  | none => false
  | some .fresh =>
    if e.record.cosched then
      (s.wholeGrid e).isSome
    else (s.chooseSet e .fresh).isSome
  | some (.saved x) => State.allFit e (if e.record.cosched then s.savedOf e.id else [x]) s

/-- A candidate: eligible since an earlier clk, not to complete, with a gang waiting (R339, R343, R355). -/
def State.candidate (s : State) (e : Entry) : Bool :=
  (match e.eligibleAt with
    | some c => decide (c < s.clk)
    | none => false) && e.status.isNone && (s.nextGang e).isSome

/-- The arbiter of a partition may place: it does so at most once in 4 clk (R343). -/
def State.mayPlace (s : State) (part : Nat) : Bool :=
  match (s.partition part).lastPlaced with
  | some c => decide (c + 4 ≤ s.clk)
  | none => true

/-- Entry `a` comes before entry `b` (R343). -/
def Entry.before (a b : Entry) : Bool :=
  if a.record.priority ≠ b.record.priority then decide (b.record.priority < a.record.priority)
  else if a.eligibleAt.getD 0 ≠ b.eligibleAt.getD 0 then decide (a.eligibleAt.getD 0 < b.eligibleAt.getD 0)
  else decide (a.queue < b.queue)

/-- The clocks after which a waiting entry holds back lower priorities (R343). -/
def starvation : Nat := 65536

/-- An entry has waited longer than that. -/
def State.overdue (s : State) (e : Entry) : Bool :=
  match e.waitingSince with
  | some w => decide (starvation < s.clk - w)
  | none => false

/-- The arbiter's choice among the candidates of a partition. -/
def State.arbitrate (s : State) (part : Nat) : Option Entry :=
  let cands := s.entries.filter fun e => e.part = part && s.candidate e && s.mayPlace part
  let held := cands.filter fun e => (e.starved || s.overdue e) && !s.entryFits e
  (cands.filter fun e => s.entryFits e && held.all fun h => decide (h.record.priority ≤ e.record.priority)).foldl
    (fun best e => match best with
      | none => some e
      | some b => if e.before b then some e else some b) none

/-- Entries that wait with a gang that does not fit are marked with when they began to. -/
def State.markWaiting (s : State) : State :=
  { s with entries := s.entries.map fun e =>
      if s.candidate e && !s.entryFits e then { e with waitingSince := some (e.waitingSince.getD s.clk) }
      else { e with waitingSince := none, starved := false } }

/-- GANG_PLACE (R343). -/
def execGangPlace (part : Nat) (s : State) : Host.Outcome State Fault Refusal :=
  match s.arbitrate part with
  | none => .next s
  | some e =>
    match s.nextGang e with
    | some .fresh =>
      if e.record.cosched then .next ((s.wholeGrid e).getD s)
      else match s.chooseSet e .fresh with
        | some b => .next (s.placeGang e b)
        | none => .next s
    | _ => .next s

/-- PLACEMENT_STARVATION (R343). -/
def execPlacementStarvation (part queue number : Nat) (s : State) : Host.Outcome State Fault Refusal :=
  .next { s with entries := s.entries.map fun e =>
    if e.part = part && e.queue = queue && e.number = number && s.candidate e && s.overdue e && !s.entryFits e then
      { e with starved := true } else e }

end Sys2Proof.Machine
end

