-- ==== Sys2Proof/Machine/Entries.lean ====
section
/-! DEFINITION. Queue entries: the checks of a record (R71, R333), dependences (R332, R340, R341), eligibility
(R339, R342), retirement (R172), kills (R354, R180) and completion (R335, R338). -/

namespace Sys2Proof.Machine

open Sys2Proof

/-! ## Checks of a record (R333) -/

/-- A format slot that R71 refuses. -/
def formatBad (v : Word) : Bool :=
  decide (bits v 24 8 ≠ 0) || decide (bits v 20 4 ≠ 0) || decide (4 ≤ bits v 16 4) || decide (5 ≤ bits v 12 3)
    || decide (8 ≤ bits v 8 4) || decide (8 ≤ bits v 4 4) || decide (8 ≤ bits v 0 4)

/-- A field of a record outside its limits, or a reserved one that is not zero (R330, R331). -/
def Record.fieldsBad (r : Record) : Bool :=
  decide (r.entryPc.toNat % 32 ≠ 0)
    || (if r.indirect then decide ((r.dword 8).toNat % 4 ≠ 0)
        else (r.word 8).toNat = 0 || decide (2 ^ 24 < (r.word 8).toNat) || decide (r.word 12 ≠ 0))
    || r.gx = 0 || r.gy = 0 || decide (32 * 2 ^ 20 - 65536 < (r.word 24).toNat)
    || !([1, 2, 4].contains r.gsize) || r.nwaves = 0 || decide (32 < r.nwaves) || r.blocks = 0 || decide (31 < r.blocks)
    || !([0, 3, 4, 5, 6, 7, 8].contains r.ringLog) || decide (64 < r.nslots) || decide (16 < r.ntiles) || decide (1 < r.paths)
    || decide (bits r.flags 6 26 ≠ 0) || decide (128 < r.dieCnt) || decide (256 < r.pkgCnt) || decide (64 < r.podCnt)
    || (List.range 8).any fun i => formatBad (r.fs i)

/-- The level of a PHASER dependence's handle, its index, and its die index (R332). -/
def depLevel (d : DWord) : Nat := bits d 13 3
def depIndex (d : DWord) : Nat := bits d 0 13
def depDie (d : DWord) : Nat := bits d 16 3

/-- An entry number that a queue has not yet assigned (R340). -/
def Queue.unassigned (q : Queue) (n : BitVec 16) : Bool := decide ((n - q.tail).toNat < 2 ^ 15)

/-- An entry number more than 4,096 behind TAIL (R340). -/
def Queue.longPast (q : Queue) (n : BitVec 16) : Bool := decide (4096 < (q.tail - n).toNat)

/-- A dependence that R332 or R333 refuses; `latch` tells whether a LATCH dependence has an allocation. -/
def State.depBad (s : State) (part : Nat) (latch : Bool) (d : DWord) : Bool :=
  match depKind d with
  | 0 => decide (d ≠ 0)
  | 1 => decide (bits d 22 7 ≠ 0) || decide (depValue d ≠ 0) || (s.queue part (depQueue d)).unassigned (depNumber d)
  | 2 => decide (bits d 21 8 ≠ 0) || !latch
  | 3 =>
    let lv := depLevel d
    decide (bits d 19 10 ≠ 0) || !([2, 3, 4].contains lv) || decide (phaserCount lv ≤ depIndex d)
      || (if lv = 2 then decide ((s.dieSet part).length ≤ depDie d) else depDie d ≠ 0)
  | _ => true

/-- The LAUNCH_BAD checks of a record that reached the head of a queue (R333). -/
def State.recordBad (s : State) (part : Nat) (q : Queue) (r : Record) (latch : Bool) : Bool :=
  r.fieldsBad || (r.ringLog ≠ 0 && decide (r.vault < 64 + 32 * r.ringLen))
    || (r.early && !r.deps.any fun d => depKind d = 1)
    || r.deps.any (s.depBad part latch)
    || decide (q.maxPri < r.priority) || (!r.preemptible && !q.npok)
    || !(PhRange.inside { base := r.dieBase, count := r.dieCnt } (dieRange q.phal))
    || !(PhRange.inside { base := r.pkgBase, count := r.pkgCnt } (pkgRange q.phal))
    || !(PhRange.inside { base := r.podBase, count := r.podCnt } (podRange q.phal))

/-- The number of the entry that a queue is to read next. -/
def Queue.nextNumber (q : Queue) : BitVec 16 := q.tail - BitVec.ofNat 16 q.appended.length

/-- The entries of a queue that are read and not completed, oldest first. -/
def State.entriesOf (s : State) (part queue : Nat) : List Entry :=
  s.entries.filter fun e => e.part = part && e.queue = queue

/-- An entry has placed all its gangs, or is only to complete (R339). -/
def Entry.allPlaced (e : Entry) : Bool :=
  e.status.isSome || (match e.gangs with | some n => decide (n ≤ e.placed) && e.eligibleAt.isSome | none => false)

/-- The lowest die of a partition, whose command processor serves its queues (R343). -/
def State.lowestDie (s : State) (part : Nat) : Nat := (s.dieSet part).headD 0

/-- The record in 256 bytes. -/
def Record.ofBytes (bs : List Byte) : Record := { words := wordsOf 64 bs }

/-- What has become of the ENTRY dependences of a record when it is checked (R340): one more than 4,096 entries behind TAIL is
met, and one whose entry has completed is met or failed. -/
def State.settledNow (s : State) (part : Nat) (r : Record) : List (DWord × Bool) :=
  (r.deps.filter fun d => depKind d = 1).filterMap fun d =>
    let q := s.queue part (depQueue d)
    if q.longPast (depNumber d) then some (d, true)
    else (look q.finished (depNumber d).toNat).map fun st => (d, st = .done)

/-- RECORD_CHECK (R333, R335): the next record of a queue is copied and checked, in a clk after that of its append (R355). A
poisoned one is refused (DEDUCED log 49) (DEDUCED log 66). -/
def execRecordCheck (part queue : Nat) (s : State) : Host.Outcome State Fault Refusal :=
  let q := s.queue part queue
  match q.appended with
  | [] => .next s
  | a :: rest =>
    if !(s.entriesOf part queue).all Entry.allPlaced
        || decide (q.appended.length ≤ (s.launched.filter fun x => x.part = part && x.queue = queue).length) then .next s
    else
      let number := q.nextNumber
      let (s, data, bad) := s.engineRead (s.lowestDie part) (32 * s.lowestDie part) .sys (q.slotPa number) 256
      let r := Record.ofBytes data
      let e : Entry :=
        { id := s.nextId, part := part, queue := queue, number := number.toNat, record := r, level := a.level,
          launcher := a.launcher, root := some q.root, gangs := if r.indirect then none else some (r.word 8).toNat,
          eligibleAt := none, waitingSince := none, placed := 0, retired := 0, messages := 0, notBefore := a.notBefore,
          latchLast := a.latchLast, starved := false, status := none, settled := s.settledNow part r }
      let status : Option Status :=
        if a.killed then some .killed
        else if bad ≠ [] || s.recordBad part q r a.launcher.isSome then some .launchBad
        else if !s.fitsEmpty e then some .noFit
        else none
      let s := s.fresh.setQueue part queue { s.queue part queue with appended := rest }
      .next { s with entries := s.entries ++ [{ e with status := status }] }

/-! ## Dependences (R340, R341) -/

/-- What has become of a dependence. -/
inductive Dep where
  | met | failed | pending
  deriving DecidableEq, Repr

/-- The bytes of the vault of a workgroup, resident or saved. -/
def State.vaultOf (s : State) (wg : Nat) : Option (Sparse Byte) :=
  match s.wg? wg with
  | some g => some g.vault
  | none => ((s.saved.flatMap fun x => x.wgs).find? fun g => g.id = wg).map fun g => g.vault

/-- PHASE of a latch of some vault bytes. -/
def phaseIn (vault : Sparse Byte) (off : Nat) : Word := word (wordsOf 1 (sbytes vault (off + 8) 4)) 0

/-- The latch offset of a LATCH dependence. -/
def depOffset (d : DWord) : Nat := 16 * bits d 0 21

/-- A dependence of an entry, as it stands (R332, R340, R341). -/
def State.depState (s : State) (e : Entry) (d : DWord) : Dep :=
  match depKind d with
  | 0 => .met
  | 1 =>
    match e.settled.find? fun x => x.1 = d with
    | some (_, ok) => if ok then .met else .failed
    | none => if e.record.early && ((s.depEntry e.part d).map fun p => decide (0 < p.placed)).getD false then .met else .pending
  | 2 =>
    match e.launcher.bind s.vaultOf with
    | some v => if phaseIn v (depOffset d) ≠ depValue d then .met else .pending
    | none =>
      match e.latchLast.bind fun l => look l (depOffset d) with
      | some p => if p ≠ depValue d then .met else .failed
      | none => .failed
  | _ =>
    let lv := depLevel d
    let r : PhaserRef :=
      { level := lv, owner := if lv = 2 then (s.dieSet e.part).getD (depDie d) 0 else 0, index := depIndex d }
    let n := ((s.phaser r).phase - depValue d).toNat
    if 1 ≤ n && n ≤ 2 ^ 31 then .met else .pending

/-- The phases of the latches that a record's LATCH dependences name, as they are read last (R340). -/
def lastPhases (r : Record) (vault : Sparse Byte) : List (Nat × Word) :=
  (r.deps.filter fun d => depKind d = 2).map fun d => (depOffset d, phaseIn vault (depOffset d))

/-! ## Eligibility (R339, R342) -/

/-- What the read of an INDIRECT gang count gives: it waits for its walk, it would fault, or the count. -/
inductive Indirect where
  | wait (s : State)
  | bad (s : State)
  | count (s : State) (n : Nat)

/-- The gang count of an INDIRECT entry (R342, R365). -/
def State.indirectCount (s : State) (e : Entry) : Indirect :=
  let die := s.lowestDie e.part
  match s.engineVa { core := 32 * die, for_ := e.id, op := 0 } (e.root.getD 0) e.level .r (e.record.dword 8) with
  | (s, .ok pa _) =>
    if paSpace pa = 1 || paSpace pa = 2 then .bad s
    else
      let (s, data, bad) := s.engineRead die (32 * die) .sys pa 4
      if bad = [] then .count s (leNat data) else .bad s
  | (s, .table pa) => .bad (s.logCheck die (32 * die) 5 0 0 0 pa)
  | (s, .miss) => .wait s
  | (s, _) => .bad s

/-- Set the status with which an entry is to complete. -/
def State.finish (s : State) (e : Entry) (st : Status) : State := s.modEntry e.id fun e => { e with status := some st }

/-- An entry becomes eligible with a gang count (R333, R342). -/
def State.becomeEligible (s : State) (e : Entry) (n : Nat) : State :=
  let e' := { e with gangs := some n, eligibleAt := some s.clk }
  let s := s.setEntry e'
  if n = 0 then s.finish e .done
  else if e.record.indirect && e.record.cosched && !s.fitsEmpty e' then s.finish e .noFit
  else s

/-- Every earlier entry of the queue of an entry has placed all its gangs. -/
def State.reached (s : State) (e : Entry) : Bool :=
  ((s.entriesOf e.part e.queue).takeWhile fun x => x.id ≠ e.id).all Entry.allPlaced

/-- ENTRY_ELIGIBLE (R339, R340, R342): also where a dependence has failed. -/
def execEntryEligible (part queue number : Nat) (s : State) : Host.Outcome State Fault Refusal :=
  match (s.entriesOf part queue).find? fun e => e.number = number with
  | none => .next s
  | some e =>
    let deps := e.record.deps.map (s.depState e)
    if e.status.isSome || e.eligibleAt.isSome then .next s
    else if deps.contains .failed then .next (s.finish e .depFail)
    else if !s.reached e || deps.contains .pending || s.pcc.toNat < e.record.nb.toNat
        || s.pcc.toNat < (e.notBefore.getD 0).toNat then .next s
    else if e.record.indirect then
      match s.indirectCount e with
      | .wait s => .next s
      | .bad s => .next (s.finish e .launchBad)
      | .count s n => .next (if 2 ^ 24 < n then s.finish e .launchBad else s.becomeEligible e n)
    else .next (s.becomeEligible e (e.gangs.getD 0))

/-! ## Kills (R354, R180) -/

/-- A wave stops and is dropped: its phasers are left, its ring operations withdrawn, its pending results
forgotten. -/
def State.dropWave (s : State) (w : Wave) : State :=
  let s := (s.leavePhasers w).cancelRing w
  let s := (w.threads.flatMap fun t => t.pending.map fun p => p.id).foldl (fun s id => s.undrain w.core id) s
  { s with waves := s.waves.filter fun x => x.id ≠ w.id }

/-- A message of an entry. -/
def Message.of (m : Message) (entry : Nat) : Bool := m.entry = some entry

/-- An access in flight that carries a message of an entry. -/
def Work.messageOf (entry : Nat) : Work → Bool
  | .message m _ => m.of entry
  | _ => false

/-- The latches of a workgroup that retires, or is killed while saved, are read a last time for the records that its LAUNCHes appended
(R340). -/
def State.readLatches (s : State) (g : Workgroup) : State :=
  let unread (q : Queue) : Queue :=
    { q with appended := ((List.range q.appended.length).zip q.appended).map fun x =>
        if x.2.launcher = some g.id then
          let r := Record.ofBytes (s.peek (q.slotPa (q.nextNumber + BitVec.ofNat 16 x.1)) 256)
          { x.2 with latchLast := some (lastPhases r g.vault) }
        else x.2 }
  { s with
    entries := s.entries.map fun e =>
      if e.launcher = some g.id then { e with latchLast := some (lastPhases e.record g.vault) } else e
    parts := s.parts.map fun p =>
      (p.1, { p.2 with queues := p.2.queues.map fun q => (q.1, unread q.2) }) }

/-- Every gang of an entry stops, and the entry is to complete with a status (R341, R354): its copies and matrix operations
complete as for a save (DEDUCED log 67). -/
def State.killEntry (s : State) (id : Nat) (st : Status) : State :=
  let wgs := (s.wgs.filter fun g => g.entry = id).map fun g => g.id
  let mine (w : Wave) : Bool := (w.isUser && wgs.contains w.wg) || (match w.kind with | .handler (some e) _ => e = id | _ => false)
  let saved := s.saved.filter fun x => x.gang.entry = id
  let gone := (s.waves.filter mine).map fun w => w.id
  let s := (saved.flatMap fun x => x.wgs).foldl State.readLatches s
  let s := (s.waves.filter mine).foldl State.dropWave s
  let s := (saved.flatMap fun x => x.waves).foldl State.dropWave s
  { s with
    saved := s.saved.filter fun x => x.gang.entry ≠ id
    gangs := s.gangs.map fun g =>
      if g.entry = id then
        { g with killed := true, saving := false, asked := false, reserved := none, held := [], dropped := g.dropped ++ gone }
      else g
    cores := s.cores.map fun c => (c.1, { c.2 with messages := c.2.messages.filter fun m => !m.of id })
    net := s.net.filter fun a => !a.work.messageOf id
    entries := s.entries.map fun e => if e.id = id then { e with status := some st, messages := 0 } else e }

/-! ## Retirement (R172) -/

/-- The waves of a workgroup. -/
def State.wavesOf (s : State) (wg : Nat) : List Wave := s.waves.filter fun w => w.isUser && w.wg = wg

/-- No access of some waves is outstanding: queued, pending, in flight or at a service wave. -/
def State.quiet (s : State) (waves : List Wave) : Bool :=
  let ids := waves.map fun w => w.id
  (waves.all fun w => w.store = [] && w.threads.all fun t => t.pending = [])
    && !(s.net.any fun a => ids.contains a.wave) && !s.svcAny fun r => ids.contains r.wave

/-- No access of dropped waves is in flight or at a service wave (R338). -/
def State.quietIds (s : State) (ids : List Nat) : Bool :=
  !(s.net.any fun a => ids.contains a.wave) && !s.svcAny fun r => ids.contains r.wave

/-- Every copy of a workgroup has ended: none is published and not taken up, and nothing of one is on its way (R130, R172). -/
def Workgroup.copiesDone (g : Workgroup) : Bool :=
  (g.copies.all fun c => c.owed = [] && match c.state with | .waiting | .active => false | _ => true)
    && (g.ringLen = 0 || g.ringWord 0 = g.ringWord 1)

/-- The next copy of the ring waits for a bulk token, which only KNOCK gets, and those behind it wait too (R237). -/
def Workgroup.copyStuck (g : Workgroup) : Bool :=
  match g.copies.find? fun c => c.index = (g.ringWord 1).toNat && c.state = .waiting with
  | some c => c.bulky && (g.tokenFor c).isNone
  | none => false

/-- The engines of a workgroup have completed (R172). -/
def Workgroup.enginesDone (g : Workgroup) : Bool := g.copiesDone && g.ops = [] && g.oloads = []

/-- What the engines of a workgroup have in flight is completed (R32): a copy that waits in the ring for a bulk token, and those
behind it, are not in flight (DESIGN CHOICE log 52). -/
def Workgroup.enginesIdle (g : Workgroup) : Bool :=
  (g.copiesDone || g.copyStuck && g.copies.all fun c => c.owed = [] && c.state ≠ .active) && g.ops = [] && g.oloads = []

/-- A copy of another workgroup into or out of a workgroup's allocation is in flight (R86). -/
def State.copiesAt (s : State) (wg : Nat) : Bool :=
  let at_ (x : CopyEnd) : Bool := match x with | .vault w _ => w = wg | _ => false
  s.wgs.any fun g => g.copies.any fun c =>
    (match c.state with | .waiting => !g.copyStuck | .active => true | _ => false) && (at_ c.src || at_ c.dst)

/-- Held heavy tokens go back to the pools (R271). -/
def State.returnHeld (s : State) (g : Workgroup) : State :=
  let p := s.power
  if (s.gang? g.gang).any fun x => x.owing then s
  else { s with power := { p with collOut := p.collOut - g.coll, drainOut := p.drainOut - g.drain, bulkOut := p.bulkOut - g.bulk } }

/-- A workgroup has nothing left to do (R172), or in a killed gang nothing that still completes (R354). -/
def State.groupDone (s : State) (killed : Bool) (g : Workgroup) : Bool :=
  (s.wavesOf g.id).all Wave.exited && s.quiet (s.wavesOf g.id) && (if killed then g.enginesIdle else g.enginesDone)
    && !s.copiesAt g.id

/-- The workgroups of a gang. -/
def State.members (s : State) (gang : Nat) : List Workgroup := s.wgs.filter fun g => g.gang = gang

/-- Every member of a gang may retire: they retire together (R27). -/
def State.gangDone (s : State) (gang : Nat) : Bool :=
  let x := s.gang? gang
  (s.members gang).all (s.groupDone ((x.map fun y => y.killed).getD false)) && s.quietIds ((x.map fun y => y.dropped).getD [])

/-- A gang retires with its members (R27, R172, R271, R340). -/
def State.retireGang (s : State) (gang entry : Nat) : State :=
  let ids := (s.members gang).map fun g => g.id
  let s := (s.members gang).foldl (fun s g => (s.returnHeld g).readLatches g) s
  ({ s with
    wgs := s.wgs.filter fun g => g.gang ≠ gang
    waves := s.waves.filter fun w => !(w.isUser && ids.contains w.wg)
    gangs := s.gangs.filter fun g => g.id ≠ gang }).modEntry entry fun e => { e with retired := e.retired + 1 }

/-- The save of a gang has begun in an earlier clk (R355). -/
def State.savingBefore (s : State) (gang : Nat) : Bool :=
  ((s.gang? gang).map fun x => x.saving && x.savingAt ≠ s.clk).getD false

/-- WORKGROUP_RETIRE (R27, R172): the members of a gang retire together, once each of them is done (DEDUCED log 83). -/
def execWorkgroupRetire (wg : Nat) (s : State) : Host.Outcome State Fault Refusal :=
  match s.wg? wg with
  | none => .next s
  | some g => .next (if s.savingBefore g.gang || !s.gangDone g.gang then s else s.retireGang g.gang g.entry)

/-! ## Completion (R335, R338) -/

/-- The code of a status. -/
def Status.code : Status → Nat
  | .done => 0
  | .launchBad => 1
  | .noFit => 2
  | .depFail => 3
  | .killed => 4

/-- The status with which an entry may complete now. -/
def State.completion (s : State) (e : Entry) : Option Status :=
  if (s.gangs.any fun g => g.entry = e.id) || s.saved.any fun x => x.gang.entry = e.id then none
  else match e.status with
    | some st => some st
    | none =>
      if e.eligibleAt.isSome && e.gangs = some e.retired && e.placed = e.retired && e.messages = 0 then some .done else none

/-- The completion record is written (R338). -/
def State.writeCompletion (s : State) (part : Nat) (q : Queue) (number : Nat) (st : Status) : State :=
  if q.done = 0 then s
  else
    (s.engineWrite (32 * s.lowestDie part) part .sys none (q.done.toNat + 8 * (number % q.slots)) .adp
      (leBytes 8 (number + 65536 * st.code)) []).1

/-- EARLY consumers of an entry that failed are ended (R341). -/
def State.endConsumers (s : State) (part queue number : Nat) : State :=
  (s.entries.filter fun e => e.part = part && e.record.early && e.eligibleAt.isSome && e.status.isNone
    && e.record.deps.any fun d => depKind d = 1 && depQueue d = queue && (depNumber d).toNat = number).foldl
      (fun s e => s.killEntry e.id .depFail) s

/-- An entry's completion settles the ENTRY dependences that name it (R340). -/
def State.settleDeps (s : State) (part queue number : Nat) (ok : Bool) : State :=
  { s with entries := s.entries.map fun e =>
      if e.part = part then
        { e with settled := e.settled ++ (e.record.deps.filter fun d =>
            depKind d = 1 && depQueue d = queue && (depNumber d).toNat = number && !e.settled.any fun x => x.1 = d).map fun d => (d, ok) }
      else e }

/-- ENTRY_COMPLETE (R335, R338, R404). -/
def execEntryComplete (part queue number : Nat) (s : State) : Host.Outcome State Fault Refusal :=
  match (s.entriesOf part queue).find? fun e => e.number = number with
  | none => .next s
  | some e =>
    match s.completion e with
    | none => .next s
    | some st =>
      let s := s.writeCompletion part (s.queue part queue) number st
      let s := { s with entries := s.entries.filter fun x => x.id ≠ e.id }
      let q := s.queue part queue
      let head := match s.entriesOf part queue with
        | x :: _ => BitVec.ofNat 16 x.number
        | [] => q.nextNumber
      let finished := (number, st) :: q.finished.filter fun x => x.1 ≠ number && !q.longPast (BitVec.ofNat 16 x.1)
      let s := (s.setQueue part queue { q with head := head, finished := finished }).settleDeps part queue number (st = .done)
      let s := { s with system := { s.system with msix := if s.system.ready then s.system.msix ++ [64 * part + queue] else s.system.msix } }
      .next (if st = .done then s else s.endConsumers part queue number)

end Sys2Proof.Machine
end

