-- ==== Sys2Proof/Machine/Preempt.lean ====
section
/-! DEFINITION. Pre-emption (R352-R354): the choice of victims, saving a gang (R381-R383) and restoring it
(R384, R385, R33, R253), and PREQ. -/

namespace Sys2Proof.Machine

open Sys2Proof

/-! ## Context frames (R382, R383) -/

/-- Bytes of a workgroup's frame. -/
def groupFrame (waves blocks slots tiles vault : Nat) (paths : Bool) : Nat :=
  256 + 64 * waves + 32 * waves * (128 + 64) + 1024 * blocks + 32 * 128 + 1024 + 1024 + 1536 + (if paths then 512 else 0)
    + 8192 * slots + 49152 * tiles + vault

/-- Blocks that a wave holds once its waiting requests are granted. -/
def Wave.blocksToBe (w : Wave) : Nat := min 31 (w.growing.foldl (fun n r => n + r.g) w.blocks)

/-- Bytes of a gang's frame. -/
def State.frameSize (s : State) (gang : Nat) (blocks : Wave → Nat) : Nat :=
  256 + 1024 + sumOf (s.wgs.filter fun g => g.gang = gang) fun g =>
    let ws := s.wavesOf g.id
    groupFrame ws.length (sumOf ws blocks) g.nslots g.ntiles g.vaultSize g.hasPaths

/-- The pool of a queue: its first byte and its size. -/
def Queue.pool (q : Queue) : Nat × Nat := (q.ctx.toNat / 65536 * 65536, bits q.ctx 1 15 * 65536)

/-- The queue of an entry. -/
def State.queueOf (s : State) (entry : Nat) : Option (Nat × Nat) := (s.entry? entry).map fun e => (e.part, e.queue)

/-- The frames in use of a queue: those of saved gangs, of gangs whose save has begun, and of gangs whose waves are not ready
again (R382, R384). -/
def State.framesOf (s : State) (part queue : Nat) : List (Nat × Nat) :=
  ((s.saved.filter fun x => s.queueOf x.gang.entry = some (part, queue)).map fun x => (x.frame, x.frameSize))
    ++ (s.gangs.filter fun x => s.queueOf x.entry = some (part, queue)).filterMap fun x => x.reserved

/-- Frames in a queue's pool for gangs of some sizes, in order. -/
def carve (base size : Nat) : List Nat → List (Nat × Nat) → Option (List Nat)
  | [], _ => some []
  | n :: ns, used =>
    match vaultFit n size (used.map fun u => (u.1 - base, u.2)) with
    | none => none
    | some o => (carve base size ns ((base + o, n) :: used)).map fun l => (base + o) :: l

/-- The gangs that are saved with a gang: all of a COSCHED grid (R28, R352). -/
def State.savedWith (s : State) (g : Gang) : List Gang :=
  if ((s.entry? g.entry).map fun e => e.record.cosched).getD false then s.gangs.filter fun x => x.entry = g.entry
  else [g]

/-- The frames that a save of a gang would take, with their sizes, none where they do not fit or saving is off (R382). One has room
for blocks that are granted in the clk in which the save begins (R355). -/
def State.framesFor (s : State) (g : Gang) : Option (List (Nat × Nat)) :=
  match s.queueOf g.entry with
  | none => none
  | some (p, q) =>
    let k := s.queue p q
    if bits k.ctx 1 15 = 0 then none
    else
      let sizes := (s.savedWith g).map fun x => s.frameSize x.id Wave.blocksToBe
      (carve k.pool.1 k.pool.2 sizes (s.framesOf p q)).map fun l => l.zip sizes

/-! ## The bytes of a frame (R383) -/

/-- The bytes of a section with its content, laid out as the part has it (DESIGN CHOICE log 9). -/
def sectionBytes (section_ size : Nat) (content : List Nat) : List Byte :=
  (List.range size).map fun i => Config.frameByte section_ content i

/-- A table by number as a section's content. -/
def tableContent {α : Type} (l : List (Nat × α)) (f : α → List Nat) : List Nat :=
  l.length :: l.flatMap fun p => (p.1 :: (f p.2).length :: f p.2)

/-- An optional number as content. -/
def optContent (x : Option Nat) : List Nat := match x with | some n => [1, n] | none => [0]

/-- The records of phasers: phase, members, modes, signals given. -/
def phaserContent (l : List (Nat × Phaser)) : List Nat :=
  tableContent l fun p => p.phase.toNat :: p.members.flatMap fun m =>
    [m.wave, if m.sig then 1 else 0, if m.wait then 1 else 0, m.joined.toNat, m.next.toNat]

/-- A park's kind and condition. -/
def Park.content (p : Park) : List Nat :=
  let latch (l : LatchRef) : List Nat := [l.wg, l.off]
  let ph (r : PhaserRef) : List Nat := [r.level, r.owner, r.index]
  match p with
  | .sleep d => [0, d]
  | .wsync m => [1, m.toNat]
  | .ltwait l w => 2 :: w.toNat :: latch l
  | .lttry l w dl q d => 3 :: w.toNat :: dl :: q :: latch l ++ optContent d
  | .phwait r w => 4 :: w.toNat :: ph r
  | .phtry r w dl q d => 5 :: w.toNat :: dl :: q :: ph r ++ optContent d
  | .phsig r w d => 6 :: w.toNat :: ph r ++ optContent d
  | .phnext r w g d => 7 :: w.toNat :: (if g then 1 else 0) :: ph r ++ optContent d
  | .xwait n tm nt d => 8 :: n :: tm :: (if nt then 1 else 0) :: optContent d
  | .rgrow g q a d => 9 :: g :: q :: a :: optContent d
  | .ring o => [10, o]
  | .rdfence d => 11 :: optContent d
  | .oclaim m o => [12, m.toNat, o]
  | .ofence l o d => 13 :: l :: o :: optContent d
  | .mwait k d => 14 :: k.toNat :: optContent d
  | .sign cv d => 15 :: cv :: optContent d
  | .knock c n o d => 16 :: c :: n :: o :: optContent d
  | .cwarm va w l i _ d => 17 :: va.toNat :: w :: i :: latch l ++ optContent d
  | .svcrecv d => [18, d]
  | .amsend m => [19, m]

/-- A trap set. -/
def TrapSet.content (x : TrapSet) : List Nat :=
  [x.epc.toNat, if x.inTrap then 1 else 0, x.plev.toNat, if x.imp then 1 else 0, x.code.toNat, x.eval.toNat] ++ x.esav.map BitVec.toNat

/-- A thread record. -/
def Thread.content (t : Thread) : List Nat :=
  [t.pc.toNat, t.level.code, t.preds.toNat, t.pass]
    ++ (match t.run with
      | .running => [0]
      | .parked p len => 1 :: len :: p.content
      | .halted c r => [2, c.toNat, r.toNat]
      | .exited => [3])
    ++ optContent (t.pcc.map BitVec.toNat) ++ t.super.content ++ t.sys.content

/-- A wave record: block count, interval mask, WSYNC mask, pending RGROW counts, halt code. -/
def Wave.content (w : Wave) : List Nat :=
  [w.blocks, w.interval.toNat]
    ++ w.threads.flatMap (fun t => match t.run with | .parked (.wsync m) _ => [m.toNat] | .halted c _ => [c.toNat] | _ => [])
    ++ w.growing.map fun r => r.g

/-- The words of the named registers of a wave's block, lane by lane. -/
def Wave.blockContent (w : Wave) (b : Nat) : List Nat :=
  w.threads.flatMap fun t => (List.range 8).map fun i => (sget 0 t.regs (8 * b + i)).toNat

/-- A ring record: a pending operation with tag, operation, operands, payload and marks. -/
def RingOp.content (o : RingOp) : List Nat :=
  let flag (b : Bool) : Nat := if b then 1 else 0
  [o.wave, o.lane, o.tag.toNat, o.word, flag o.ord]
    ++ match o.kind with
      | .cap p a => [0, flag p, flag a]
      | .rmw k u r l x y pay m => [1, k, flag u, flag r, flag l, x.toNat, y.toNat, m.toNat] ++ pay.map BitVec.toNat
      | .board pay u => 2 :: flag u :: pay.map BitVec.toNat
      | .alight a => [3, flag a]

/-- The workgroup header: grid position, sizes, status and control, tickets, slot states, tokens, pending reports. -/
def State.headerContent (s : State) (g : Workgroup) (ws : List Wave) : List Nat :=
  let flag (b : Bool) : Nat := if b then 1 else 0
  [s.linearWg g, ws.length, g.vaultSize, g.nslots, g.ntiles, flag g.hasPaths, g.issued.toNat, g.done.toNat, g.conflicts,
    g.coll, g.drain, g.bulk, flag g.scopeMiss, flag g.matrixCheck, flag g.impOvf, flag g.dbgHalt]
    ++ ws.map (fun w => w.blocks)
    ++ tableContent g.slots (fun o => [flag o.held, flag o.marked, o.markTicket.toNat])
    ++ g.reports.flatMap fun r => [r.cause.code, r.number, flag r.descent] ++ optContent r.wave

/-- Layout records and convergence registers. -/
def Workgroup.engineContent (g : Workgroup) : List Nat :=
  tableContent g.layouts (fun l => l.map BitVec.toNat)
    ++ tableContent g.cvs fun c => [c.n, c.count] ++ match c.fields with
      | some x => [x.a.toNat, x.b.toNat, x.c.toNat, x.m.toNat] ++ optContent (x.e.map BitVec.toNat)
      | none => []

/-- A buffer record: base, length, kind, state, fill count. -/
def Buffer.content (b : Buffer) : List Nat :=
  [b.base, b.len, if b.latch then 1 else 0,
    match b.state with | .empty => 0 | .filling => 1 | .full => 2 | .draining => 3, b.fill]

/-- The bytes of a workgroup's frame. -/
def State.groupBytes (s : State) (g : Workgroup) : List Byte :=
  let ws := s.wavesOf g.id
  let ids := ws.map fun w => w.id
  let ops := s.ringOps.filter fun o => ids.contains o.wave
  let thread (t : Thread) : List Byte := sectionBytes 2 128 t.content
  let queue (t : Thread) : List Byte := bytesOf (t.queue.map QEntry.word)
  let block (w : Wave) (b : Nat) : List Byte := sectionBytes 3 1024 (w.blockContent b)
  let tile (k : Nat) : List Byte := bytesOf ((List.range (128 * 96)).map fun i => sget 0 (lookD [] g.tiles k) i)
  sectionBytes 0 256 (s.headerContent g ws) ++ ws.flatMap (fun w => sectionBytes 1 64 w.content)
    ++ ws.flatMap (fun w => w.threads.flatMap thread) ++ ws.flatMap (fun w => w.threads.flatMap queue)
    ++ ws.flatMap (fun w => (List.range w.blocks).flatMap (block w))
    ++ sectionBytes 4 4096 (ops.flatMap RingOp.content)
    ++ sectionBytes 5 1024 (tableContent g.buffers Buffer.content) ++ sectionBytes 6 1024 (phaserContent g.phasers)
    ++ sectionBytes 7 1536 g.engineContent
    ++ (if g.hasPaths then bytesOf ((List.range 128).map fun i => sget 0 g.traces i) else [])
    ++ (List.range g.nslots).flatMap (fun k => sbytes (((look g.slots k).map fun o => o.bytes).getD []) 0 8192)
    ++ (List.range g.ntiles).flatMap tile ++ sbytes g.vault 0 g.vaultSize

/-- The bytes of a gang's frame: its header, QUAD phaser records, and its workgroups in member order. -/
def State.frameBytes (s : State) (g : Gang) : List Byte :=
  sectionBytes 8 256 [g.entry, g.index, (s.members g.id).length] ++ sectionBytes 9 1024 (phaserContent g.phasers)
    ++ (s.members g.id).flatMap s.groupBytes

/-! ## Victims (R352, R353) -/

/-- The entry of a gang. -/
def State.entryOfGang (s : State) (g : Gang) : Option Entry := s.entry? g.entry

/-- A gang that a waiting entry may displace (R352, R353): by priority, or by a slice that has run out. -/
def State.mayDisplace (s : State) (e : Entry) (g : Gang) : Bool :=
  match s.entryOfGang g with
  | none => false
  | some x =>
    x.id ≠ e.id && x.part = e.part && x.record.preemptible && !g.saving && !g.killed
      && (decide (x.record.priority < e.record.priority) || (g.expired && decide (x.record.priority ≤ e.record.priority)))

/-- The cores of a gang. -/
def State.coresOf (s : State) (gang : Nat) : List Nat := (s.wgs.filter fun g => g.gang = gang).map fun g => g.core

/-- The waiting entry's gang would fit once some gangs are gone. -/
def State.fitsWithout (s : State) (e : Entry) (gone : Gang → Bool) : Bool := (s.withoutGangs gone).entryFits e

/-- A victim stands on cores that the waiting gang could use once they are freed (R353): on a core set where it
would fit with every gang that may be displaced gone. -/
def State.useful (s : State) (e : Entry) (g : Gang) : Bool :=
  match s.nextGang e with
  | none => false
  | some k =>
    let d := k.demand e.record
    let s' := s.withoutGangs fun x => x.saving || s.mayDisplace e x
    ((s.dieSet e.part).flatMap fun die => coreSets die d.members.length).any fun b =>
      s'.fitsAt b d && (s.coresOf g.id).any fun c => decide (b ≤ c ∧ c < b + d.members.length)

/-- Victim `a` is taken before victim `b` (R353). -/
def State.victimBefore (s : State) (e : Entry) (a b : Gang) : Bool :=
  let pr (g : Gang) : Nat := ((s.entryOfGang g).map fun x => x.record.priority).getD 0
  if s.useful e a ≠ s.useful e b then s.useful e a
  else if pr a ≠ pr b then decide (pr a < pr b)
  else decide (a.placedAt < b.placedAt)

/-- The next victim for a waiting entry, among those that have not already been found too large for their pool
(R353, R382). -/
def State.victim (s : State) (e : Entry) (skip : Gang → Bool) : Option Gang :=
  if s.fitsWithout e fun g => g.saving then none
  else
    (s.gangs.filter fun g => s.mayDisplace e g && !skip g).foldl (fun best g => match best with
      | none => some g
      | some b => if s.victimBefore e g b then some g else some b) none

/-- Entries that wait with a gang that does not fit. -/
def State.waitingEntries (s : State) : List Entry := s.entries.filter fun e => s.candidate e && !s.entryFits e

/-- A gang is the next victim for some waiting entry, or PREQ asks for it. -/
def State.chosen (s : State) (g : Gang) : Bool :=
  g.asked || s.waitingEntries.any fun e =>
    (s.victim e fun x => x.id ≠ g.id && (s.framesFor x).isNone).any fun v => v.id = g.id

/-- The clocks of a slice; 0 where slicing is off (R337). -/
def State.sliceOf (s : State) (g : Gang) : Nat :=
  match s.queueOf g.entry with
  | some (p, q) => (s.queue p q).slice.toNat * 1024
  | none => 0

/-- SLICE_EXPIRY (R352). -/
def execSliceExpiry (gang : Nat) (s : State) : Host.Outcome State Fault Refusal :=
  match s.gang? gang with
  | none => .next s
  | some g =>
    .next (if s.sliceOf g ≠ 0 && s.sliceOf g ≤ s.clk - g.placedAt then s.setGang { g with expired := true } else s)

/-! ## Saving (R381) -/

/-- Everything of a gang is drained: its threads, store queues, accesses, engines with what they have sent, and placements (R32,
R86, R135, R381). A copy that waits in the ring for a bulk token is not in flight: it is saved as it stands (DESIGN CHOICE log
52). -/
def State.drained (s : State) (g : Gang) : Bool :=
  let wgs := s.wgs.filter fun x => x.gang = g.id
  wgs.all fun x =>
    let ws := s.wavesOf x.id
    s.quiet ws && (ws.all fun w => w.threads.all fun t => t.due.isNone) && x.enginesIdle && !s.copiesAt x.id
      && !s.placements.any fun p => match p.what with
        | .vault e k _ _ _ => e = x.entry && k = s.linearWg x
        | _ => false

/-- A gang leaves its cores for the frame reserved for it (R253, R271, R381, R382). -/
def State.saveGang (s : State) (g : Gang) : State :=
  let frame := (g.reserved.getD (0, 0)).1
  let wgs := s.wgs.filter fun x => x.gang = g.id
  let ids := wgs.map fun x => x.id
  let waves := s.waves.filter fun w => w.isUser && ids.contains w.wg
  let wids := waves.map fun w => w.id
  let x : SavedGang :=
    { gang := { g with saving := false, owing := false, asked := false, expired := false, reserved := none }, wgs := wgs, waves := waves,
      ringOps := s.ringOps.filter fun o => wids.contains o.wave, frame := frame, frameSize := s.frameSize g.id fun w => w.blocks }
  let s := (s.engineWrite g.base (s.partOf (dieOf g.base)) .sys none frame .adp (s.frameBytes g) []).1
  let s := wgs.foldl State.returnHeld s
  { s with
    saved := s.saved ++ [x]
    gangs := s.gangs.filter fun y => y.id ≠ g.id
    wgs := s.wgs.filter fun y => y.gang ≠ g.id
    waves := s.waves.filter fun w => !wids.contains w.id
    ringOps := s.ringOps.filter fun o => !wids.contains o.wave }

/-- A save of a gang begins, its frame reserved (R381), or its pool is marked full (R382). -/
def State.beginSave (s : State) (g : Gang) : State :=
  match s.framesFor g with
  | some fs =>
    let l := ((s.savedWith g).map fun x => x.id).zip fs
    { s with gangs := s.gangs.map fun x => match look l x.id with
        | some f => { x with saving := true, savingAt := s.clk, reserved := some f }
        | none => x }
  | none =>
    match s.queueOf g.entry with
    | some (p, q) => s.setQueue p q { s.queue p q with ctxFull := true }
    | none => s

/-- GANG_SAVE (R352, R353, R381): a chosen gang begins to be saved, and in a later clk is saved once it is drained. One that may
retire retires (R355). -/
def execGangSave (gang : Nat) (s : State) : Host.Outcome State Fault Refusal :=
  match s.gang? gang with
  | none => .next s
  | some g =>
    if g.killed || (s.gangDone gang && !s.savingBefore gang) then .next s
    else if g.saving then
      let gs := s.savedWith g
      .next (if g.savingAt = s.clk || !gs.all s.drained then s else gs.foldl State.saveGang s)
    else if s.chosen g then .next (s.beginSave g)
    else .next s

/-! ## Restoring (R384) -/

/-- The pool grants the heavy tokens that a saved gang held (R271). -/
def State.grantHeld (s : State) (wgs : List Workgroup) : Option State :=
  let p := s.power
  let c := p.collOut + sumOf wgs fun g => g.coll
  let d := p.drainOut + sumOf wgs fun g => g.drain
  let b := p.bulkOut + sumOf wgs fun g => g.bulk
  let ok (held out limit : Nat) : Bool := held = 0 || (decide (out ≤ limit) && !p.stopped)
  if ok (sumOf wgs fun g => g.coll) c p.collLimit && ok (sumOf wgs fun g => g.drain) d p.drainLimit
      && ok (sumOf wgs fun g => g.bulk) b p.bulkLimit then
    some { s with power := { p with collOut := c, drainOut := d, bulkOut := b } }
  else none

/-- A withdrawn ring operation is reissued at its wave's station (R253). -/
def State.reissue (s : State) (o : RingOp) : State :=
  match s.wave? o.wave with
  | none => s
  | some w =>
    let probing := match o.kind with | .board _ u => u | _ => false
    { s with ringOps := s.ringOps ++ [{ o with core := w.core, issuedAt := s.clk, eligible := none, probing := probing }] }

/-- A gang that is restored and not granted its tokens is granted them, if the pool can; its ring operations are then reissued,
its waves are ready, and its frame is free (R384). -/
def State.payGang (s : State) (g : Gang) : State :=
  if g.owing then
    match s.grantHeld (s.members g.id) with
    | some s => g.held.foldl State.reissue (s.setGang { g with owing := false, reserved := none, held := [] })
    | none => s
  else s

/-- A saved gang is restored on the core set at `base`; its waves wait for its heavy tokens (R384) (DESIGN CHOICE log 52). -/
def State.restoreGang (s : State) (x : SavedGang) (base : Nat) : State :=
  (s.occupy x base).payGang (x.back base s.clk)

/-- Restore gangs one after another, or none of them (R28). -/
def State.restoreAll (s : State) (e : Entry) : List SavedGang → Option State
  | [] => some s
  | x :: xs =>
    match s.chooseSet e (.saved x) with
    | none => none
    | some b => State.restoreAll (s.restoreGang x b) e xs

/-- GANG_RESTORE (R343, R384): the waves of restored gangs become ready as the pool grants their tokens, and
the arbiter's next saved gang is placed. -/
def execGangRestore (part : Nat) (s : State) : Host.Outcome State Fault Refusal :=
  let s := s.gangs.foldl State.payGang s
  match s.arbitrate part with
  | none => .next s
  | some e =>
    match s.nextGang e with
    | some (.saved x) =>
      .next ((s.restoreAll e (if e.record.cosched then s.savedOf e.id else [x])).getD s)
    | _ => .next s

/-! ## PREQ (R354) -/

/-- A number is among the busy entries of a queue: appended, and not completed (R335). -/
def State.queueHolds (s : State) (part queue : Nat) (n : BitVec 16) : Bool :=
  let q := s.queue part queue
  decide ((n - q.head).toNat < q.used)
    && (decide ((n - q.nextNumber).toNat < q.appended.length) || (s.entriesOf part queue).any fun e => e.number = n.toNat)

/-- Set the result that a read of PREQ returns. -/
def State.preqDone (s : State) (part result : Nat) : State :=
  s.setPartition part { s.partition part with preqResult := result }

/-- PREEMPTIBLE of an entry of a queue, read from the ring slot where the record is not yet copied. -/
def State.preemptibleOf (s : State) (part queue number : Nat) : Bool :=
  match (s.entriesOf part queue).find? fun e => e.number = number with
  | some e => e.record.preemptible
  | none =>
    let q := s.queue part queue
    (Record.ofBytes (s.peek (q.slotPa (BitVec.ofNat 16 number)) 256)).preemptible

/-- PREQ_SAVE (R354). -/
def execPreqSave (part queue number : Nat) (s : State) : Host.Outcome State Fault Refusal :=
  if !s.queueThere part queue then .next s
  else if !s.queueHolds part queue (BitVec.ofNat 16 number) then .next (s.preqDone part 3)
  else if !s.preemptibleOf part queue number then .next (s.preqDone part 2)
  else
    let s := s.preqDone part 1
    match (s.entriesOf part queue).find? fun e => e.number = number with
    | none => .next s
    | some e =>
      .next { s with gangs := s.gangs.map fun g =>
        if g.entry = e.id && !g.saving && !g.killed then { g with asked := true } else g }

/-- The entry is done, or its last gangs may retire in this clk: it completes DONE (R355). -/
def State.lastRetires (s : State) (e : Entry) : Bool :=
  let t := (s.gangs.filter fun g => g.entry = e.id && !s.savingBefore g.id && s.gangDone g.id).foldl (fun s g => s.retireGang g.id e.id) s
  match t.entry? e.id with
  | some x => t.completion x = some .done
  | none => false

/-- An entry of a queue is killed: a record not yet read is marked (R354). -/
def State.kill (s : State) (part queue number : Nat) : State :=
  match (s.entriesOf part queue).find? fun e => e.number = number with
  | some e => if e.status.isSome || s.lastRetires e then s else s.killEntry e.id .killed
  | none =>
    let q := s.queue part queue
    s.setQueue part queue { q with appended := ((List.range q.appended.length).zip q.appended).map fun x =>
      if q.nextNumber + BitVec.ofNat 16 x.1 = BitVec.ofNat 16 number then { x.2 with killed := true } else x.2 }

/-- PREQ_KILL (R354). -/
def execPreqKill (part queue number : Nat) (s : State) : Host.Outcome State Fault Refusal :=
  if !s.queueThere part queue then .next s
  else if !s.queueHolds part queue (BitVec.ofNat 16 number) then .next (s.preqDone part 3)
  else .next ((s.preqDone part 1).kill part queue number)

end Sys2Proof.Machine
end

