-- ==== Sys2Proof/Machine/Service.lean ====
section
/-! DEFINITION. Atomics and reductions at their service waves (R29, R30, R100, R129, R206, R217), active messages
and their handlers (R31, R179, R180). -/

namespace Sys2Proof.Machine

open Sys2Proof

/-! ## The operation (R217) -/

/-- One half of FADD.BF16X2. -/
def addHalf (a b : Nat) : Nat := bf16.encode .rne false 0 ((bf16.decode a).add false (bf16.decode b))

/-- The signed or unsigned order of two operands of a width. -/
def svcLess (signed wide : Bool) (a b : DWord) : Bool :=
  if !signed then decide (a.toNat < b.toNat)
  else if wide then decide (a.toInt < b.toInt)
  else decide ((loWord a).toInt < (loWord b).toInt)

/-- The new value that a request makes of an old one (R217), before it is cut to its width. -/
def SvcReq.apply (r : SvcReq) (old : DWord) : DWord :=
  let b := r.operand
  match r.op with
  | 0 => old + b
  | 1 => if svcLess r.signed r.wide b old then b else old
  | 2 => if svcLess r.signed r.wide old b then b else old
  | 3 => old &&& b
  | 4 => old ||| b
  | 5 => old ^^^ b
  | 6 => b
  | 7 => if old = r.compare then b else old
  | 8 => (fadd32 (loWord old) (loWord b)).zeroExtend 64
  | _ =>
    let x := loWord old
    let y := loWord b
    BitVec.ofNat 64 (addHalf (bits x 0 16) (bits y 0 16) + addHalf (bits x 16 16) (bits y 16 16) * 2 ^ 16)

/-- The operation writes: an unequal CAS does not. -/
def SvcReq.writes (r : SvcReq) (old : DWord) : Bool := r.op ≠ 7 || old = r.compare

/-- Bytes of a request's operand. -/
def SvcReq.size (r : SvcReq) : Nat := if r.wide then 8 else 4

/-! ## Replies (R50, R104, R206) -/

/-- The pending result that waits for a request. -/
def State.svcPending (s : State) (r : SvcReq) : Option (Wave × Pending) :=
  (s.wave? r.wave).bind fun w => ((w.threads[r.lane]?).bind fun t => t.pending.find? fun p => p.id = r.id).map fun p => (w, p)

/-- A result goes back to the requester: its words, or POISON; to a peer with the release record of its word (R123). -/
def State.svcReply (s : State) (r : SvcReq) (v : DWord) (poison : Bool) (recs : RelRecords := []) : State :=
  match r.reply with
  | some (pkg, part, tag) =>
    (s.sendPod pkg part r.route { core := r.core, home := s.home r.pa, lane := minLane r.pa }
      (.reply tag (if poison then [] else leBytes r.size v.toNat) [] recs)).1
  | none =>
    match s.svcPending r with
    | none => s
    | some (w, p) =>
      if poison then s.poisonPending w r.lane p (granuleVa r.va) r.pa
      else s.modThread w.id r.lane fun t => t.fill r.id (if r.wide then [loWord v, hiWord v] else [loWord v])

/-! ## The service wave's firmware (DESIGN CHOICE log 8) -/

/-- The agent of a request (R116). -/
def State.svcOrigin (s : State) (r : SvcReq) : Origin :=
  match r.origin, s.wave? r.wave with
  | some o, _ => o
  | none, some w => s.originOf w
  | none, none =>
    { pkg := s.system.pkgid, wg := r.wave, gang := 0, die := dieOf r.core, part := s.partOf (dieOf r.core),
      job := (s.partition (s.partOf (dieOf r.core))).job }

/-- What an atomic writes: a release replaces the record of its word, and any other keeps it (R123). -/
def State.svcWrite (s : State) (r : SvcReq) (new : DWord) : State :=
  let data := leBytes r.size new.toNat
  match r.scope with
  | some sc => s.poke r.core r.pa data (some (sc, s.svcOrigin r))
  | none => { s.poke r.core r.pa data none with releases := s.releases }

/-- A request is performed as one read and write (R104, R105, R123, R129, R217); one that returns a value acquires. -/
def State.performSvc (s : State) (r : SvcReq) : State :=
  let n := r.size
  if poisonedIn s.poison r.pa n then
    if r.ret then s.svcReply r 0 true else s.logCheck (s.home r.pa) r.core 4 0 0 0 r.pa
  else
    let s := (s.invalidate r.pa n).readDone r.pa n
    let old : DWord := BitVec.ofNat 64 (leNat (s.peek r.pa n))
    let recs := recordsOf s.releases (words8 r.pa n)
    let s := match r.scope with
      | some sc => if r.ret && r.reply.isNone then s.acquired recs sc (s.svcOrigin r) else s
      | none => s
    let s := if r.writes old then s.svcWrite r (r.apply old) else s
    if r.ret then s.svcReply r old false recs else s

/-- The service wave of a quad serves its oldest request. -/
def State.serve (s : State) (quad : Nat) : State :=
  let v := s.service quad
  match v.queue with
  | [] => s
  | r :: rs => (s.setService quad { v with queue := rs }).performSvc r

/-- Entries of a request queue (R29). -/
def requestQueue : Nat := 256

/-- The oldest request at a quad's router enters its queue where there is room (R30). -/
def State.enterRequest (s : State) (quad : Nat) : State :=
  let v := s.service quad
  match v.waiting with
  | [] => s
  | r :: rs => if v.queue.length < requestQueue then s.setService quad { v with queue := v.queue ++ [r], waiting := rs } else s

/-- SERVICE_REQUEST_ARRIVE (R29, R30). -/
def execServiceRequestArrive (die quad : Nat) (s : State) : Host.Outcome State Fault Refusal :=
  .next (if die < 8 && quad < 8 then s.enterRequest (8 * die + quad) else s)

/-! ## SVCRECV and SVCREPLY (R206) -/

/-- The eight words of a request. -/
def SvcReq.words (r : SvcReq) (pkg : Nat) : List Word :=
  [BitVec.ofNat 32 (r.id % 65536 * 65536 + (if r.ret then 64 else 0) + (if r.signed then 32 else 0) + (if r.wide then 16 else 0) + r.op),
    BitVec.ofNat 32 r.pa, BitVec.ofNat 32 (r.pa / 2 ^ 32), loWord r.operand, hiWord r.operand, loWord r.compare, hiWord r.compare,
    BitVec.ofNat 32 (r.lane % 32 * 2 ^ 13 + ((r.reply.map fun x => x.1).getD pkg) % 32 * 2 ^ 8 + dieOf r.core % 8 * 2 ^ 5 + r.core % 32)]

/-- SVCRECV (R206): the thread parks until its quad's queue holds a request. -/
def execSvcrecv (f : Fields) (s : State) : Host.Outcome State Fault Refusal :=
  execLanes .sys (shapeSvcrecv f) f (fun t => t.off (shapeSvcrecv f) f) (fun s w _ t =>
    match w.kind, f.d.reg with
    | .service, some k => if k % 8 = 0 then .done s (t.park (.svcrecv k) f) else .fault .illegal 7
    | _, _ => .fault .illegal 7) s

/-- A thread parked in SVCRECV takes the oldest request of its quad (R206). -/
def State.takeRequest (s : State) (w : Wave) (lane : Nat) (t : Thread) : State :=
  let quad := quadOf w.core
  let v := s.service quad
  match t.run, v.queue with
  | .parked (.svcrecv k) len, r :: rs =>
    let taken := if r.ret then v.taken ++ [r] else v.taken
    (s.setService quad { v with queue := rs, taken := taken }).setThread w.id lane
      (({ t.lateD (some k) (r.words s.system.pkgid) with run := .running }).advance len)
  | _, _ => s

/-- SVCREPLY (R206). A tag that names no request taken has no return slot: nothing is delivered. -/
def execSvcreply (f : Fields) (s : State) : Host.Outcome State Fault Refusal :=
  execLanes .sys (shapeSvcreply f) f (fun t => t.off (shapeSvcreply f) f) (fun s w lane t =>
    match w.kind with
    | .service =>
      let quad := quadOf w.core
      let v := s.service quad
      let tag := bits (read32 s w lane t f f.a) 0 16
      let t := t.advance f.form.len
      match v.taken.find? fun r => r.id % 65536 = tag with
      | none => .done s t
      | some r =>
        let s := s.setService quad { v with taken := v.taken.filter fun x => x.id ≠ r.id }
        .done (s.svcReply r (read64 s w lane t f f.b) (bit f.m 0)) t
    | _ => .fault .illegal 7) s

/-! ## Active messages (R31, R179, R180) -/

/-- Packets of a core's message queue (R31). -/
def messageQueue : Nat := 16

/-- A message enters its core's queue; none where it is full. One from another package that no job binding
serves is discarded (R180). -/
def State.receiveMessage (s : State) (m : Message) : Option State :=
  let part := s.partOf (dieOf m.core)
  if m.srcPkg ≠ s.system.pkgid && ((s.partition part).job.map fun j => j.packages.contains m.srcPkg) ≠ some true then
    some (s.logCheck (dieOf m.core) m.core 9 0 0 0 0)
  else
    let c := s.core m.core
    if messageQueue ≤ c.messages.length then none
    else some (s.setCore m.core { c with messages := c.messages ++ [m] })

/-- The sender of a message that was stalled goes on. -/
def Thread.messageSent (t : Thread) (id : Nat) : Thread :=
  match t.run with
  | .parked (.amsend k) _ => if k = id then { t with run := .running } else t
  | _ => t

/-- The sender of a message that met a full queue stalls (R31). -/
def Thread.messageStalled (t : Thread) (id : Nat) : Thread :=
  match t.run with
  | .running => { t with run := .parked (.amsend id) 0 }
  | _ => t

/-- An active message for another package as it travels. -/
def Message.remote (m : Message) (queue number : Nat) : ActiveMessage :=
  { die := dieOf m.core, core := m.core % 32, entry := m.handler, payload := m.payload, notBefore := m.notBefore,
    srcPkg := m.srcPkg, part := m.part, queue := queue, number := number }

/-- An access in flight is carried to a peer by a pod packet. -/
def State.carried (s : State) (id packet : Nat) : State :=
  { s with net := s.net.map fun a => if a.id = id then { a with sent := some packet } else a }

/-- ACTIVE_MESSAGE_ARRIVE (R31, R179): at the receiving core, or on its way to another package. -/
def execActiveMessageArrive (id : Nat) (s : State) : Host.Outcome State Fault Refusal :=
  match s.net.find? fun a => a.id = id with
  | none => .next s
  | some a =>
    match a.work with
    | .message m route =>
      if a.sent.isSome || !s.pathClear a then .next s
      else if m.pkg ≠ s.system.pkgid then
        let e := m.entry.bind s.entry?
        let (s, k) := s.sendPod m.pkg m.part route { core := a.core, home := dieOf m.core, lane := 0 }
          (.message (m.remote ((e.map fun e => e.queue).getD 0) ((e.map fun e => e.number).getD 0)))
        .next (s.carried id k)
      else
        match s.receiveMessage m with
        | some s => .next ((s.landed id).modThread m.wave m.lane fun t => t.messageSent m.id)
        | none => .next (s.modThread m.wave m.lane fun t => t.messageStalled m.id)
    | _ => .next s

/-- The handler wave's slot and blocks (R23, R24). -/
def handlerSlot : Nat := 63
def handlerBlocks : Nat := 8

/-- A handler of a message, as it starts (R31, R179). -/
def handlerWave (id clk : Nat) (m : Message) : Wave :=
  let w := Wave.start id m.core handlerSlot (.handler m.entry m.part) id 0 handlerBlocks m.handler .user clk
  { w with threads := w.threads.map fun t => t.setRegs 0 m.payload }

/-- HANDLER_START (R31, R179) (DEDUCED log 69). -/
def execHandlerStart (die core : Nat) (s : State) : Host.Outcome State Fault Refusal :=
  let k := 32 * die + core
  let c := s.core k
  match c.messages with
  | [] => .next s
  | m :: ms =>
    if s.waves.any (fun w => w.core = k && w.slot = handlerSlot) || s.pcc.toNat < (m.notBefore.getD 0).toNat then .next s
    else
      let part := s.partOf (dieOf k)
      let m := if m.srcPkg = s.system.pkgid then m else { m with entry := none, part := part }
      .next { (s.setCore k { c with messages := ms }).fresh with waves := s.waves ++ [handlerWave s.nextId s.clk m] }

end Sys2Proof.Machine
end

