-- ==== Sys2Proof/Machine/WaveEvents.lean ====
section
/-! DEFINITION. The events of waves and of the memory next to them: results (R50), register blocks (R52),
interval sets (R46), store queues (R114), LLC lines (R97, R107), and the ends of timed waits (R174, R224, R241). -/

namespace Sys2Proof.Machine

open Sys2Proof

/-- The waves in a slot of a core, one that has exited with work left among them. -/
def State.wavesAt (s : State) (core slot : Nat) : List Wave := s.waves.filter fun w => w.core = core && w.slot = slot

/-! ## Results (R50, R53) -/

/-- The words that a snapshot instruction reads when its result arrives (R221, R236); AREAD and PTREAD, where no value is
defined, read an old one, that of now, or zero (R6, R131). -/
def State.snapshot (s : State) (w : Wave) (a : Access) : Option (List Word) :=
  match a with
  | .aread tile i j old =>
    some (match s.ownGroup w with | some g => openWords s.draws old (g.tileRun tile i j old.length) | none => old)
  | .ptread i old =>
    some (match s.ownGroup w with | some g => [openWord s.draws old (sget 0 g.traces i)] | none => [old])
  | .bufqB n => some (bufferStatus ((s.ownGroup w).bind fun g => look g.buffers n))
  | .bufqL l => some [s.latchWord l 1, s.latchPhase l]
  | .xstat n => some [((s.ownGroup w).map fun g => g.xstatWord n).getD 0]
  | .cwstat k _ _ => some (s.window k).status
  | _ => none

/-- A result is written to its queue entries and registers, and blocks that waited for it are free. -/
def State.deliver (s : State) (w : Wave) (lane : Nat) (p : Pending) (ws : List Word) : State :=
  (s.modThread w.id lane fun t => t.deliver p ws).undrain w.core p.id

/-- The qualifying predicate of a long-latency instruction is true in a thread (R49, R51). -/
def Thread.longLatency (t : Thread) (i : Instr) : Bool :=
  match i with
  | .ldv f | .ld f | .ldl f | .atom f | .bufq f | .xstat f | .ptread f | .aread f | .cwstat f => t.qual f
  | _ => false

/-- A thread with eight pending results stands at a long-latency instruction, which waits for one of them (R51). -/
def State.ninth (s : State) (w : Wave) (t : Thread) : Bool :=
  t.pendFull && match s.fetchAt w t.level (s.skipPads w t.level 8 t.pc) with
    | .ok i => t.longLatency i
    | _ => false

/-- A result stays pending for the instructions of its window (R50, DEDUCED log 31): it is written once the window has
closed, or the thread issues none of them for now, or a ninth waits for it. -/
def State.mayWrite (s : State) (w : Wave) (lane : Nat) (p : Pending) : Bool :=
  p.left = 0 || s.waveSaving w ||
    match w.threads[lane]? with
    | some t => t.due.isSome || s.ninth w t || match t.run with
      | .running | .parked _ _ => false
      | _ => true
    | none => true

/-- A result has arrived: it is written, or kept until its window has closed. -/
def State.arriveResult (s : State) (w : Wave) (lane : Nat) (p : Pending) (ws : List Word) : State :=
  if s.mayWrite w lane p then s.deliver w lane p ws
  else (s.modThread w.id lane fun t => t.fill p.id ws).undrain w.core p.id

/-- A pending instruction faults after all, precisely (R300). -/
def State.pendingFault (s : State) (w : Wave) (lane : Nat) (p : Pending) (c : Cause) (eval : DWord) : State :=
  (s.modThread w.id lane fun t =>
    ({ t.unpend p with pc := p.pc }).raise { cause := c, epc := p.pc, eval := eval, imp := false, toSys := false, seq := p.seq }).undrain
      w.core p.id

/-- A read that its core performs in program order: performed, then delivered. -/
def State.deliverRead (s : State) (w : Wave) (lane : Nat) (p : Pending) : State :=
  match s.performReads w.id (w.readsBefore p.seq lane) with
  | none => (s.fetchBefore w p.seq lane).fetchFor w p.access
  | some s1 =>
    match s1.performRead w lane p with
    | .value s2 ws => s2.arriveResult w lane p ws
    | .poison eval pa => (s1.poisonPending w lane p eval pa).undrain w.core p.id
    | .wait => s.fetchFor w p.access

/-- LONG_LATENCY_RESULT (R50). -/
def execLongLatencyResult (die core slot lane id : Nat) (s : State) : Host.Outcome State Fault Refusal :=
  let find (w : Wave) : Option (Wave × Pending) :=
    ((w.threads[lane]?).bind fun t => t.pending.find? fun p => p.id = id).map fun p => (w, p)
  match (s.wavesAt (32 * die + core) slot).findSome? find with
  | none => .next s
  | some (w, p) =>
    match p.value with
    | some ws => .next (s.arriveResult w lane p ws)
    | none =>
      match p.access with
      | .cwstat k va _ =>
        if s.mayArm (s.partOfWave w) (s.window k) then .next (s.arriveResult w lane p (s.window k).status)
        else .next (s.pendingFault w lane p .permission va)
      | a =>
        match s.snapshot w a with
        | some ws => .next ((s.drawnBy ws.length).arriveResult w lane p ws)
        | none => .next (if p.inOrder && !p.access.readsDirect then s.deliverRead w lane p else s)

/-! ## Blocks and interval sets -/

/-- RGROW_GRANT (R52). -/
def execRgrowGrant (die core : Nat) (s : State) : Host.Outcome State Fault Refusal :=
  .next (State.grantBlocks (32 * die + core) 64 s)

/-- INTERVAL_RELOAD (R46). -/
def execIntervalReload (die core slot : Nat) (s : State) : Host.Outcome State Fault Refusal :=
  .next { s with waves := s.waves.map fun w =>
    if w.core = 32 * die + core && w.slot = slot then { w with resident := true } else w }

/-! ## Store queues -/

/-- STORE_QUEUE_DRAIN (R114): of the wave in a slot, also one that has exited. -/
def execStoreQueueDrain (die core slot : Nat) (s : State) : Host.Outcome State Fault Refusal :=
  match (s.wavesAt (32 * die + core) slot).find? fun w => w.store ≠ [] with
  | none => .next s
  | some w => .next ((s.drainHead (32 * die + core) slot w).getD s)

/-! ## The LLC -/

/-- CACHE_FILL (R107). A peer's line is filled by the reply to the request for it. -/
def execCacheFill (die line : Nat) (s : State) : Host.Outcome State Fault Refusal :=
  let d := s.die die
  match look d.lines line with
  | none => .next s
  | some l => .next (if l.asked.isSome then s else s.setDie die { d with lines := put d.lines line { l with filling := false } })

/-- DIRECTORY_RECALL (R97): a copy that holds its fill is written back and dropped. -/
def execDirectoryRecall (die line : Nat) (s : State) : Host.Outcome State Fault Refusal :=
  match look (s.die die).lines line with
  | some l => .next (if l.filling then s else s.dropLine die line)
  | none => .next s

/-! ## Ends of timed waits -/

/-- The thread of a lane in a slot. -/
def State.threadAt (s : State) (die core slot lane : Nat) : Option (Wave × Thread) :=
  (s.waveAt (32 * die + core) slot).bind fun w => (w.threads[lane]?).map fun t => (w, t)

/-- SLEEP_WAKE (R174). -/
def execSleepWake (die core slot lane : Nat) (s : State) : Host.Outcome State Fault Refusal :=
  match s.threadAt die core slot lane with
  | none => .next s
  | some (w, t) =>
    match t.run with
    | .parked (.sleep deadline) len =>
      .next (if deadline ≤ s.pcc.toNat then s.setThread w.id lane ({ t with run := .running }.advance len) else s)
    | _ => .next s

/-- LTTRY_TIMEOUT (R224). -/
def execLttryTimeout (die core slot lane : Nat) (s : State) : Host.Outcome State Fault Refusal :=
  match s.threadAt die core slot lane with
  | none => .next s
  | some (w, t) =>
    match t.run with
    | .parked (.lttry _ _ deadline pred d) len =>
      .next (if deadline ≤ s.clk then s.setThread w.id lane (t.tried len pred d false) else s)
    | _ => .next s

/-- PHTRY_TIMEOUT (R241). -/
def execPhtryTimeout (die core slot lane : Nat) (s : State) : Host.Outcome State Fault Refusal :=
  match s.threadAt die core slot lane with
  | none => .next s
  | some (w, t) =>
    match t.run with
    | .parked (.phtry _ _ deadline pred d) len =>
      .next (if deadline ≤ s.clk then s.setThread w.id lane (t.tried len pred d false) else s)
    | _ => .next s

end Sys2Proof.Machine
end

