-- ==== Sys2Proof/Machine/Shootdowns.lean ====
section
/-! DEFINITION. Page walks as they end (R362, R364, R365), TLBINV and its shoot-down (R203, R366-R368). -/

namespace Sys2Proof.Machine

open Sys2Proof

/-! ## Walks (R365) -/

/-- Sizes of the die TLB and the walk cache (R364). -/
def dieTlbSize : Nat := 8192
def walkCacheSize : Nat := 256

/-- The pointers on a path as walk-cache entries. -/
def ptrEntries (tag : Nat) (va : DWord) (path : List (Nat × DWord)) : List PtrEntry :=
  path.map fun p => { tag := tagOf tag va, level := p.1, va := va.toNat / 2 ^ leafShift p.1, ptr := p.2 }

/-- A walk cache with entries installed; the oldest leave a full one (DESIGN CHOICE log 13). -/
def installPtrs (ptrs new : List PtrEntry) : List PtrEntry :=
  (new ++ ptrs.filter fun p => !new.contains p).take walkCacheSize

/-- A walk leaves its die's queue, and is counted. -/
def State.endWalk (s : State) (die : Nat) (k : Walk) : State :=
  let d := s.die die
  s.setDie die { d with walks := d.walks.filter fun x => x ≠ k, walkcnt := d.walkcnt + 1 }

/-- A leaf is installed in the die TLB and in the TLBs of the cores that asked (R365). -/
def State.installLeaf (s : State) (die : Nat) (k : Walk) (e : TlbEntry) (ps : List PtrEntry) : State :=
  let d := s.die die
  let s := s.setDie die { d with tlb := installTlb dieTlbSize d.tlb e, ptrs := installPtrs d.ptrs ps }
  ((k.waiters.filter fun x => !x.engine).map fun x => x.core).eraseDups.foldl (fun s c =>
    let k := s.core c
    s.setCore c { k with tlb := installTlb 64 k.tlb e }) s

/-- The prefetches that waited for a walk fill their lines (R219). -/
def State.walkFills (s : State) (die : Nat) (k : Walk) (e : TlbEntry) : State :=
  k.waiters.foldl (fun s x => match x.fill with
    | some (cls, dr, level) => s.prefetch x.core (s.tlbTr die e level .r x.va) cls dr
    | none => s) s

/-- A walk reads table entries by `.AL` `.MIN` reads of its die (R363). -/
def State.walkReads (s : State) (die : Nat) (read : List Nat) : State :=
  read.foldl (fun s pa => (s.touchLine die pa .min false).readDone pa 8) s

/-- A fault of a walk reaches the threads that still stand at the accesses that wait for it, and the engines. -/
def State.walkFault (s : State) (die : Nat) (k : Walk) (c : Cause) (table : Option Nat) (eval : DWord → DWord) : State :=
  k.waiters.foldl (fun s x =>
    if x.engine then
      let d := s.die die
      s.setDie die { d with failed := d.failed ++ [{ who := x, tag := k.tag, cause := c, table := table }] }
    else if x.fill.isSome then s
    else match s.wave? x.wave with
      | none => s
      | some w => s.modThread x.wave x.lane fun t =>
        if t.run = .running && t.due.isNone && t.pc = x.pc then t.fault c (eval x.va) (w.seq + 1) else t) s

/-- WALK_COMPLETE (R365): one that a shoot-down met installs nothing, and its accesses walk again (R367). -/
def execWalkComplete (die tag page : Nat) (s : State) : Host.Outcome State Fault Refusal :=
  match (s.die die).walks.find? fun k => k.busy && k.tag = tag && k.page = page with
  | none => .next s
  | some k =>
    let va : DWord := BitVec.ofNat 64 (page * 2 ^ 16)
    let s0 := s.endWalk die k
    if k.stale then .next ((k.waiters.filter fun x => x.fill.isSome).foldl (fun s x => s.requestWalk tag k.root x) s0)
    else
      match s.walk die tag k.root va with
      | .leaf lv e path read =>
        let e := tlbEntry tag lv e va
        .next (((s0.walkReads die read).installLeaf die k e (ptrEntries tag va path)).walkFills die k e)
      | .fault c read => .next ((s0.walkReads die read).walkFault die k c none fun va => va)
      | .poison pa read =>
        .next (((s0.walkReads die read).logCheck die k.core 5 0 0 0 pa).walkFault die k .poison (some pa) granuleVa)

/-! ## TLBINV (R203, R366) -/

/-- TLBINVs that a thread may have incomplete (R367). -/
def shootdownLimit : Nat := 8

/-- The TLBINVs of a thread that are not complete. -/
def State.shootdownsOf (s : State) (wave lane : Nat) : Nat :=
  (s.parts.flatMap fun p => p.2.shootdowns.filter fun d => d.wave = wave && d.lane = lane).length

/-- TLBINV (R203): it waits at issue until its release is performed. -/
def execTlbinv (f : Fields) (s : State) : Host.Outcome State Fault Refusal :=
  execLanes .super (shapeTlbinv f) f (fun t => t.off (shapeTlbinv f) f) (fun s w lane t =>
    match s.latchAt w (read32 s w lane t f f.c) with
    | .error (c, e) => .fault c e
    | .ok l =>
      if t.acquiring || shootdownLimit ≤ s.shootdownsOf w.id lane || !s.released w.id lane w.seq .pkg allClasses then .hold s
      else
        let part := s.partOfWave w
        let p := s.partition part
        let d : Shootdown :=
          { id := s.nextId, kind := bits f.m 0 2, va := read64 s w lane t f f.a, tag := (read32 s w lane t f f.b).toNat,
            latch := l, wave := w.id, lane := lane, toDeliver := s.dieSet part, toAck := [] }
        .done (s.fresh.setPartition part { p with shootdowns := p.shootdowns ++ [d] }) (t.advance f.form.len)) s

/-- A shoot-down removes a translation (R366). -/
def Shootdown.takes (d : Shootdown) (e : TlbEntry) : Bool :=
  if d.kind = 0 then (e.tag.isNone || e.tag = some d.tag) && e.va = d.va.toNat / 2 ^ leafShift e.level
  else if d.kind = 1 then e.tag = some d.tag
  else true

/-- A shoot-down removes a walk-cache entry (R366). -/
def Shootdown.takesPtr (d : Shootdown) (p : PtrEntry) : Bool :=
  if d.kind = 0 then (p.tag.isNone || p.tag = some d.tag) && p.va = d.va.toNat / 2 ^ leafShift p.level
  else if d.kind = 1 then p.tag = some d.tag
  else true

/-- A walk whose result a shoot-down could remove: for `.PAGE`, one in the same 4 TiB, since a leaf may cover
all of it (DEDUCED log 36). -/
def Shootdown.meetsWalk (d : Shootdown) (k : Walk) : Bool :=
  if d.kind = 0 then k.page / 2 ^ 26 = d.va.toNat / 2 ^ 42
  else if d.kind = 1 then k.tag = d.tag
  else true

/-- An access used a translation that a shoot-down removes. -/
def Shootdown.through (d : Shootdown) (via : Option TlbEntry) : Bool := (via.map d.takes).getD false

/-- The number of an access that stays with it to its end: an atomic's is that of its request. -/
def Access1.key (a : Access1) : Nat :=
  match a.work with
  | .svc r _ => r.id
  | _ => a.id

/-- What the copies and descent operations of a die's workgroups have on its way through a removed translation (R367, R368). -/
def State.copiesThrough (s : State) (die : Nat) (d : Shootdown) : List Nat :=
  let through (l : List (Nat × Option TlbEntry)) : List Nat := (l.filter fun f => d.through f.2).map fun f => f.1
  (s.wgs.filter fun g => dieOf g.core = die).flatMap fun g =>
    g.copies.flatMap (fun c => c.owed.flatMap fun o => through o.flights) ++ g.ops.flatMap fun o => through (o.ran.getD [])

/-- A CWARM that waits for the Scegus die used a removed translation: the threads of a die, by their number (R367). -/
def State.armsThrough (s : State) (die : Nat) (d : Shootdown) : List Nat :=
  (s.waves.filter fun w => dieOf w.core = die).flatMap fun w => w.threads.filterMap fun t => match t.parkNow with
    | some (.cwarm _ _ _ id via _) => if d.through via then some id else none
    | _ => none

/-- The accesses of a die not yet performed that used a removed translation (R367). -/
def State.throughOn (s : State) (die : Nat) (d : Shootdown) : List Nat :=
  let here (a : Access1) : Bool := dieOf a.core = die && d.through a.via
  let reads (t : Thread) : List Nat := t.pending.filterMap fun p =>
    match p.access with
    | .global _ _ _ _ _ _ via | .cwstat _ _ via => if p.value.isNone && d.through via then some p.id else none
    | _ => none
  let svc (r : SvcReq) : Bool := dieOf r.core = die && r.reply.isNone && d.through r.via
  (s.waves.flatMap fun w => (w.store.filter here).map Access1.key
      ++ (if dieOf w.core = die then w.threads.flatMap reads else []))
    ++ (s.net.filter here).map Access1.key
    ++ s.copiesThrough die d ++ s.armsThrough die d
    ++ s.services.flatMap fun x => ((x.2.queue ++ x.2.waiting ++ x.2.taken).filter svc).map fun r => r.id

/-- A thread's CWARM is not answered. -/
def Thread.arming (t : Thread) (id : Nat) : Bool :=
  match t.parkNow with
  | some (.cwarm _ _ _ x _ _) => x = id
  | _ => false

/-- An access is not yet performed. -/
def State.unperformed (s : State) (id : Nat) : Bool :=
  (s.waves.any fun w => (w.store.any fun a => a.key = id)
      || w.threads.any fun t => t.arming id || t.pending.any fun p => p.id = id && p.value.isNone)
    || (s.net.any fun a => a.key = id) || s.flying id || s.svcAny fun r => r.id = id

/-- A shoot-down acts on a die: its entries go, and matching walks in progress will install nothing. -/
def State.shootDie (s : State) (die : Nat) (d : Shootdown) : State :=
  let k := s.die die
  let s := s.setDie die { k with
    tlb := k.tlb.filter fun e => !d.takes e
    ptrs := k.ptrs.filter fun p => !d.takesPtr p
    walks := k.walks.map fun w => if w.busy && d.meetsWalk w then { w with stale := true } else w }
  { s with
    cores := s.cores.map fun c =>
      if dieOf c.1 = die then (c.1, { c.2 with tlb := c.2.tlb.filter fun e => !d.takes e }) else c
    wgs := s.wgs.map fun g => if dieOf g.core = die then { g with seenPages := [] } else g }

/-- SHOOTDOWN_DELIVER (R366, R367): the oldest one that a die has still to receive. -/
def execShootdownDeliver (part die : Nat) (s : State) : Host.Outcome State Fault Refusal :=
  let p := s.partition part
  match p.shootdowns.find? fun d => d.toDeliver.contains die with
  | none => .next s
  | some d =>
    let waits := s.throughOn die d
    let s := s.shootDie die d
    .next (s.setPartition part { p with shootdowns := p.shootdowns.map fun x =>
      if x.id = d.id then { x with toDeliver := x.toDeliver.filter fun k => k ≠ die, toAck := x.toAck ++ [(die, waits)] } else x })

/-- What a die's acknowledgement waits for is over (R367). -/
def State.ackReady (s : State) (die : Nat) (waits : List Nat) : Bool :=
  !((s.die die).walks.any fun k => k.stale) && !waits.any s.unperformed

/-- Arrivals of shoot-downs that every die has acknowledged, in order; one on the latch of a saved
workgroup holds those behind it (R367, R368). -/
def State.shootArrivals (part : Nat) : Nat → State → State
  | 0, s => s
  | fuel + 1, s =>
    let p := s.partition part
    match p.shootdowns with
    | [] => s
    | d :: ds =>
      if d.toDeliver ≠ [] || d.toAck ≠ [] || s.latchSaved d.latch then s
      else
        let s := s.setPartition part { p with shootdowns := ds }
        State.shootArrivals part fuel (if s.latchStands d.latch then s.arrive d.latch 1 else s)

/-- Shoot-downs of a partition that may complete. -/
def State.endShootdowns (s : State) (part : Nat) : State :=
  State.shootArrivals part (s.partition part).shootdowns.length s

/-- SHOOTDOWN_ACK (R367): the oldest one that a die may acknowledge. -/
def execShootdownAck (part die : Nat) (s : State) : Host.Outcome State Fault Refusal :=
  let p := s.partition part
  let ready (d : Shootdown) : Bool := d.toAck.any fun a => a.1 = die && s.ackReady die a.2
  match p.shootdowns.find? ready with
  | none => .next s
  | some d =>
    let s := s.setPartition part { p with shootdowns := p.shootdowns.map fun x =>
      if x.id = d.id then { x with toAck := x.toAck.filter fun a => a.1 ≠ die } else x }
    .next (s.endShootdowns part)

end Sys2Proof.Machine
end

