-- ==== Sys2Proof/Machine/Traps.lean ====
section
/-! DEFINITION. ERET and HALT (R204, R207, R375), imprecise reports (R376), unaccepted traps (R371), and the
debug control of halted waves (R378). -/

namespace Sys2Proof.Machine

open Sys2Proof

/-! ## ERET and HALT -/

/-- ERET (R204, R375). -/
def execEret (f : Fields) (s : State) : Host.Outcome State Fault Refusal :=
  execLanes .super (shapeBare f) f (fun t => t.off (shapeBare f) f) (fun s _ _ t =>
    match t.leave with
    | .ok t => .done s t
    | .error (c, e) => .fault c e) s

/-- HALT (R207). -/
def execHalt (f : Fields) (s : State) : Host.Outcome State Fault Refusal :=
  execLanes .sys (shapeA32 f) f (fun t => t.off (shapeA32 f) f) (fun s w lane t =>
    .done s (t.halt (read32 s w lane t f f.a) f)) s

/-- The halt code of a thread. -/
def Thread.haltCode (t : Thread) : Nat := match t.run with | .halted c _ => c.toNat | _ => 0

/-- A wave that has become halted is reported once (R207, R379) (DEDUCED log 65). -/
def State.reportHalt (s : State) (w : Wave) : State :=
  if w.halted && !w.haltLogged then
    let code := (((w.threads.find? Thread.halted).map Thread.haltCode).getD 0)
    let s := s.logCheck (dieOf w.core) w.core 8 code 0 w.slot 0
    { s with waves := s.waves.map fun x => if x.id = w.id then { x with haltLogged := true } else x }
  else s

/-! ## Imprecise reports (R376) -/

/-- A wait that other waves end and that may be taken up again: a trap of the thread leaves it. -/
def Park.plain : Park → Bool
  | .ltwait _ _ | .phwait _ _ | .wsync _ => true
  | _ => false

/-- The thread stands at an instruction boundary, or in a wait that it may leave (R376). -/
def Thread.atBoundary (t : Thread) : Bool :=
  t.due.isNone && match t.run with
    | .running => true
    | .parked p _ => p.plain
    | _ => false

/-- The lowest of some waves by index. -/
def lowestWave : List Wave → Option Wave
  | [] => none
  | w :: ws => some (ws.foldl (fun a b => if b.index < a.index then b else a) w)

/-- The wave that takes a report: the one that issued the work, or once it has exited the lowest that
remains (DEDUCED log 34). -/
def State.reportWave (s : State) (g : Workgroup) (r : Report) : Option Wave :=
  let live := (s.wavesOf g.id).filter fun w => !w.exited
  (live.find? fun w => r.wave = some w.id).orElse fun _ => lowestWave live

/-- The lane that takes a report: the lowest that has not exited and is not above USER. -/
def Wave.reportLane (w : Wave) : Option Nat :=
  (List.range w.threads.length).find? fun l => ((w.threads[l]?).map fun t => t.live && t.level = .user).getD false

/-- EVAL of an imprecise report. -/
def Report.eval (r : Report) : DWord := BitVec.ofNat 64 (r.number % 2 ^ 16 + (if r.descent then 2 ^ 16 else 0))

/-- IMPRECISE_FAULT_TAKE (R376). -/
def execImpreciseFaultTake (wg : Nat) (s : State) : Host.Outcome State Fault Refusal :=
  match s.wg? wg with
  | none => .next s
  | some g =>
    match g.reports with
    | [] => .next s
    | r :: rs =>
      match (s.reportWave g r).bind fun w => w.reportLane.bind fun l => (w.threads[l]?).map fun t => (w, l, t) with
      | none => .next s
      | some (w, l, t) =>
        if s.waveSaving w || !t.atBoundary then .next s
        else
          let t := { t with run := .running }.raise
            { cause := r.cause, epc := t.pc, eval := r.eval, imp := true, toSys := false, seq := w.seq }
          .next ((s.modWg wg fun g => { g with reports := rs }).setThread w.id l t)

/-! ## Traps that become due (R371, R372) -/

/-- The thread's grid runs at USER: a fault of it that no level accepts kills the entry (R371). -/
def State.userGrid (s : State) (w : Wave) (t : Thread) : Bool :=
  t.level = .user || ((s.entryOfWave w).map fun (e : Entry) => decide (e.level = .user)).getD false

/-- A trap that is due is entered, or where no level accepts it the thread halts, and a fault of a USER
thread kills the entry too (R371, R372). -/
def State.enterTrap (s : State) (w : Wave) (lane : Nat) (t : Thread) (r : TrapReq) : State :=
  let part := s.partOfWave w
  let t' := s.takeTrap part t r
  let s := s.setThread w.id lane t'
  let s := ((s.wave? w.id).map s.reportHalt).getD s
  if t'.halted && r.cause.isFault && s.userGrid w t then
    let s := s.logCheck (dieOf w.core) w.core 7 r.cause.code 0 0 0
    match s.entryOfWave w with
    | some e => if e.status.isSome then s else s.killEntry e.id .killed
    | none => s
  else s

/-- Threads with a trap due. -/
def State.dueCount (s : State) : Nat := ((s.waves.map fun w => (w.threads.filter fun t => t.due.isSome).length)).sum

/-- The first trap that may be entered: due, in a running thread without a pending result (R372). -/
def State.dueTrap (s : State) : Option (Wave × Nat × Thread × TrapReq) :=
  s.waves.findSome? fun w =>
    ((List.range w.threads.length).zip w.threads).findSome? fun x =>
      match x.2.due with
      | some r => if x.2.run = .running && x.2.pending = [] then some (w, x.1, x.2, r) else none
      | none => none

/-- Enter the traps that are due. -/
def State.enterTraps : Nat → State → State
  | 0, s => s
  | fuel + 1, s =>
    match s.dueTrap with
    | some (w, lane, t, r) => State.enterTraps fuel (s.enterTrap w lane t r)
    | none => s

/-! ## DBGCTL (R378) -/

/-- DBGCTL's selection written. -/
def State.dbgSelect (s : State) (die core slot : Nat) : State :=
  s.setDie die { s.die die with dbgCore := core % 32, dbgSlot := slot % 64 }

/-- A halted thread resumes. -/
def Thread.resume (t : Thread) : Thread :=
  match t.run with
  | .halted _ pc => { t with run := .running, pc := pc }
  | _ => t

/-- DBGCTL_GO (R378): a wave that is not halted stays as it is. -/
def execDbgctlGo (die core slot : Nat) (s : State) : Host.Outcome State Fault Refusal :=
  let s := s.dbgSelect die core slot
  match s.dbgWave die with
  | none => .next s
  | some w => .next (if w.halted then s.setWave { w with threads := w.threads.map Thread.resume, haltLogged := false } else s)

/-- DBGCTL_KILL (R378): the selected wave's entry is killed as by PREQ. -/
def execDbgctlKill (die core slot : Nat) (s : State) : Host.Outcome State Fault Refusal :=
  let s := s.dbgSelect die core slot
  match (s.dbgWave die).bind s.entryOfWave with
  | none => .next s
  | some e => .next (s.kill e.part e.queue e.number)

end Sys2Proof.Machine
end

