-- ==== Sys2Proof/Machine/Layout.lean ====
section
/-! DEFINITION. Partitions and their layout (R409-R415, R426, R427), the clear of a ring (R411), the frame
placement table (R418), and the columns of LLC slices (R390-R392). -/

namespace Sys2Proof.Machine

open Sys2Proof

/-! ## The check of a layout change (R412) -/

/-- The statuses of PARTCTL (R411). -/
def statusDone : Nat := 0
def statusBusy : Nat := 1
def statusNotEmpty : Nat := 2
def statusBadLayout : Nat := 3
def statusIlFrame : Nat := 4
def statusRunning : Nat := 7

/-- The partition numbers whose die set differs between two layouts. -/
def affected (old new : Nat) : List Nat := (List.range 4).filter fun p => dieSetIn old p ≠ dieSetIn new p

/-- A queue of a partition has BUSY or RES non-zero, or a window of it is ARMED. -/
def State.partBusy (s : State) (p : Nat) : Bool :=
  ((s.partition p).queues.any fun q => q.2.busy || s.residents p q.1 ≠ 0)
    || s.windows.any fun w => w.2.bound && w.2.owner = p && w.2.state = .armed

/-- Bring-up has left a die out (R419). -/
def System.leftOut (y : System) (d : Nat) : Bool := y.stage ≠ 0 && !y.dies.getLsbD d

/-- A valid frame of one of some partitions is interleaved. -/
def State.interleaved (s : State) (ps : List Nat) : Bool :=
  s.frames.any fun f => frameValid f.2 && ps.contains (framePart f.2) && (framePlace f.2 = 1 || framePlace f.2 = 2)

/-- The status that a GO write sets (R412) (DEDUCED log 59). -/
def State.layoutCheck (s : State) (code : Nat) (writer : Option Nat) : Nat :=
  let ps := affected s.system.layout.toNat code
  if (layoutParts code).isNone || (List.range 8).any s.system.leftOut then statusBadLayout
  else if ps.any (fun p => s.partBusy p || (s.partition p).wasBusy || writer = some p) then statusBusy
  else if !ps.all s.ringEmpty then statusNotEmpty
  else if s.interleaved ps then statusIlFrame
  else statusRunning

/-- PARTCTL_GO (R412, R426): `writer` is the partition of the thread that writes, if any. -/
def execPartctlGo (value : Word) (writer : Option Nat) (s : State) : Host.Outcome State Fault Refusal :=
  if !value.getLsbD 31 || s.system.newLayout.isSome then .next s
  else
    let code := value.extractLsb' 0 3
    let st := s.layoutCheck code.toNat writer
    .next { s with system := { s.system with
      parStatus := st, newLayout := if st = statusRunning then some code else none, shown := 0 } }

/-! ## The change (R413, R414) -/

/-- A valid frame takes the partition that holds it in the new layout. -/
def newFrame (ps : List Nat) (code : Nat) (e : Byte) : Byte :=
  if frameValid e && ps.contains (framePart e) then
    e &&& 0x3F ||| BitVec.ofNat 8 (partOfIn code (frameDie e) * 64)
  else e

/-- A partition number after a change that affects it: its queues lose their PKG and POD phasers, its ring is
new, and where its number is new or gone its registers are those of reset. -/
def Partition.changed (p : Partition) (clk : Nat) (kept : Bool) : Partition :=
  let ring : Ring := { Ring.reset with formedAt := clk, clearedAt := clk }
  if kept then
    { p with
      pphal := 0, lastDie := none, ring := ring
      queues := p.queues.map fun q => (q.1, { q.2 with phal := q.2.phal &&& 0x00000000_00FF00FF }) }
  else { Partition.reset with ring := ring }

/-- Every translation of a die goes, as by TLBINV `.ALL` (R413). -/
def State.flushDie (s : State) (die : Nat) : State :=
  let d := s.die die
  let s := s.setDie die { d with tlb := [], ptrs := [], walks := d.walks.map fun w => if w.busy then { w with stale := true } else w }
  { s with cores := s.cores.map fun c => if dieOf c.1 = die then (c.1, { c.2 with tlb := [] }) else c }

/-- The owner of what a partition owned, after a change (R414): none where the partition was split. -/
def newOwner (old new p : Nat) : Option Nat :=
  match dieSetIn old p with
  | [] => some p
  | d :: ds => if (d :: ds).all fun x => partOfIn new x = partOfIn new d then some (partOfIn new d) else none

/-- Windows after a change: unbound at a split, else taken over. -/
def State.changeWindows (s : State) (old new : Nat) : State :=
  s.windows.foldl (fun s x =>
    let w := x.2
    if !w.bound then s
    else match newOwner old new w.owner with
      | some p => s.setWindow x.1 { w with owner := p }
      | none => s.unbind x.1) s

/-- Endpoint entries after a change: those of a split partition stay with its number. -/
def State.changeEndpoints (s : State) (old new : Nat) : State :=
  (List.range 1024).foldl (fun s e =>
    let v := s.endpointWord e 2
    let p := bits v 48 16
    if v.getLsbD 40 then
      match newOwner old new p with
      | some q =>
        { s with endpoints := sset 0 s.endpoints (8 * e + 2) (v &&& 0x0000FFFFFFFFFFFF ||| BitVec.ofNat 64 (q * 2 ^ 48)) }
      | none => s
    else s) s

/-- LAYOUT_CHANGE_DONE (R413, R414, R422). -/
def execLayoutChangeDone (s : State) : Host.Outcome State Fault Refusal :=
  match s.system.newLayout with
  | none => .next s
  | some code =>
    let old := s.system.layout.toNat
    let new := code.toNat
    let ps := affected old new
    let dies := (List.range 8).filter fun d => ps.contains (partOfIn old d) || ps.contains (partOfIn new d)
    let s := (s.changeWindows old new).changeEndpoints old new
    let s : State := { s with
      frames := s.frames.map fun f => (f.1, newFrame ps new f.2)
      system := { (s.system.extend 7 [BitVec.ofNat 8 new]) with layout := code, newLayout := none, shown := 0, parStatus := statusDone } }
    let s := ps.foldl (fun s p =>
      let kept := dieSetIn old p ≠ [] && dieSetIn new p ≠ []
      s.setPartition p ((s.partition p).changed s.clk kept)) s
    .next (dies.foldl State.flushDie s)

/-! ## PRING.CLR (R411) -/

/-- A thread's board ends with RING_FULL (R251). -/
def State.failBoard (s : State) (o : RingOp) : State :=
  (s.dropRingOp o.id).modThread o.wave o.lane fun t =>
    match t.run with
    | .parked (.ring _) _ => { t with run := .running }.fault .ringFull (o.tag.zeroExtend 64) o.seq
    | _ => t

/-- RING_CLEAR (R411). -/
def execRingClear (part : Nat) (s : State) : Host.Outcome State Fault Refusal :=
  if !s.exists_ part then .next s
  else
    let p := s.partition part
    let ops := s.ringOps.filter fun o => o.part = part
    let s := s.setPartition part { p with ring := { p.ring with clearedAt := s.clk, slots := [] } }
    .next (ops.foldl (fun s o => if o.kind.isBoard then s.failBoard o else s.endRing o ringMissing 0 []) s)

/-! ## The frame placement table (R418) -/

/-- Frames of DRAM space. -/
def frameCount : Nat := 9437184

/-- FPTSET_SELECT (R418). -/
def execFptsetSelect (value : Word) (s : State) : Host.Outcome State Fault Refusal :=
  let f := bits value 0 24
  if frameCount ≤ f then .next s else .next { s with system := { s.system with fptFrame := f } }

/-- FPTSET_WRITE (R418). -/
def execFptsetWrite (value : Word) (writer : Writer) (s : State) : Host.Outcome State Fault Refusal :=
  let new : Byte := value.extractLsb' 0 8
  let old := sget 0 s.frames s.system.fptFrame
  if (frameValid old && writer.other (framePart old)) || writer.other (framePart new) then .next s
  else .next { s with frames := sset 0 s.frames s.system.fptFrame new }

/-! ## Slice columns (R390-R392) -/

/-- Every column that a map names is powered. -/
def mapPowered (m : BitVec 24) (on : BitVec 8) : Bool := (List.range 8).all fun c => on.getLsbD (mapColumn m c)

/-- The lines of a die that a slice change moves are written back and dropped; one of a peer that is on its way comes to its new
slice (R392). -/
def State.dropLines (s : State) (die : Nat) (p : Nat → Bool) : State :=
  (((s.die die).lines.filter fun l => l.2.asked.isNone && p (128 * l.1)).map fun l => l.1).foldl (fun s k => s.dropLine die k) s

/-- SLCFG_WRITE (R391, R392). -/
def execSlcfgWrite (die : Nat) (value : Word) (s : State) : Host.Outcome State Fault Refusal :=
  let d := s.die die
  let on : BitVec 8 := value.extractLsb' 0 8
  if d.slBusy || on = 0 || !mapPowered d.slMap on || on = d.slOn then .next s
  else
    let s := s.dropLines die fun pa => !on.getLsbD (d.slice pa % 8)
    .next (s.setDie die { s.die die with slOn := on, slBusy := true })

/-- SLMAP_WRITE (R391, R392). -/
def execSlmapWrite (die : Nat) (value : Word) (s : State) : Host.Outcome State Fault Refusal :=
  let d := s.die die
  let m : BitVec 24 := value.extractLsb' 0 24
  if d.slBusy || !mapPowered m d.slOn then .next s
  else
    let moves (pa : Nat) : Bool := mapColumn m (sliceCode pa) ≠ mapColumn d.slMap (sliceCode pa)
    let s := s.dropLines die moves
    .next (s.setDie die { s.die die with slMap := m, slBusy := true })

/-- SLICE_REMAP_DONE (R392). -/
def execSliceRemapDone (die : Nat) (s : State) : Host.Outcome State Fault Refusal :=
  .next (s.setDie die { s.die die with slBusy := false })

end Sys2Proof.Machine
end

