-- ==== Sys2Proof/Machine/Shutter.lean ====
section
/-! DEFINITION. The shutter: SNAP (R205), its triggers and its tick, which latches every counter (R424, R425). -/

namespace Sys2Proof.Machine

open Sys2Proof

/-! ## Scheduling (R205, R424, R425) -/

/-- The smallest multiple of 1,024 above PCC. -/
def nextTick (pcc : DWord) : DWord := BitVec.ofNat 64 ((pcc.toNat / 1024 + 1) * 1024)

/-- A trigger schedules a shutter at a tick, or joins one that is pending: the state and the tick. -/
def State.scheduleAt (s : State) (tick : DWord) : State × DWord :=
  match s.system.snapAt with
  | some t =>
    if s.pcc.toNat < t then (s, BitVec.ofNat 64 t)
    else ({ s with system := { s.system with snapAt := some tick.toNat } }, tick)
  | none => ({ s with system := { s.system with snapAt := some tick.toNat } }, tick)

/-- SNAP (R205). -/
def execSnap (f : Fields) (s : State) : Host.Outcome State Fault Refusal :=
  execLanes .sys (shapeSnap f) f (fun t => t.off (shapeSnap f) f) (fun s _ _ t =>
    let (s, tick) := s.scheduleAt (nextTick s.pcc)
    .done s ((t.result f.d.reg [loWord tick, hiWord tick]).advance f.form.len)) s

/-- SHUTTER_INPUT (R424): taken while SNAPCTL.EXT is set. -/
def execShutterInput (s : State) : Host.Outcome State Fault Refusal :=
  .next (if s.system.snapExt then (s.scheduleAt (nextTick s.pcc)).1 else s)

/-- SHUTTER_FRAMING_TRIGGER (R424): it names its tick; one whose tick is past schedules as SNAP does. -/
def execShutterFramingTrigger (tick : DWord) (s : State) : Host.Outcome State Fault Refusal :=
  .next (if s.system.snapExt then (s.scheduleAt (if s.pcc.toNat < tick.toNat then tick else nextTick s.pcc)).1 else s)

/-! ## The tick (R424) -/

/-- A counter summed over the powered slices of a die. -/
def Die.powered (d : Die) (l : Sparse Nat) : Nat :=
  ((l.filter fun p => d.slOn.getLsbD (p.1 % 8)).map fun p => p.2).foldl (· + ·) 0

/-- The snapshot of a die's own counters; the junction temperature of one die is measured, and no more than
the hottest (DESIGN CHOICE log 12). -/
def State.snapDie (s : State) (die : Nat) : Sparse DWord :=
  let d := s.die die
  let vals : List Nat :=
    [d.xrloc.toNat, d.xrrem.toNat, d.powered d.hits, d.powered d.misses, d.walkcnt.toNat, s.power.avg,
      (Config.freeWord (s.draws + die)).toNat % (s.power.temp + 1)]
  ((List.range 7).zip vals).foldl (fun l p => sset 0 l (snapKey 0 (p.1 + 3)) (BitVec.ofNat 64 p.2)) []

/-- The snapshot of a core's counters. -/
def State.snapCore (s : State) (core : Nat) (l : Sparse DWord) : Sparse DWord :=
  let c := s.core core
  ((List.range 3).zip [c.issued, c.tileSeq, c.tokenStall]).foldl
    (fun l p => sset 0 l (snapKey (core % 32) p.1) (BitVec.ofNat 64 p.2)) l

/-- The snapshot registers of a die at a tick; a die that bring-up left out latches zeros. -/
def State.snapOf (s : State) (die : Nat) : Sparse DWord :=
  if s.system.leftOut die then []
  else (List.range 32).foldl (fun l c => s.snapCore (32 * die + c) l) (s.snapDie die)

/-- Every die latches. -/
def State.latchAll (s : State) (tick : Nat) : State :=
  let snaps := (List.range 8).map s.snapOf
  let s1 := ((List.range 8).zip snaps).foldl (fun s p => s.setDie p.1 { s.die p.1 with snap := p.2 }) s
  { s1 with
    draws := s.draws + 8
    system := { s1.system with snapAt := none, snapTick := BitVec.ofNat 64 tick } }

/-- A shutter whose tick has come latches. -/
def State.shutter (s : State) : State :=
  match s.system.snapAt with
  | some t => if t ≤ s.pcc.toNat then s.latchAll t else s
  | none => s

/-- SHUTTER_TICK (R424). -/
def execShutterTick (s : State) : Host.Outcome State Fault Refusal := .next s.shutter

end Sys2Proof.Machine
end

