-- ==== Sys2Proof/Machine/Regs.lean ====
section
/-! DEFINITION. Writes of the control registers (R4, R202), CSRR and CSRW, and writes of device-register space
(R416, R417). What a write does beyond its own field is the event of its row. -/

namespace Sys2Proof.Machine

open Sys2Proof

/-- The state after an event that always answers a next state. -/
def State.after (s : State) (ev : State → Host.Outcome State Fault Refusal) : State :=
  match ev s with
  | .next t => t
  | _ => s

/-! ## Registers of a thread (R373) -/

/-- A write of a register of a trap set by its place in the set. -/
def TrapSet.write (x : TrapSet) (i : Nat) (v : Word) : TrapSet :=
  match i with
  | 2 | 3 => { x with epc := writeHalf x.epc (i = 3) v }
  | 4 =>
    { x with inTrap := v.getLsbD 31, plev := v.extractLsb' 10 2, imp := v.getLsbD 8, code := v.extractLsb' 0 8 }
  | 5 | 6 => { x with eval := writeHalf x.eval (i = 6) v }
  | _ => { x with esav := setAt x.esav (i - 7) v }

/-- A write of a register held by the executing thread. -/
def Thread.csrWrite (t : Thread) (n : Nat) (v : Word) : Thread :=
  if n < 0x310 then { t with super := t.super.write (n - 0x300) v } else { t with sys := t.sys.write (n - 0x310) v }

/-! ## Registers of a workgroup (R377) -/

/-- A register of the executing wave's workgroup; zero in a wave that has none. -/
def State.wgRead (s : State) (w : Wave) (n : Nat) : Word :=
  match s.ownGroup w with
  | some g => if n = 0x320 then g.stat else w32 (flag g.dbgHalt 0)
  | none => 0

/-- A write of WGSTAT clears the bits written 1; one of WGCTL sets DBGHALT. -/
def State.wgWrite (s : State) (w : Wave) (n : Nat) (v : Word) : State :=
  match s.ownGroup w with
  | none => s
  | some _ => s.modWg w.wg fun g =>
    if n = 0x320 then
      { g with
        impOvf := g.impOvf && !v.getLsbD 7, matrixCheck := g.matrixCheck && !v.getLsbD 1,
        scopeMiss := g.scopeMiss && !v.getLsbD 0 }
    else { g with dbgHalt := v.getLsbD 0 }

/-! ## Registers of a queue and of a partition -/

/-- A write of a queue's register at a level. -/
def State.queueWrite (s : State) (level : Level) (part q num : Nat) (v : Word) : State :=
  match num with
  | 0x322 => s.writeQctx part q false v
  | 0x323 => s.writeQctx part q true v
  | 0x3E1 => s.after (execQcfgWrite part q v)
  | 0x3E4 => s.after (execQdoorWrite part q v level)
  | 0x3E5 | 0x3E6 | 0x3E7 | 0x3E8 => s.after (execQringWrite part q num v)
  | 0x3EE | 0x3EF => s.after (execQphalWrite part q num v)
  | 0x3F0 | 0x3F1 => s.after (execQrootWrite part q num v)
  | _ => s

/-- A write of PREQ (R354). -/
def State.preqWrite (s : State) (part : Nat) (v : Word) : State :=
  if v.getLsbD 31 then s.after (execPreqKill part (bits v 16 6) (bits v 0 16))
  else s.after (execPreqSave part (bits v 16 6) (bits v 0 16))

/-- TVEC without its reserved bits (R373). -/
def tvecMask : DWord := ~~~0x1E#64

/-- A write of a partition's register. -/
def State.partWrite (s : State) (level : Level) (part num : Nat) (v : Word) : State :=
  let p := s.partition part
  match num with
  | 0x300 | 0x301 => s.setPartition part { p with tvec := writeHalf p.tvec (num = 0x301) v &&& tvecMask }
  | 0x356 | 0x357 => s.after (execPphalWrite part num v)
  | 0x3E0 => s.setPartition part { p with qsel := bits v 0 6 }
  | 0x3ED => s.preqWrite part v
  | 0x3F2 | 0x3F3 => s.after (execSrootWrite part num v)
  | _ => s.queueWrite level part p.qsel num v

/-! ## Package-wide registers -/

/-- A write of PRING clears the rings that CLR names (R411). -/
def State.pringWrite (s : State) (v : Word) : State :=
  (List.range 4).foldl (fun s p => if v.getLsbD (16 + p) then s.after (execRingClear p) else s) s

/-- Token limits never stand above their sizes (R351). -/
def Power.capped (p : Power) : Power :=
  { p with
    matLimit := min p.matLimit p.matSize, collLimit := min p.collLimit p.collSize,
    drainLimit := min p.drainLimit p.drainSize, bulkLimit := min p.bulkLimit p.bulkSize }

/-- A write of a power register (R349, R351, R423). -/
def Power.write (p : Power) (num : Nat) (v : Word) : Power :=
  match num with
  | 0x359 => { p with throt := min 110 (bits v 16 8) }
  | 0x3E9 => { p with matSize := min 1024 (bits v 0 11) }.capped
  | 0x3EA => { p with collSize := bits v 24 8, drainSize := bits v 16 8, bulkSize := bits v 8 8 }.capped
  | 0x3EB => { p with cap := min 4800 (bits v 0 13) }
  | _ => p

/-- A write of a package-wide register; `part` is the partition of the thread that writes, if any. -/
def State.packageWrite (s : State) (level : Level) (part : Option Nat) (num : Nat) (v : Word) : State :=
  match num with
  | 0x310 | 0x311 => { s with tvec := writeHalf s.tvec (num = 0x311) v &&& tvecMask }
  | 0x343 => { s with system := { s.system with drshare := max 1 (min 16 (bits v 0 6)) } }
  | 0x350 => s.after (execPartctlGo v part)
  | 0x353 => s.pringWrite v
  | 0x354 => s.after (execFptsetWrite v (match part with | some p => Writer.ofLevel level p | none => .sys))
  | 0x355 => s.after (execFptsetSelect v)
  | 0x360 => { s with system := { s.system with snapPod := v.getLsbD 1, snapExt := v.getLsbD 0 } }
  | _ => { s with power := s.power.write num v }

/-! ## Registers of a die and of a core -/

/-- A write of DBGCTL selects a wave, and resumes or kills it (R378). -/
def State.dbgWrite (s : State) (die : Nat) (v : Word) : State :=
  let s := s.dbgSelect die (bits v 8 5) (bits v 0 6)
  let s := if v.getLsbD 31 then s.after (execDbgctlGo die (bits v 8 5) (bits v 0 6)) else s
  if v.getLsbD 30 then s.after (execDbgctlKill die (bits v 8 5) (bits v 0 6)) else s

/-- A write of a register of a die, or of a core of it. -/
def State.dieWrite (s : State) (core num : Nat) (v : Word) : State :=
  let die := dieOf core
  let d := s.die die
  let c := s.core core
  match num with
  | 0x324 => s.dbgWrite die v
  | 0x331 => s.setDie die { d with mcsel := bits v 0 8 }
  | 0x33A => s.setDie die { d with cecnt := v }
  | 0x340 => s.after (execSlcfgWrite die v)
  | 0x341 => s.after (execSlmapWrite die v)
  | 0x342 => s.setDie die { d with rslpEn := v.getLsbD 31, rslpIdle := max 64 (bits v 0 16) }
  | 0x363 => s.setDie die { d with snapsel := v &&& 0x1FFF }
  | 0x3C0 => s.setCore core { c with mchkctl := v &&& 0xF06 }
  | 0x3C1 => s.setCore core { c with mchkcnt := v }
  | 0x3C2 => s.setCore core { c with mchkmis := v }
  | 0x3D0 => s.setDie die { d with xrloc := v }
  | 0x3D1 => s.setDie die { d with xrrem := v }
  | 0x3F5 => s.setDie die { d with walkcnt := v }
  | _ => s

/-- A write of a register at a site; `part` is the partition of the thread that writes, if one does. -/
def State.csrWrite (s : State) (site : Site) (part : Option Nat) (num : Nat) (v : Word) : State :=
  if packageReg num then s.packageWrite site.level part num v
  else if partReg num then s.partWrite site.level site.part num v
  else s.dieWrite (32 * site.die + site.core) num v

/-- REGISTER_WRITE (R202): a number that no map assigns, or one above the writer's level, is not written. -/
def execRegisterWrite (num : Nat) (value : Word) (site : Site) (s : State) : Host.Outcome State Fault Refusal :=
  match csrLevel num with
  | none => .next s
  | some l =>
    if !l.le site.level || threadReg num || within 0x320 0x321 num || 8 ≤ site.die || 32 ≤ site.core || !s.exists_ site.part then .next s
    else .next (s.csrWrite site (if site.level = .sys then none else some site.part) num value)

/-! ## CSRR and CSRW (R202) -/

/-- The fault of naming a register at a level. -/
def csrFault (level : Level) (a : Word) : Option (Cause × DWord) :=
  if bits a 12 20 ≠ 0 then some (.illegal, 7)
  else match csrLevel a.toNat with
    | none => some (.illegal, 7)
    | some l => if l.le level then none else some (.priv, 0)

/-- What a register reads in a thread. -/
def csrValue (s : State) (w : Wave) (t : Thread) (n : Nat) : Word :=
  if threadReg n then t.csrRead n
  else if within 0x320 0x321 n then s.wgRead w n
  else s.csrRead w.core (s.partOfWave w) n

/-- CSRR (R202). -/
def execCsrr (f : Fields) (s : State) : Host.Outcome State Fault Refusal :=
  execLanes .super (shapeDA f 0) f (fun t => t.off (shapeDA f 0) f) (fun s w lane t =>
    let a := read32 s w lane t f f.a
    match csrFault t.level a with
    | some (c, e) => .fault c e
    | none => .done s ((t.result f.d.reg [csrValue s w t a.toNat]).advance f.form.len)) s

/-- The value that CSRW writes over an old one: `.W`, `.SET`, `.CLR`. -/
def csrNew (mode : Nat) (o b : Word) : Word := if mode = 0 then b else if mode = 1 then o ||| b else o &&& ~~~b

/-- CSRW (R202). A write to QDOOR is a release at SYS, and waits at issue until it is performed (R336). -/
def execCsrw (f : Fields) (s : State) : Host.Outcome State Fault Refusal :=
  execLanes .super (shapeCsrw f) f (fun t => t.off (shapeCsrw f) f) (fun s w lane t =>
    let a := read32 s w lane t f f.a
    let n := a.toNat
    match csrFault t.level a with
    | some (c, e) => .fault c e
    | none =>
      if n = 0x3E4 && (t.acquiring || !s.released w.id lane w.seq .sys allClasses) then .hold s
      else
        let o := csrValue s w t n
        let v := csrNew (bits f.m 0 2) o (read32 s w lane t f f.b)
        let t' := (t.result f.d.reg [o]).advance f.form.len
        if threadReg n then .done s (t'.csrWrite n v)
        else if within 0x320 0x321 n then .done (s.wgWrite w n v) t'
        else
          let part := s.partOfWave w
          let site : Site := { level := t.level, die := dieOf w.core, core := w.core % 32, part := part }
          .done (s.csrWrite site (some part) n v) t') s

/-! ## Writes of device-register space (R416, R417) -/

/-- Bytes laid over the 8 bytes of a slot. -/
def mergeSlot (old : DWord) (at_ : Nat) (data : List Byte) : DWord :=
  let bs := leBytes 8 old.toNat
  BitVec.ofNat 64 (leNat (bs.take at_ ++ data ++ bs.drop (at_ + data.length)))

/-- A write of 8 bytes of the window table: the record, or WCTL (R416, R417). -/
def State.tableWrite (s : State) (wr : Writer) (w at_ : Nat) (v : DWord) : State :=
  let k := s.window w
  if k.bound && wr.other k.owner then s
  else if at_ < 1344 then { s with wtable := swrite s.wtable (2048 * w + at_) (leBytes 8 v.toNat) }
  else if at_ = 0x7F8 then
    if bits v 0 2 = 1 then s.after (execWindowBind w wr)
    else if bits v 0 2 = 2 then s.after (execWindowUnbind w wr)
    else s
  else s

/-- A write of 8 bytes of device-register space, made by a writer; `part` as in `csrWrite` (DEDUCED log 58). -/
def State.devWrite (s : State) (wr : Writer) (part : Option Nat) (x : DevSlot) (v : DWord) : State :=
  let level : Level := match wr with | .sys => .sys | .super _ => .super
  match x with
  | .package n => if packageReg n then s.packageWrite level part n (loWord v) else s
  | .part p n => if partReg n && s.exists_ p then s.partWrite level p n (loWord v) else s
  | .queue p q n => if queueReg n && s.exists_ p then s.queueWrite level p q n (loWord v) else s
  | .window w at_ => s.tableWrite wr w at_ v
  | .endpoint e i => s.after (execEndpointWrite e i v wr)
  | .program g i =>
    if s.programHeld g then s
    else
      let p := s.program g
      s.setProgram g { p with words := sset 0 p.words i v }
  | .pgctl g => s.after (execProgramLoad g (loWord v))
  | .none => s

/-- Only the low 4 bytes of a slot are written. -/
def DevSlot.half (x : DevSlot) : Bool :=
  match x with
  | .package _ | .part _ _ | .queue _ _ _ | .pgctl _ => true
  | .window _ at_ => at_ = 0x7F8
  | _ => false

/-- Bytes written to device-register space, slot by slot: a slot written in part keeps its other bytes. -/
def State.devStore (wr : Writer) (part : Option Nat) : Nat → State → Nat → List Byte → State
  | 0, s, _, _ => s
  | fuel + 1, s, off, data =>
    if data = [] then s
    else
      let at_ := off % 8
      let x := devSlot off
      let v := mergeSlot ((s.devWord wr x).getD 0) at_ (data.take (8 - at_))
      State.devStore wr part fuel (if x.half && 4 ≤ at_ then s else s.devWrite wr part x v) (off - at_ + 8) (data.drop (8 - at_))

end Sys2Proof.Machine
end

