-- ==== Sys2Proof/Machine/Fabric.lean ====
section
/-! DEFINITION. Direct accesses (R99, R112, R125), the pod fabric's receiver and its transport (R395-R401), Ultra
Ethernet retransmission (R402), host accesses (R404), pod time (R407), router sleep (R393), job bindings (R20),
and memory errors (R103, R104). -/

namespace Sys2Proof

/-- The code of an atomic operation in a request, and whether it compares signed numbers. -/
def AtomOp.code : AtomOp → Nat × Bool
  | .add => (0, false)
  | .min => (1, true)
  | .umin => (1, false)
  | .max => (2, true)
  | .umax => (2, false)
  | .and => (3, false)
  | .or => (4, false)
  | .xor => (5, false)
  | .xchg => (6, false)
  | .cas => (7, false)
  | .faddF32 => (8, false)
  | .faddBf16 => (9, false)

/-- The packet carries a window fragment. -/
def PodPacket.isFragment (k : PodPacket) : Bool := match k.payload with | .fragment _ => true | _ => false

/-- Two packets have one number of one source and partition. -/
def PodPacket.same (k x : PodPacket) : Bool := x.src = k.src && x.part = k.part && x.number = k.number

/-- The die port that a waiting packet goes to: a message's die, or the windows' own. -/
def PodPacket.diePort (k : PodPacket) : Nat := match k.payload with | .message m => m.die | _ => 8

/-- Bytes of a packet in an ingress queue. -/
def PodPacket.bytes (k : PodPacket) : Nat := 64 * Machine.podBeats k

end Sys2Proof

namespace Sys2Proof.Machine

open Sys2Proof

/-! ## Direct accesses (R99, R125) -/

/-- The atomic operation of a request as a packet names it. -/
def SvcReq.atom (r : SvcReq) : AtomOp :=
  match r.op with
  | 0 => .add
  | 1 => if r.signed then .min else .umin
  | 2 => if r.signed then .max else .umax
  | 3 => .and
  | 4 => .or
  | 5 => .xor
  | 6 => .xchg
  | 7 => .cas
  | 8 => .faddF32
  | _ => .faddBf16

/-- A request reaches the router of the quad that serves its address (R30, R100). -/
def State.toService (s : State) (r : SvcReq) : State :=
  let quad := s.servingQuad r.pa
  let v := s.service quad
  s.setService quad { v with waiting := v.waiting ++ [r] }

/-- A direct write of this package performed (R99, R123). -/
def State.writeHome (s : State) (core pa : Nat) (data : List Byte) (rel : Option (Scope × Origin)) : State :=
  (s.invalidate pa data.length).poke core pa data rel

/-- A load of this package's registers: performed once the thread's own earlier stores to them are. -/
def State.deviceLoad (s : State) (w : Wave) (a : Access1) (p : Pending) (pa len : Nat) : State :=
  let own := globalStores (s.ownWrites w a.lane p.seq)
  if own.any fun o => meets o.1 o.2.length pa len then s
  else
    let (s, data) := s.peekAny (Writer.ofLevel a.level a.origin.part) pa len
    (s.landed a.id).modThread w.id a.lane fun t => t.fill p.id (wordsOf p.words data)

/-- The pending result of a lane of a wave. -/
def State.pendingOf (s : State) (a : Access1) (pend : Nat) : Option (Wave × Pending) :=
  (s.wave? a.wave).bind fun w => ((w.threads[a.lane]?).bind fun t => t.pending.find? fun p => p.id = pend).map fun p => (w, p)

/-- A direct load performed at its home (R99). -/
def State.directLoad (s : State) (a : Access1) (pend : Nat) : State :=
  match s.pendingOf a pend with
  | none => s.landed a.id
  | some (w, p) =>
    match a.work with
    | .load pa len _ _ =>
      if paSpace pa = 2 then s.deviceLoad w a p pa len
      else
        match s.performRead w a.lane p with
        | .value s ws => (s.landed a.id).modThread w.id a.lane fun t => t.fill p.id ws
        | .poison eval pa => (s.landed a.id).poisonPending w a.lane p eval pa
        | .wait => s
    | _ => s

/-- A direct access of this package's memory or registers is performed. -/
def State.performHere (s : State) (a : Access1) : State :=
  match a.work with
  | .store pa data _ _ =>
    if paSpace pa = 2 then
      State.devStore (Writer.ofLevel a.level a.origin.part) (some a.origin.part) 16 (s.landed a.id) (paOffset pa) data
    else (s.landed a.id).writeHome a.core pa data (a.rel.map fun r => (r.scope, a.origin))
  | .load _ _ _ pend => s.directLoad a pend
  | .svc r _ => (s.landed a.id).toService { r with origin := some a.origin }
  | _ => s

/-- What carries an access to a peer: with the scope and agent of a release, or of an atomic that acquires (R123). -/
def Access1.payload (a : Access1) : Option PodPayload :=
  match a.work with
  | .store pa data _ _ => some (.write pa data [] (a.rel.map fun r => (r.scope, a.origin)) a.id)
  | .load pa len _ _ => some (.read pa len a.id)
  | .svc r _ => some (.atomic r.atom r.wide r.ret r.pa r.operand r.compare (r.scope.map fun sc => (sc, a.origin)) a.id)
  | _ => none

/-- DIRECT_ACCESS_PERFORM (R99, R112, R125, R127): performed at home in its turn, or on its way to a peer. -/
def execDirectAccessPerform (id : Nat) (s : State) : Host.Outcome State Fault Refusal :=
  match s.net.find? fun a => a.id = id with
  | none => .next s
  | some a =>
    if a.sent.isSome || !s.pathClear a then .next s
    else
      match a.work.pa, a.payload with
      | some pa, some x =>
        if paPkg pa = s.system.pkgid then .next (if s.inTurn a then (s.performHere a).arrivedNow a else s)
        else if s.waitsForOwn a then .next s
        else
          let (s, k) := s.sendPod (paPkg pa) a.origin.part (a.work.route.getD .min) (peerPath a.core pa (minLane pa)) x
          .next (s.carried id k)
      | _, _ => .next s

/-! ## Reception (R401) -/

/-- A load of a peer's memory has its data, with the bytes that are poisoned and the release records of its words: the
thread's own writes lie over them (R104, R114, R123, R127); no data stands for poison (DESIGN CHOICE log 71). -/
def State.loadReply (s : State) (w : Wave) (a : Access1) (p : Pending) (pa len : Nat) (data : List Byte) (bad : List Nat)
    (recs : RelRecords) : State :=
  let own := globalStores (s.ownWrites w a.lane p.seq)
  let bytes := (List.range len).map fun i => (data[i]?).getD 0
  let poison := badGranules pa (if data = [] then List.range len else bad)
  match p.access, poisonSeen poison pa len own with
  | .global _ _ va _ _ _ _, some x => s.poisonPending w a.lane p (granuleVa (va + BitVec.ofNat 64 (x - pa))) x
  | .global _ _ _ _ _ acq _, none =>
    let s := match acq with
      | some sc => s.acquired (recordsOf recs (wordsRead pa len own)) sc (s.originOf w)
      | none => s
    s.modThread w.id a.lane fun t => t.fill p.id (wordsOf p.words (overlay pa bytes own))
  | _, _ => s

/-- A reply reaches the access, or the die, that waits for it. -/
def State.takeReply (s : State) (tag : Nat) (data : List Byte) (bad : List Nat) (recs : RelRecords) : State :=
  match s.net.find? fun a => a.id = tag with
  | none => if data.length = 128 then s.fillFetched tag data bad recs else s
  | some a =>
    match a.work with
    | .load pa len _ pend =>
      match s.pendingOf a pend with
      | none => s.landed tag
      | some (w, p) => (s.landed tag).loadReply w a p pa len data bad recs
    | .svc r _ =>
      if r.ret then
        let s := match r.scope with
          | some sc => if data = [] then s else s.acquired recs sc a.origin
          | none => s
        (s.landed tag).svcReply r (BitVec.ofNat 64 (leNat data)) (data = [])
      else s.landed tag
    | _ => s

/-- A read of this package for a peer: its bytes, and those that are poisoned, which are logged (R104). -/
def State.readForPeer (s : State) (pa len : Nat) : State × List Byte × List Nat :=
  if paSpace pa = 0 then
    match (granules pa len).find? s.poison.contains with
    | some g => (s.logCheck (s.home pa) 0 1 0 0 0 (g * 32), s.peek pa len, badBytes s.poison pa len)
    | none => ((s.recallRange pa len).readDone pa len, (s.recallRange pa len).peek pa len, [])
  else
    let (s, data) := s.peekAny .sys pa len
    (s, data, [])

/-- What this package answers a peer, on the path of its request. -/
def State.answer (s : State) (k : PodPacket) (pa : Nat) (x : PodPayload) : State :=
  (s.sendPod k.src k.part k.cls { core := 0, home := s.home pa, lane := minLane pa } x).1

/-- The answer to a peer's read (R104, R123). -/
def State.answerRead (s : State) (k : PodPacket) (pa len tag : Nat) : State :=
  let (s, data, bad) := s.readForPeer pa len
  s.answer k pa (.reply tag data bad (recordsOf s.releases (words8 pa len)))

/-- The answer to a peer's request for a line: where it asks for the only copy, the package's own copies go (R97). -/
def State.answerFetch (s : State) (k : PodPacket) (pa : Nat) (only : Bool) (tag : Nat) : State :=
  if !s.ownDram pa || paBad pa then s
  else
    let at_ := 128 * lineOf pa
    let s := if only then s.invalidate at_ 128 else s.recall at_
    let (s, data, bad) := s.readForPeer at_ 128
    let s : State := if only then { s with lent := s.lent ++ [lineOf pa] } else s
    s.answer k pa (.reply tag data bad (recordsOf s.releases (words8 at_ 128)))

/-- A line that a peer held alone comes back (R98). -/
def State.takeBack (s : State) (pa : Nat) (data : List Byte) (bad : List Nat) (recs : RelRecords) : State :=
  let k := lineOf pa
  if s.lent.contains k && data.length = 128 then { s.setLine k data bad recs with lent := s.lent.filter fun x => x ≠ k } else s

/-- The request that a peer's atomic makes here. -/
def peerRequest (id home : Nat) (k : PodPacket) (op : AtomOp) (wide ret : Bool) (pa : Nat) (operand compare : DWord)
    (rel : Option (Scope × Origin)) (tag : Nat) : SvcReq :=
  { id := id, ret := ret, signed := op.code.2, wide := wide, op := op.code.1, pa := pa, va := 0, operand := operand,
    compare := compare, core := 32 * home, wave := id, lane := 0, seq := 0, route := k.cls, scope := rel.map fun r => r.1, via := none,
    reply := some (k.src, k.part, tag), origin := rel.map fun r => r.2 }

/-- The message that a peer's packet makes here. -/
def peerMessage (id pkgid : Nat) (m : ActiveMessage) : Message :=
  { id := id, pkg := pkgid, core := 32 * m.die + m.core, handler := m.entry, payload := m.payload, notBefore := m.notBefore,
    entry := none, srcPkg := m.srcPkg, part := m.part, wave := id, lane := 0 }

/-- A fragment packet stands behind another of its partition that a full hold queue stopped at the pod port (R296, R395). -/
def State.podShut (s : State) (k : PodPacket) : Bool :=
  k.isFragment && (s.fabric.ingress.takeWhile fun x => x ≠ k).any fun x => x.isFragment && x.part = k.part

/-- A packet is delivered; none where a full queue stops it. -/
def State.deliverPod (s : State) (k : PodPacket) : Option State :=
  match k.payload with
  | .read pa len tag => some (s.answerRead k pa len tag)
  | .write pa data bad rel _ =>
    if paSpace pa = 0 || paSpace pa = 3 then some ((s.invalidate pa data.length).pokePoison 0 pa data bad rel)
    else if paSpace pa = 2 then some (State.devStore .sys none 16 s (paOffset pa) data)
    else some s
  | .atomic op wide ret pa operand compare rel tag =>
    some (s.fresh.toService (peerRequest s.nextId (s.home pa) k op wide ret pa operand compare rel tag))
  | .fetch pa only tag => some (s.answerFetch k pa only tag)
  | .writeBack pa data bad recs => some (s.takeBack pa data bad recs)
  | .message m => s.fresh.receiveMessage (peerMessage s.nextId s.system.pkgid m)
  | .fragment g =>
    if s.podShut k || !s.fragmentTurn (arrived g) then none else (s.reachWindow (arrived g)).map fun r => r.1
  | .reply tag data bad recs => some (s.takeReply tag data bad recs)

/-- A packet of this number has been delivered. -/
def Fabric.delivered (f : Fabric) (k : PodPacket) : Bool := f.seen.contains (k.src, k.part, k.number)

/-- A packet of this number is held, behind a gap of its stream or a full queue. -/
def Fabric.holds (f : Fabric) (k : PodPacket) : Bool := (f.heldMin ++ f.ingress).any k.same

/-- The next index of a `.MIN` stream of a source. -/
def Fabric.expected (f : Fabric) (k : PodPacket) : Nat :=
  ((f.minNext.find? fun p => p.1 = (k.src, k.part, k.stream)).map fun p => p.2).getD 0

/-- A packet is noted as delivered. -/
def Fabric.note (f : Fabric) (k : PodPacket) : Fabric :=
  let key := (k.src, k.part, k.stream)
  let f : Fabric := { f with ingress := f.ingress.filter fun x => !k.same x, heldMin := f.heldMin.filter fun x => !k.same x }
  if f.delivered k then f
  else
    { f with
      seen := (k.src, k.part, k.number) :: f.seen
      minNext := if k.stream = 0 then f.minNext else (key, k.index + 1) :: f.minNext.filter fun p => p.1 ≠ key }

/-- A delivered packet is noted and acknowledged (R401). -/
def State.received (s : State) (k : PodPacket) : State :=
  ({ s with fabric := s.fabric.note k } : State).signal (.ack k.src k.part k.number)

/-- Deliver held packets of a stream whose gap is filled; one that meets a full queue waits for it (R395). -/
def State.deliverHeld : Nat → State → State
  | 0, s => s
  | fuel + 1, s =>
    match s.fabric.heldMin.find? fun k => k.index = s.fabric.expected k with
    | none => s
    | some k =>
      let s' : State := { s with fabric := { s.fabric with heldMin := s.fabric.heldMin.filter fun x => !k.same x } }
      State.deliverHeld fuel (match s'.deliverPod k with
        | some t => t.received k
        | none => { s' with fabric := { s'.fabric with ingress := s'.fabric.ingress ++ [k] } })

/-- A packet is delivered, and what its stream held behind it. -/
def State.afterPacket (s : State) (k : PodPacket) : State :=
  State.deliverHeld (s.fabric.heldMin.length + 1) (s.received k)

/-! ### The ingress queues (R395, R400) -/

/-- Bytes that wait at a die port, of the sources that a test picks. -/
def Fabric.waitingBytes (f : Fabric) (port : Nat) (pick : Nat → Bool) : Nat :=
  ((f.ingress.filter fun k => k.diePort = port && pick k.src).map PodPacket.bytes).foldl (· + ·) 0

/-- Insert a source before those with fewer bytes. -/
def insertSource (bytes : Nat → Nat) (x : Nat) : List Nat → List Nat
  | [] => [x]
  | y :: ys => if bytes y < bytes x then x :: y :: ys else y :: insertSource bytes x ys

/-- The up to eight sources with the most bytes at a die port (R400). -/
def Fabric.worst (f : Fabric) (port : Nat) : List Nat :=
  let bytes (x : Nat) : Nat := f.waitingBytes port fun y => y = x
  (((f.ingress.filter fun k => k.diePort = port).map fun k => k.src).eraseDups.foldl (fun l x => insertSource bytes x l) []).take 8

/-- A packet that a full queue stops joins its ingress queue; one that meets a full ingress queue is trimmed. As it passes
three quarters, back-notices go out (R400). -/
def State.queuePacket (s : State) (k : PodPacket) : State :=
  let f := s.fabric
  let old := f.waitingBytes k.diePort fun _ => true
  let now := old + k.bytes
  if Config.ingressBytes < now then s.signal (.again k.src k.part k.number)
  else
    let t : State := { s with fabric := { f with ingress := f.ingress ++ [k] } }
    if 4 * old ≤ 3 * Config.ingressBytes && 3 * Config.ingressBytes < 4 * now then
      { (t.fabric.worst k.diePort).foldl (fun t x => t.signal (.notice x (1 + Config.rateCode s.draws % 15))) t with
        draws := s.draws + 1 }
    else t

/-- The packets that wait in an ingress queue are tried again, each channel by itself (R395). -/
def State.retryIngress (s : State) : State :=
  s.fabric.ingress.foldl (fun s k =>
    if !s.fabric.ingress.contains k then s
    else match s.deliverPod k with
      | some t => t.afterPacket k
      | none => s) s

/-- POD_PACKET_RECEIVE (R398, R400, R401): a trimmed one is asked for again; one for another package is passed on; a second
copy is dropped but for a window fragment; one behind a gap of its stream is held; one that a full queue stops waits. -/
def execPodPacketReceive (k : PodPacket) (s : State) : Host.Outcome State Fault Refusal :=
  let f := s.fabric
  let ack : State := s.signal (.ack k.src k.part k.number)
  if k.hop ≠ s.system.pkgid then .next s
  else if k.full then .next (s.signal (.again k.src k.part k.number))
  else if k.dst ≠ s.system.pkgid then .next (s.relay k)
  else if f.holds k then .next s
  else if f.delivered k then
    .next (if k.isFragment then match s.deliverPod k with | some t => t.received k | none => s.queuePacket k else ack)
  else if k.stream ≠ 0 && f.expected k < k.index then .next { s with fabric := { f with heldMin := f.heldMin ++ [k] } }
  else
    match s.deliverPod k with
    | some t => .next (t.afterPacket k)
    | none => .next (s.queuePacket k)

/-! ## The transport of kept packets (R399-R401) -/

/-- Kept packets that a test picks go out again, each with a change, in order. -/
def State.sendAgain (s : State) (pick : Kept → Bool) (g : Kept → Kept) : State :=
  s.fabric.kept.foldl (fun s k =>
    if pick k then
      let k' := s.fabric.emit (g k) s.clk
      { s with fabric := ({ s.fabric with kept := s.fabric.kept.map fun x => if x.id = k.id then k' else x } : Fabric).settleWay k' }
    else s) s

/-- RETRANSMIT_REQUEST (R400, R401): ignored where a time-out came first. -/
def execRetransmitRequest (id : Nat) (s : State) : Host.Outcome State Fault Refusal :=
  .next (s.sendAgain (fun k => k.id = id && k.resent ≠ some false && k.plane ≠ 256) fun k => { k with resent := some true })

/-- 20 us in clk. -/
def podTimeout : Nat := 42000

/-- POD_RETRANSMIT_TIMEOUT (R401): ignored where a request came first. -/
def execPodRetransmitTimeout (id : Nat) (s : State) : Host.Outcome State Fault Refusal :=
  .next (s.sendAgain (fun k => k.id = id && k.resent ≠ some true && k.plane ≠ 256 && decide (k.sentAt + podTimeout ≤ s.clk))
    fun k => { k with resent := some false })

/-- Packets of a stream that was held are sent once nothing holds it (R399). -/
def State.releaseStream (s : State) (dst stream : Nat) : State :=
  if s.fabric.streamHeld dst stream then s
  else s.sendAgain (fun k => k.plane = 256 && k.packet.dst = dst && k.packet.stream = stream) id

/-- The access carried by an acknowledged packet has landed, unless it waits for a reply; a placement is over once no packet
of it is out. -/
def State.acknowledged (s : State) (packet : Nat) : State :=
  { s with
    net := s.net.filter fun a => a.sent ≠ some packet || match a.work with
      | .load _ _ _ _ => true
      | .svc r _ => r.ret
      | _ => false
    placements := s.placements.filterMap fun p =>
      if p.sent.contains packet then
        if p.sent.all fun x => x = packet then none else some { p with sent := p.sent.filter fun x => x ≠ packet }
      else some p }

/-- POD_ACK (R401). -/
def execPodAck (id : Nat) (s : State) : Host.Outcome State Fault Refusal :=
  match s.fabric.kept.find? fun k => k.id = id with
  | none => .next s
  | some k =>
    let s : State := { s with fabric := { s.fabric with kept := s.fabric.kept.filter fun x => x.id ≠ id } }
    .next ((s.acknowledged id).releaseStream k.packet.dst k.packet.stream)

/-- BACK_NOTICE (R400): a lower limit that is in force stays. -/
def execBackNotice (dest code : Nat) (s : State) : Host.Outcome State Fault Refusal :=
  if code = 0 || 15 < code then .next s
  else
    let f := s.fabric
    .next { s with fabric := { f with codes := put f.codes dest (max (f.code dest).1 code, s.clk) } }

/-- PACING_DECAY (R400). -/
def execPacingDecay (dest : Nat) (s : State) : Host.Outcome State Fault Refusal :=
  let f := s.fabric
  let (c, since) := f.code dest
  if c = 0 || s.clk < since + 1024 then .next s
  else if c = 1 then .next { s with fabric := { f with codes := drop f.codes dest } }
  else .next { s with fabric := { f with codes := put f.codes dest (c - 1, s.clk) } }

/-- PLANE_FAIL (R399): the packets on the plane go out on live ones, and the streams that it carried are held until those
are acknowledged. -/
def execPlaneFail (plane : Nat) (s : State) : Host.Outcome State Fault Refusal :=
  let f := s.fabric
  if 256 ≤ plane || !f.planes.getLsbD plane then .next s
  else
    let s : State := { s with fabric := { f with
      planes := f.planes &&& ~~~(1#256 <<< plane), ways := f.ways.filter fun w => w.2 ≠ plane } }
    .next (s.sendAgain (fun k => k.plane = plane) fun k => { k with moved := true })

/-! ## Ultra Ethernet (R402) -/

/-- NEGATIVE_ACKNOWLEDGEMENT (R402): the payload is sent again. -/
def execNegativeAcknowledgement (id : Nat) (s : State) : Host.Outcome State Fault Refusal :=
  match s.placements.find? fun p => p.id = id with
  | none => .next s
  | some p => .next (if (p.ueSends.getD 0) = 0 then s else s.placeUe p)

/-! ## Pod time (R407) -/

/-- POD_TIME_MEASURE (R407): once every 65,536 clk, by a package whose optics are up, against the lowest-numbered such
package, itself among them. -/
def execPodTimeMeasure (reference : Nat) (offset : Int) (s : State) : Host.Outcome State Fault Refusal :=
  let y := s.system
  if s.clk % 65536 ≠ 0 || y.measuredAt = some s.clk || s.fabric.planes = 0 || y.pkgid < reference then .next s
  else
    let o : Int := if reference = y.pkgid then 0 else offset
    let run := if o.natAbs ≤ 4 then y.lockRun + 1 else 0
    .next { s with system := { y with ref_ := reference, offset := o, lockRun := run, lock := decide (4 ≤ run), slew := o, measuredAt := some s.clk } }

/-! ## Router sleep (R393) -/

/-- The router of a tile: 0-31 on the request mesh, 32-63 on the reply mesh. -/
def Die.router (d : Die) (r : Nat) : Router := lookD Router.reset d.routers r

/-- A router decides to power down now. -/
def Die.routerIdle (d : Die) (x : Router) (clk : Nat) : Bool :=
  d.rslpEn && !x.asleep && decide (x.idleSince + d.rslpIdle ≤ clk) && decide (x.awakeUntil ≤ clk)

/-- ROUTER_POWER_DOWN (R393). -/
def execRouterPowerDown (die router : Nat) (s : State) : Host.Outcome State Fault Refusal :=
  let d := s.die die
  let x := d.router router
  if 64 ≤ router || !d.routerIdle x s.clk then .next s
  else .next (s.setDie die { d with routers := put d.routers router { x with asleep := true, idleSince := s.clk } })

/-- ROUTER_WAKE (R393): a wake in the clock of the decision wins. -/
def execRouterWake (die router : Nat) (s : State) : Host.Outcome State Fault Refusal :=
  let d := s.die die
  let x := d.router router
  let meets := (x.asleep && x.idleSince = s.clk) || d.routerIdle x s.clk
  if 64 ≤ router || decide (s.clk < x.awakeUntil) then .next s
  else
    let x' : Router := { asleep := false, idleSince := s.clk, awakeUntil := if meets then s.clk + 256 else x.awakeUntil }
    .next (s.setDie die { d with routers := put d.routers router x' })

/-! ## The host (R404) -/

/-- BAR2's answer to a read: all ones beyond the DRAM, and free values for a poisoned granule, which is
logged (DESIGN CHOICE log 11). -/
def State.bar2Read (s : State) (off len : Nat) : State :=
  let pa := mkPa s.system.pkgid 0 off
  let n := min len (dramSize - off)
  let bad := (granules pa n).find? s.poison.contains
  let s1 := match bad with
    | some g => s.logCheck (s.home (32 * g)) 0 3 0 0 0 (32 * g)
    | none => s.readDone pa n
  let byte (i : Nat) : Byte :=
    if n ≤ i then 0xFF
    else if s.poison.contains ((pa + i) / 32) then (Config.freeWord (s.draws + i)).extractLsb' 0 8
    else sget 0 s.mem (pa + i)
  let s2 := s1.recallRange pa n
  { s2 with
    draws := s.draws + len
    system := { s2.system with responses := s2.system.responses ++ [(List.range len).map byte] } }

/-- HOST_BAR2_ACCESS (R404): enabled once bring-up is complete (R419). -/
def execHostBar2Access (off : Nat) (access : HostAccess) (s : State) : Host.Outcome State Fault Refusal :=
  if !s.system.ready || 2 ^ 40 ≤ off then .next s
  else
    match access with
    | .read len => .next (s.bar2Read off (min len 4096))
    | .write data =>
      let d := data.take (min 512 (dramSize - off))
      if d = [] then .next s
      else .next (s.writeHome 0 (mkPa s.system.pkgid 0 off) d none)

/-- An access of the host through BAR0 (R404, R416), which acts at SYS; before READY only BOOTSTAT answers (R419). -/
def State.bar0 (s : State) (off : Nat) (access : HostAccess) : State :=
  match access with
  | .read len =>
    let n := min len 4096
    if 2 ^ 28 < off + n || (!s.system.ready && !(off = 8 * 0x358 && n ≤ 8)) then s
    else
      { s with
        draws := s.draws + n + 16
        system := { s.system with responses := s.system.responses ++ [s.devRead .sys off n] } }
  | .write data =>
    let d := data.take 512
    if 2 ^ 28 < off + d.length || !s.system.ready then s else State.devStore .sys none 65 s off d

/-! ## Job bindings and memory errors -/

/-- JOB_BINDING (R20). -/
def execJobBinding (part : Nat) (job : Option Job) (s : State) : Host.Outcome State Fault Refusal :=
  .next (if s.exists_ part then s.setPartition part { s.partition part with job := job } else s)

/-- A granule from now on holds an error that a read corrects (R103). -/
def State.softError (s : State) (site : ErrorSite) : State :=
  let real : Bool := match site with
    | .dram pa => s.ownDram pa && !paBad pa && pa % 32 = 0
    | .vault wg off => off % 32 = 0 && ((s.wg? wg).map fun g => decide (off < g.vaultSize)).getD false
  if real && !s.soft.contains site then { s with soft := s.soft ++ [site] } else s

/-- UNCORRECTABLE_ERROR (R103, R104): the granule reads as poisoned from now on. -/
def execUncorrectableError (site : ErrorSite) (s : State) : Host.Outcome State Fault Refusal :=
  match site with
  | .dram pa => .next (if s.ownDram pa && !paBad pa then { s with poison := addPoison s.poison [pa / 32] } else s)
  | .vault wg off =>
    .next (s.modWg wg fun g => if off < g.vaultSize then { g with poison := addPoison g.poison [off / 32] } else g)

end Sys2Proof.Machine
end

