-- ==== Sys2Proof/Machine/Boot.lean ====
section
/-! DEFINITION. Package reset, firmware verification, bring-up (R419-R422), and SPDM (R406). -/

namespace Sys2Proof.Machine

open Sys2Proof

/-! ## Images (R420, R421) -/

/-- Bytes `off` to `off + n - 1` of an image. -/
def imageBytes (img : List Byte) (off n : Nat) : List Byte := (img.drop off).take n

/-- LENGTH of the body. -/
def imageLength (img : List Byte) : Nat := leNat (imageBytes img 16 8)

/-- The body of an image. -/
def imageBody (img : List Byte) : List Byte := (img.drop 256).take (imageLength img)

/-- The magic and the zero fields of a header. -/
def imageForm (img : List Byte) : Bool :=
  decide (256 + imageLength img ≤ img.length) && decide (leNat (imageBytes img 0 4) = 0x5A4B4657)
    && (imageBytes img 9 7 ++ imageBytes img 168 88).all fun b => b = 0

/-- R421: what the ROM accepts, with the fused minimum and the revoked keys. -/
def System.accepts (y : System) (img : List Byte) : Bool :=
  let key := leNat (imageBytes img 8 1)
  imageForm img && decide (key < 4) && !y.revoked.getLsbD key
    && Config.verify key (imageBytes img 0 72) (imageBytes img 72 96)
    && decide (y.minSvn ≤ leNat (imageBytes img 4 4))
    && decide (Config.sha384 (imageBody img) = imageBytes img 24 48)

/-! ## Bring-up (R419, R422) -/

/-- Bring-up from a verified image, to READY. -/
def System.boot (y : System) (img : List Byte) (err : Nat) : System :=
  let y := ((((y.extend 1 (Config.sha384 Config.rom)).extend 2 (imageBytes img 0 168)).extend 3 (imageBody img)).extend 4
    Config.serviceFirmware).extend 5 Config.fuses
  { y with ready := true, stage := 5, err := err, pkgid := Config.packageIndex % 32, dies := Config.diesUp }

/-- The machine goes to READY from a verified image (DEDUCED log 60). -/
def State.bootFrom (s : State) (img : List Byte) (err : Nat) : State :=
  { s with
    system := s.system.boot img err
    fabric := { s.fabric with planes := Config.planesUp } }

/-- What a package reset leaves as it was: DRAM, its soft errors, flash and fuses; and what the model itself counts
(DESIGN CHOICE log 17). -/
def State.packageReset (s : State) : State :=
  { State.reset with
    mem := s.mem, poison := s.poison, soft := s.soft, agenda := s.agenda, turn := s.turn, draws := s.draws,
    nextId := s.nextId,
    system := { System.reset with
      slotA := s.system.slotA, slotB := s.system.slotB, minSvn := s.system.minSvn, revoked := s.system.revoked } }

/-- PACKAGE_RESET (R419, R421): slot A, then slot B, and where both fail the recovery mailbox. Whether ERR tells
of a rejected slot A is free. -/
def execPackageReset (s : State) : Host.Outcome State Fault Refusal :=
  let r := s.packageReset
  let y := r.system
  if y.accepts y.slotA then .next (r.bootFrom y.slotA 0)
  else if y.accepts y.slotB then
    let t := r.bootFrom y.slotB (if Config.coin s.draws then 1 else 0)
    .next { t with draws := s.draws + 1 }
  else .next { r with system := { y with stage := 1, err := 2 } }

/-- RECOVERY_IMAGE (R419, R421): read while bring-up waits for an image. -/
def execRecoveryImage (image : List Byte) (s : State) : Host.Outcome State Fault Refusal :=
  let y := s.system
  if y.ready || y.err ≠ 2 || !y.accepts image then .next s else .next (s.bootFrom image 2)

/-! ## SPDM (R406, R422) -/

/-- A response leaves over DOE. -/
def State.respond (s : State) (bytes : List Byte) : State :=
  { s with system := { s.system with responses := s.system.responses ++ [bytes] } }

/-- GET_VERSION (R406): it gives SPDM 1.2, by its major and minor number. -/
def execGetVersion (s : State) : Host.Outcome State Fault Refusal := .next (s.respond (Config.spdm 0 [1, 2]))

/-- GET_CAPABILITIES (R406). -/
def execGetCapabilities (s : State) : Host.Outcome State Fault Refusal := .next (s.respond (Config.spdm 1 []))

/-- What an answer names of an offer: ECDSA on P-384 as 1 and SHA-384 as 2, and nothing else (R406). -/
def chosenAlgorithms (offer : List SpdmAlgorithm) : List Byte :=
  (if offer.contains .ecdsaP384 then [1] else []) ++ if offer.contains .sha384 then [2] else []

/-- NEGOTIATE_ALGORITHMS (R406): of the requester's offer, the only algorithms of the package that it holds. -/
def execNegotiateAlgorithms (s : State) : Host.Outcome State Fault Refusal :=
  .next (s.respond (Config.spdm 2 (chosenAlgorithms s.system.offer)))

/-- The requester's next message of NEGOTIATE_ALGORITHMS holds an offer. -/
def State.spdmOffer (s : State) (offer : List SpdmAlgorithm) : State := { s with system := { s.system with offer := offer } }

/-- GET_DIGESTS (R406). -/
def execGetDigests (s : State) : Host.Outcome State Fault Refusal := .next (s.respond (Config.spdm 3 []))

/-- GET_CERTIFICATE (R406). -/
def execGetCertificate (s : State) : Host.Outcome State Fault Refusal := .next (s.respond (Config.spdm 4 []))

/-- CHALLENGE (R406): a response signed over the nonce. -/
def execChallenge (nonce : List Byte) (s : State) : Host.Outcome State Fault Refusal :=
  let body := Config.spdm 5 nonce
  .next (s.respond (body ++ Config.sign (nonce ++ body)))

/-- The seven measurements (R422). -/
def System.measurements (y : System) : List Byte :=
  (List.range 7).flatMap fun i => lookD (List.replicate 48 0) y.measures (i + 1)

/-- GET_MEASUREMENTS (R406, R422). -/
def execGetMeasurements (nonce : List Byte) (s : State) : Host.Outcome State Fault Refusal :=
  .next (s.respond (s.system.measurements ++ Config.sign (nonce ++ s.system.measurements)))

end Sys2Proof.Machine
end

