-- ==== Sys2Proof/Machine/Dispatch.lean ====
section
/-! DEFINITION. The dispatch: one arm per row of the table of steps. -/

namespace Sys2Proof.Machine

open Sys2Proof

def exec (i : Instr) (s : State) : Host.Outcome State Fault Refusal :=
  match i with
  | .nop f => Sys2Proof.Machine.execNop f s
  | .bra f => Sys2Proof.Machine.execBra f s
  | .brx f => Sys2Proof.Machine.execBrx f s
  | .call f => Sys2Proof.Machine.execCall f s
  | .callx f => Sys2Proof.Machine.execCallx f s
  | .ret f => Sys2Proof.Machine.execRet f s
  | .exit f => Sys2Proof.Machine.execExit f s
  | .yield f => Sys2Proof.Machine.execYield f s
  | .sleep f => Sys2Proof.Machine.execSleep f s
  | .sleepto f => Sys2Proof.Machine.execSleepto f s
  | .trap f => Sys2Proof.Machine.execTrap f s
  | .bkpt f => Sys2Proof.Machine.execBkpt f s
  | .wsync f => Sys2Proof.Machine.execWsync f s
  | .ivl f => Sys2Proof.Machine.execIvl f s
  | .launch f => Sys2Proof.Machine.execLaunch f s
  | .amsend f => Sys2Proof.Machine.execAmsend f s
  | .iadd f => Sys2Proof.Machine.execIadd f s
  | .isub f => Sys2Proof.Machine.execIsub f s
  | .iadd64 f => Sys2Proof.Machine.execIadd64 f s
  | .isub64 f => Sys2Proof.Machine.execIsub64 f s
  | .imul f => Sys2Proof.Machine.execImul f s
  | .imulh f => Sys2Proof.Machine.execImulh f s
  | .imad f => Sys2Proof.Machine.execImad f s
  | .imadw f => Sys2Proof.Machine.execImadw f s
  | .imin f => Sys2Proof.Machine.execImin f s
  | .imax f => Sys2Proof.Machine.execImax f s
  | .iabs f => Sys2Proof.Machine.execIabs f s
  | .ishl f => Sys2Proof.Machine.execIshl f s
  | .ishr f => Sys2Proof.Machine.execIshr f s
  | .shf f => Sys2Proof.Machine.execShf f s
  | .lop3 f => Sys2Proof.Machine.execLop3 f s
  | .popc f => Sys2Proof.Machine.execPopc f s
  | .clz f => Sys2Proof.Machine.execClz f s
  | .brev f => Sys2Proof.Machine.execBrev f s
  | .bfe f => Sys2Proof.Machine.execBfe f s
  | .bfi f => Sys2Proof.Machine.execBfi f s
  | .prmt f => Sys2Proof.Machine.execPrmt f s
  | .lea f => Sys2Proof.Machine.execLea f s
  | .sel f => Sys2Proof.Machine.execSel f s
  | .mov f => Sys2Proof.Machine.execMov f s
  | .movi f => Sys2Proof.Machine.execMovi f s
  | .movw f => Sys2Proof.Machine.execMovw f s
  | .icmp f => Sys2Proof.Machine.execIcmp f s
  | .icmp64 f => Sys2Proof.Machine.execIcmp64 f s
  | .plop f => Sys2Proof.Machine.execPlop f s
  | .ppack f => Sys2Proof.Machine.execPpack f s
  | .pset f => Sys2Proof.Machine.execPset f s
  | .fadd f => Sys2Proof.Machine.execFadd f s
  | .fmul f => Sys2Proof.Machine.execFmul f s
  | .ffma f => Sys2Proof.Machine.execFfma f s
  | .fmin f => Sys2Proof.Machine.execFmin f s
  | .fmax f => Sys2Proof.Machine.execFmax f s
  | .fcmp f => Sys2Proof.Machine.execFcmp f s
  | .frnd f => Sys2Proof.Machine.execFrnd f s
  | .frcp f => Sys2Proof.Machine.execFrcp f s
  | .frsq f => Sys2Proof.Machine.execFrsq f s
  | .fsqrt f => Sys2Proof.Machine.execFsqrt f s
  | .fex2 f => Sys2Proof.Machine.execFex2 f s
  | .flg2 f => Sys2Proof.Machine.execFlg2 f s
  | .fsin f => Sys2Proof.Machine.execFsin f s
  | .fcos f => Sys2Proof.Machine.execFcos f s
  | .ftanh f => Sys2Proof.Machine.execFtanh f s
  | .fsigm f => Sys2Proof.Machine.execFsigm f s
  | .hadd2 f => Sys2Proof.Machine.execHadd2 f s
  | .hmul2 f => Sys2Proof.Machine.execHmul2 f s
  | .hfma2 f => Sys2Proof.Machine.execHfma2 f s
  | .hmax2 f => Sys2Proof.Machine.execHmax2 f s
  | .f2i f => Sys2Proof.Machine.execF2i f s
  | .i2f f => Sys2Proof.Machine.execI2f f s
  | .cvt f => Sys2Proof.Machine.execCvt f s
  | .cvtp f => Sys2Proof.Machine.execCvtp f s
  | .fclass f => Sys2Proof.Machine.execFclass f s
  | .wshfl f => Sys2Proof.Machine.execWshfl f s
  | .wvote f => Sys2Proof.Machine.execWvote f s
  | .wredux f => Sys2Proof.Machine.execWredux f s
  | .ldv f => Sys2Proof.Machine.execLdv f s
  | .stv f => Sys2Proof.Machine.execStv f s
  | .ld f => Sys2Proof.Machine.execLd f s
  | .st f => Sys2Proof.Machine.execSt f s
  | .atom f => Sys2Proof.Machine.execAtom f s
  | .red f => Sys2Proof.Machine.execRed f s
  | .fence f => Sys2Proof.Machine.execFence f s
  | .pref f => Sys2Proof.Machine.execPref f s
  | .ldl f => Sys2Proof.Machine.execLdl f s
  | .bufdecl f => Sys2Proof.Machine.execBufdecl f s
  | .bufset f => Sys2Proof.Machine.execBufset f s
  | .bufq f => Sys2Proof.Machine.execBufq f s
  | .xcopy f => Sys2Proof.Machine.execXcopy f s
  | .xgath f => Sys2Proof.Machine.execXgath f s
  | .xfill f => Sys2Proof.Machine.execXfill f s
  | .xdrain f => Sys2Proof.Machine.execXdrain f s
  | .xstat f => Sys2Proof.Machine.execXstat f s
  | .xwait f => Sys2Proof.Machine.execXwait f s
  | .ltinit f => Sys2Proof.Machine.execLtinit f s
  | .ltexp f => Sys2Proof.Machine.execLtexp f s
  | .ltarr f => Sys2Proof.Machine.execLtarr f s
  | .ltwait f => Sys2Proof.Machine.execLtwait f s
  | .lttry f => Sys2Proof.Machine.execLttry f s
  | .phreg f => Sys2Proof.Machine.execPhreg f s
  | .phdrop f => Sys2Proof.Machine.execPhdrop f s
  | .phsig f => Sys2Proof.Machine.execPhsig f s
  | .phwait f => Sys2Proof.Machine.execPhwait f s
  | .phnext f => Sys2Proof.Machine.execPhnext f s
  | .phtry f => Sys2Proof.Machine.execPhtry f s
  | .rgrow f => Sys2Proof.Machine.execRgrow f s
  | .rshrink f => Sys2Proof.Machine.execRshrink f s
  | .rdcap f => Sys2Proof.Machine.execRdcap f s
  | .rdrmw f => Sys2Proof.Machine.execRdrmw f s
  | .rdboard f => Sys2Proof.Machine.execRdboard f s
  | .rdalight f => Sys2Proof.Machine.execRdalight f s
  | .rdfence f => Sys2Proof.Machine.execRdfence f s
  | .rdcancel f => Sys2Proof.Machine.execRdcancel f s
  | .oclaim f => Sys2Proof.Machine.execOclaim f s
  | .orelease f => Sys2Proof.Machine.execOrelease f s
  | .oload f => Sys2Proof.Machine.execOload f s
  | .ofence f => Sys2Proof.Machine.execOfence f s
  | .layset f => Sys2Proof.Machine.execLayset f s
  | .msign f => Sys2Proof.Machine.execMsign f s
  | .mma f => Sys2Proof.Machine.execMma f s
  | .mwait f => Sys2Proof.Machine.execMwait f s
  | .mtrans f => Sys2Proof.Machine.execMtrans f s
  | .mperm f => Sys2Proof.Machine.execMperm f s
  | .mrsum f => Sys2Proof.Machine.execMrsum f s
  | .aclr f => Sys2Proof.Machine.execAclr f s
  | .aread f => Sys2Proof.Machine.execAread f s
  | .adrain f => Sys2Proof.Machine.execAdrain f s
  | .awrite f => Sys2Proof.Machine.execAwrite f s
  | .knock f => Sys2Proof.Machine.execKnock f s
  | .qblk f => Sys2Proof.Machine.execQblk f s
  | .qres f => Sys2Proof.Machine.execQres f s
  | .desc f => Sys2Proof.Machine.execDesc f s
  | .pgroup f => Sys2Proof.Machine.execPgroup f s
  | .ptread f => Sys2Proof.Machine.execPtread f s
  | .nodea f => Sys2Proof.Machine.execNodea f s
  | .dgrad f => Sys2Proof.Machine.execDgrad f s
  | .cwarm f => Sys2Proof.Machine.execCwarm f s
  | .cwstat f => Sys2Proof.Machine.execCwstat f s
  | .csrr f => Sys2Proof.Machine.execCsrr f s
  | .csrw f => Sys2Proof.Machine.execCsrw f s
  | .tlbinv f => Sys2Proof.Machine.execTlbinv f s
  | .eret f => Sys2Proof.Machine.execEret f s
  | .snap f => Sys2Proof.Machine.execSnap f s
  | .svcrecv f => Sys2Proof.Machine.execSvcrecv f s
  | .svcreply f => Sys2Proof.Machine.execSvcreply f s
  | .halt f => Sys2Proof.Machine.execHalt f s
  | .cnop c => Sys2Proof.Machine.execCnop c s
  | .cjmp c => Sys2Proof.Machine.execCjmp c s
  | .cbr c => Sys2Proof.Machine.execCbr c s
  | .cend c => Sys2Proof.Machine.execCend c s
  | .cyield c => Sys2Proof.Machine.execCyield c s
  | .cmov c => Sys2Proof.Machine.execCmov c s
  | .cldi c => Sys2Proof.Machine.execCldi c s
  | .cadd c => Sys2Proof.Machine.execCadd c s
  | .csub c => Sys2Proof.Machine.execCsub c s
  | .cand c => Sys2Proof.Machine.execCand c s
  | .cor c => Sys2Proof.Machine.execCor c s
  | .cshr c => Sys2Proof.Machine.execCshr c s
  | .cshl c => Sys2Proof.Machine.execCshl c s
  | .ccmp c => Sys2Proof.Machine.execCcmp c s
  | .cstage c => Sys2Proof.Machine.execCstage c s
  | .cseen c => Sys2Proof.Machine.execCseen c s
  | .cready c => Sys2Proof.Machine.execCready c s
  | .ccomb c => Sys2Proof.Machine.execCcomb c s
  | .cplace c => Sys2Proof.Machine.execCplace c s
  | .cdropf c => Sys2Proof.Machine.execCdropf c s
  | .cfwd c => Sys2Proof.Machine.execCfwd c s
  | .cmcast c => Sys2Proof.Machine.execCmcast c s
  | .cack c => Sys2Proof.Machine.execCack c s
  | .csig c => Sys2Proof.Machine.execCsig c s
  | .ccnt c => Sys2Proof.Machine.execCcnt c s
  | .ctime c => Sys2Proof.Machine.execCtime c s
  | .packageReset => Sys2Proof.Machine.execPackageReset s
  | .recoveryImage image => Sys2Proof.Machine.execRecoveryImage image s
  | .thermalTrip temp => Sys2Proof.Machine.execThermalTrip temp s
  | .getVersion => Sys2Proof.Machine.execGetVersion s
  | .getCapabilities => Sys2Proof.Machine.execGetCapabilities s
  | .negotiateAlgorithms => Sys2Proof.Machine.execNegotiateAlgorithms s
  | .getDigests => Sys2Proof.Machine.execGetDigests s
  | .getCertificate => Sys2Proof.Machine.execGetCertificate s
  | .challenge nonce => Sys2Proof.Machine.execChallenge nonce s
  | .getMeasurements nonce => Sys2Proof.Machine.execGetMeasurements nonce s
  | .hostBar2Access off access => Sys2Proof.Machine.execHostBar2Access off access s
  | .qdoorWrite part queue value writer => Sys2Proof.Machine.execQdoorWrite part queue value writer s
  | .qcfgWrite part queue value => Sys2Proof.Machine.execQcfgWrite part queue value s
  | .qringWrite part queue num value => Sys2Proof.Machine.execQringWrite part queue num value s
  | .qphalWrite part queue num value => Sys2Proof.Machine.execQphalWrite part queue num value s
  | .pphalWrite part num value => Sys2Proof.Machine.execPphalWrite part num value s
  | .qrootWrite part queue num value => Sys2Proof.Machine.execQrootWrite part queue num value s
  | .srootWrite part num value => Sys2Proof.Machine.execSrootWrite part num value s
  | .preqSave part queue entry => Sys2Proof.Machine.execPreqSave part queue entry s
  | .preqKill part queue entry => Sys2Proof.Machine.execPreqKill part queue entry s
  | .dbgctlGo die core slot => Sys2Proof.Machine.execDbgctlGo die core slot s
  | .dbgctlKill die core slot => Sys2Proof.Machine.execDbgctlKill die core slot s
  | .partctlGo value writer => Sys2Proof.Machine.execPartctlGo value writer s
  | .layoutChangeDone => Sys2Proof.Machine.execLayoutChangeDone s
  | .ringClear part => Sys2Proof.Machine.execRingClear part s
  | .fptsetSelect value => Sys2Proof.Machine.execFptsetSelect value s
  | .fptsetWrite value writer => Sys2Proof.Machine.execFptsetWrite value writer s
  | .slcfgWrite die value => Sys2Proof.Machine.execSlcfgWrite die value s
  | .slmapWrite die value => Sys2Proof.Machine.execSlmapWrite die value s
  | .sliceRemapDone die => Sys2Proof.Machine.execSliceRemapDone die s
  | .windowBind window writer => Sys2Proof.Machine.execWindowBind window writer s
  | .windowUnbind window writer => Sys2Proof.Machine.execWindowUnbind window writer s
  | .programLoad program value => Sys2Proof.Machine.execProgramLoad program value s
  | .endpointWrite entry word value writer => Sys2Proof.Machine.execEndpointWrite entry word value writer s
  | .registerWrite num value site => Sys2Proof.Machine.execRegisterWrite num value site s
  | .recordCheck part queue => Sys2Proof.Machine.execRecordCheck part queue s
  | .entryEligible part queue entry => Sys2Proof.Machine.execEntryEligible part queue entry s
  | .gangPlace part => Sys2Proof.Machine.execGangPlace part s
  | .placementStarvation part queue entry => Sys2Proof.Machine.execPlacementStarvation part queue entry s
  | .sliceExpiry gang => Sys2Proof.Machine.execSliceExpiry gang s
  | .gangSave gang => Sys2Proof.Machine.execGangSave gang s
  | .gangRestore part => Sys2Proof.Machine.execGangRestore part s
  | .workgroupRetire wg => Sys2Proof.Machine.execWorkgroupRetire wg s
  | .entryComplete part queue entry => Sys2Proof.Machine.execEntryComplete part queue entry s
  | .activeMessageArrive id => Sys2Proof.Machine.execActiveMessageArrive id s
  | .handlerStart die core => Sys2Proof.Machine.execHandlerStart die core s
  | .serviceRequestArrive die quad => Sys2Proof.Machine.execServiceRequestArrive die quad s
  | .longLatencyResult die core slot lane id => Sys2Proof.Machine.execLongLatencyResult die core slot lane id s
  | .rgrowGrant die core => Sys2Proof.Machine.execRgrowGrant die core s
  | .intervalReload die core slot => Sys2Proof.Machine.execIntervalReload die core slot s
  | .storeQueueDrain die core slot => Sys2Proof.Machine.execStoreQueueDrain die core slot s
  | .directAccessPerform id => Sys2Proof.Machine.execDirectAccessPerform id s
  | .cacheFill die line => Sys2Proof.Machine.execCacheFill die line s
  | .directoryRecall die line => Sys2Proof.Machine.execDirectoryRecall die line s
  | .sleepWake die core slot lane => Sys2Proof.Machine.execSleepWake die core slot lane s
  | .lttryTimeout die core slot lane => Sys2Proof.Machine.execLttryTimeout die core slot lane s
  | .phtryTimeout die core slot lane => Sys2Proof.Machine.execPhtryTimeout die core slot lane s
  | .copyTakeup wg => Sys2Proof.Machine.execCopyTakeup wg s
  | .copyArrival wg copy off len => Sys2Proof.Machine.execCopyArrival wg copy off len s
  | .copyComplete wg copy => Sys2Proof.Machine.execCopyComplete wg copy s
  | .copyFail wg copy off => Sys2Proof.Machine.execCopyFail wg copy off s
  | .xwaitTimeout die core slot lane => Sys2Proof.Machine.execXwaitTimeout die core slot lane s
  | .ringOpEligible op => Sys2Proof.Machine.execRingOpEligible op s
  | .ringSlotPass part station => Sys2Proof.Machine.execRingSlotPass part station s
  | .ringOpMissing op => Sys2Proof.Machine.execRingOpMissing op s
  | .ringFull op => Sys2Proof.Machine.execRingFull op s
  | .oloadComplete wg id => Sys2Proof.Machine.execOloadComplete wg id s
  | .ticketComplete wg => Sys2Proof.Machine.execTicketComplete wg s
  | .knockGrant die core slot lane => Sys2Proof.Machine.execKnockGrant die core slot lane s
  | .tokenGrant die core pane => Sys2Proof.Machine.execTokenGrant die core pane s
  | .tokenIdleReturn die core pane => Sys2Proof.Machine.execTokenIdleReturn die core pane s
  | .powerEvaluate average fast temp => Sys2Proof.Machine.execPowerEvaluate average fast temp s
  | .fragmentArrive id => Sys2Proof.Machine.execFragmentArrive id s
  | .invocationStart window => Sys2Proof.Machine.execInvocationStart window s
  | .timerInvocation window => Sys2Proof.Machine.execTimerInvocation window s
  | .csigArrival window => Sys2Proof.Machine.execCsigArrival window s
  | .placementDeliver id => Sys2Proof.Machine.execPlacementDeliver id s
  | .ueFragmentArrive frag => Sys2Proof.Machine.execUeFragmentArrive frag s
  | .ueTransportAck id => Sys2Proof.Machine.execUeTransportAck id s
  | .ueRetransmit id => Sys2Proof.Machine.execUeRetransmit id s
  | .podPacketReceive packet => Sys2Proof.Machine.execPodPacketReceive packet s
  | .backNotice dest code => Sys2Proof.Machine.execBackNotice dest code s
  | .retransmitRequest id => Sys2Proof.Machine.execRetransmitRequest id s
  | .podAck id => Sys2Proof.Machine.execPodAck id s
  | .podRetransmitTimeout id => Sys2Proof.Machine.execPodRetransmitTimeout id s
  | .pacingDecay dest => Sys2Proof.Machine.execPacingDecay dest s
  | .planeFail plane => Sys2Proof.Machine.execPlaneFail plane s
  | .podTimeMeasure reference offset => Sys2Proof.Machine.execPodTimeMeasure reference offset s
  | .routerPowerDown die router => Sys2Proof.Machine.execRouterPowerDown die router s
  | .routerWake die router => Sys2Proof.Machine.execRouterWake die router s
  | .walkComplete die tag page => Sys2Proof.Machine.execWalkComplete die tag page s
  | .shootdownDeliver part die => Sys2Proof.Machine.execShootdownDeliver part die s
  | .shootdownAck part die => Sys2Proof.Machine.execShootdownAck part die s
  | .impreciseFaultTake wg => Sys2Proof.Machine.execImpreciseFaultTake wg s
  | .shutterTick => Sys2Proof.Machine.execShutterTick s
  | .shutterInput => Sys2Proof.Machine.execShutterInput s
  | .shutterFramingTrigger tick => Sys2Proof.Machine.execShutterFramingTrigger tick s
  | .illOpc opc f => Sys2Proof.Machine.execIllOpc opc f s
  | .uncorrectableError site => Sys2Proof.Machine.execUncorrectableError site s
  | .negativeAcknowledgement id => Sys2Proof.Machine.execNegativeAcknowledgement id s
  | .jobBinding part job => Sys2Proof.Machine.execJobBinding part job s
  | .windowArm window => Sys2Proof.Machine.execWindowArm window s

end Sys2Proof.Machine
end

