-- ==== Sys2Proof/Machine/Run.lean ====
section
/-! DEFINITION. What moves in a step (DESIGN CHOICE log 1), what follows every move (R176, R209, R224, R228, R235, R240, R252,
R257, R365, R371), and the clock (R14, R407). -/

namespace Sys2Proof.Machine

open Sys2Proof

/-! ## Ends of parks (R209) -/

/-- The phases that a wave's threads wait to signal and may (R241). -/
def State.signalDue (s : State) (w : Wave) : Option (PhaserRef × Word) :=
  w.threads.findSome? fun t =>
    match t.parkNow with
    | some (.phsig r ph _) | some (.phnext r ph false _) => if (s.phaser r).phase = ph then some (r, ph) else none
    | _ => none

/-- A thread whose wave has signalled the phase that it waited to signal. -/
def Thread.signalGiven (t : Thread) (r : PhaserRef) (ph : Word) : Thread :=
  match t.run with
  | .parked (.phsig r' ph' d) len => if r' = r && ph' = ph then t.unpark len d [ph] else t
  | .parked (.phnext r' ph' false d) len =>
    if r' = r && ph' = ph then { t with run := .parked (.phnext r ph true d) len } else t
  | _ => t

/-- Give the signals that waited for their phase to open. -/
def State.giveSignals : Nat → State → State
  | 0, s => s
  | fuel + 1, s =>
    match s.waves.findSome? fun w => (s.signalDue w).map fun x => (w, x) with
    | none => s
    | some (w, r, ph) =>
      let s := s.setWave { w with threads := w.threads.map fun t => t.signalGiven r ph }
      State.giveSignals fuel (s.setPhaser r ((s.phaser r).signal w.id))

/-- A parked thread whose condition holds goes on, a sleeper at the latest 64 clk after its deadline (R174); an MWAIT that a save meets takes MATRIX_CHECK after the restore (R386). -/
def State.wakeThread (s : State) (w : Wave) (lane : Nat) (t : Thread) : State :=
  match t.run with
  | .parked p len =>
    match p with
    | .ltwait l x => if s.latchPhase l ≠ x then s.setThread w.id lane (t.unpark len none []) else s
    | .lttry l x _ pred d => if s.latchPhase l ≠ x then s.setThread w.id lane (t.tried len pred d true) else s
    | .phwait r x => if (s.phaser r).past x then s.setThread w.id lane (t.unpark len none []) else s
    | .phtry r x _ pred d => if (s.phaser r).past x then s.setThread w.id lane (t.tried len pred d true) else s
    | .phnext r x true d => if (s.phaser r).past x then s.setThread w.id lane (t.unpark len d [x]) else s
    | .sleep deadline => if deadline + 63 ≤ s.pcc.toNat then s.setThread w.id lane ({ t with run := .running }.advance len) else s
    | .xwait n time _ d =>
      match (s.wg? w.wg).bind fun g => g.xwaitNow n time with
      | some v => s.setThread w.id lane (t.unpark len d [v])
      | none => s
    | .rdfence d =>
      if s.postedOps w.id lane = [] then s.setThread w.id lane (t.failClear.unpark len d [t.failMask]) else s
    | .mwait tk d =>
      match s.wg? w.wg with
      | some g =>
        if g.ticketDone tk && !(s.waveSaving w && g.mismatched.any (covered tk)) then s.mwaitDone w lane (t.unpark len d [1]) tk else s
      | none => s
    | .svcrecv _ => s.takeRequest w lane t
    | _ => s
  | _ => s

/-- The parked threads of a wave, in lane order. -/
def State.wakeWave (s : State) (w : Wave) : State :=
  ((List.range w.threads.length).zip w.threads).foldl (fun s x => s.wakeThread w x.1 x.2) s

/-- A thread is parked. -/
def Thread.isParked (t : Thread) : Bool := t.parkNow.isSome

/-- Waves with a parked thread. -/
def State.parkedWaves (s : State) : List Wave := s.waves.filter fun w => w.threads.any Thread.isParked

/-- Every park whose condition holds ends. -/
def State.wake (s : State) : State :=
  if s.parkedWaves = [] then s
  else
    let s := State.giveSignals (2 * s.waves.length) { s with waves := s.waves.map Wave.wsyncs }
    let s := s.wgs.foldl (fun s g => State.passFences g.id 64 (State.grantClaims g.id 64 s)) s
    s.parkedWaves.foldl State.wakeWave s

/-! ## What else follows a move -/

/-- The copies of the workgroups are published, and DONE passes those that have ended (R225, R228). -/
def State.copyRings (s : State) : State :=
  s.wgs.foldl (fun s g =>
    if g.ringLen = 0 then s else State.retireCopies g.id (g.ringLen + 1) (State.publishCopies g.id (g.ringLen + 1) s)) s

/-- A handler wave that has ended (R31). -/
def Wave.ended (w : Wave) : Bool :=
  (match w.kind with | .handler _ _ => true | _ => false) && w.exited && w.store = [] && w.threads.all fun t => t.pending = []

/-- Handlers that have ended leave their slots. -/
def State.dropHandlers (s : State) : State :=
  if s.waves.any Wave.ended then { s with waves := s.waves.filter fun w => !w.ended } else s

/-- What follows every move but the traps that it makes due. -/
def State.follow (s : State) : State :=
  let s := s.settleOwed.leaveBuffers.copyRings.wake.ringAllEligible.beginWalks
  let s := (s.parts.filter fun p => p.2.shootdowns ≠ []).foldl (fun s p => s.endShootdowns p.1) s
  s.retryIngress.grantAll.leaveExited.checkDeadlock

/-- Every trap that may be entered is entered, and each wave that has become halted is reported (R207, R371). -/
def State.trapsAndHalts (s : State) : State :=
  let s := State.enterTraps s.dueCount s
  (s.waves.filter fun w => w.halted && !w.haltLogged).foldl State.reportHalt s

/-- What follows every move. -/
def State.settle (s : State) : State := { s.follow.trapsAndHalts.dropHandlers with cur := .none }

/-! ## The clock -/

/-- The next value of PCC: one that runs ahead of the reference skips a count in 1,024, and one that runs behind
counts twice (R407). -/
def State.nextPcc (s : State) : DWord × Int :=
  if (s.clk + 1) % 1024 ≠ 0 || s.system.slew = 0 then (s.pcc + 1, s.system.slew)
  else if 0 < s.system.slew then (s.pcc, s.system.slew - 1)
  else (s.pcc + 2, s.system.slew + 1)

/-- Cores whose waves lacked a MAT token in this clk (R424). -/
def State.stallCores (s : State) : State :=
  (s.tokenCores.eraseDups).foldl (fun s c => s.setCore c { s.core c with tokenStall := (s.core c).tokenStall + 1 }) s

/-- The interval set of a wave may be evicted: it names a block, and each thread that has not ended is parked (R46). -/
def Wave.evictable (w : Wave) : Bool :=
  w.resident && w.interval ≠ 0 && w.threads.any Thread.isParked && w.threads.all fun t => t.isParked || t.run = .exited

/-- A core may evict the sets of such waves: whether it does is open (R7, R46, DESIGN CHOICE log 42). -/
def State.evictSets (s : State) : State :=
  if s.waves.any Wave.evictable then
    { s with
      waves := s.waves.mapIdx fun k w => if w.evictable && Config.coin (s.draws + k) then { w with resident := false } else w
      draws := s.draws + s.waves.length }
  else s

/-- While a change of layout runs, PDSET and PBOUND each come to read their new values at a time that is open, and
PRING.JOIN after them (R7, R413, R427, DEDUCED log 59). -/
def State.showLayout (s : State) : State :=
  match s.system.newLayout with
  | none => s
  | some _ =>
    let y := s.system
    let new (k : Nat) : BitVec 3 := if Config.coin (s.draws + k) then 1#3 <<< k else 0
    let more := if y.shown.getLsbD 0 && y.shown.getLsbD 1 then new 2 else new 0 ||| new 1
    { s with system := { y with shown := y.shown ||| more }, draws := s.draws + 3 }

/-- One clk (R14) (DESIGN CHOICE log 2). -/
def State.tick (s : State) : State :=
  let s := s.evictSets.showLayout.ringPasses.stallCores
  let (pcc, slew) := s.nextPcc
  let s : State := { s with
    clk := s.clk + 1
    pcc := pcc
    arrivals := []
    launched := []
    fabric := { s.fabric with signals := [] }
    system := { s.system with slew := slew }
    parts := s.parts.map fun p => (p.1, { p.2 with wasBusy := s.partBusy p.1 }) }
  (s.ringClock.markWaiting).shutter

/-! ## Issue (R346, R347) -/

/-- A report waits for a wave, whose thread that is to take it stands at a boundary (R376). -/
def State.reportDue (s : State) (w : Wave) : Bool :=
  match s.wg? w.wg with
  | none => false
  | some g =>
    match g.reports with
    | [] => false
    | r :: _ =>
      ((s.reportWave g r).map fun x => x.id) = some w.id && !s.waveSaving w &&
        ((w.reportLane.bind fun l => (w.threads[l]?).map Thread.atBoundary).getD false)

/-- A wave may be picked now: ready, with the tokens that it needs, no pane stopped, and no report to take first (R270,
R346, R376, R423). -/
def State.mayIssue (s : State) (w : Wave) : Bool :=
  !s.power.tripped && s.waveReady w && !s.lacksToken w && !s.reportDue w

/-- A wave is one of the two that its pane picks (R173, R347). -/
def State.picked (s : State) (w : Wave) : Bool :=
  let others := s.waves.filter fun x => x.core = w.core && x.slot % 4 = w.slot % 4 && x.id ≠ w.id && s.mayIssue x
  let fresh (x : Wave) : Bool := decide (x.yieldUntil ≤ s.clk)
  if !fresh w && others.any fresh then false
  else decide ((others.filter fun x => fresh x = fresh w && s.before x w).length < 2)

/-- The wave of a slot issues: its group stands at an instruction from here on. -/
def State.issue (s : State) (core slot : Nat) : State × Option Instr :=
  match s.waveAt core slot with
  | none => (s, none)
  | some w =>
    if !s.mayIssue w || !s.picked w then (s, none)
    else
      match s.formGroup w with
      | (s, none) => (s, none)
      | (s, some (i, lanes)) => ({ s with cur := .group w.id lanes }, some i)

/-- The opcode is one of a transfer, which may leave its thread as it was. -/
def Instr.transfers (i : Instr) : Bool :=
  match i with
  | .bra _ | .brx _ | .ret _ => true
  | _ => false

/-- The instruction that a wave issued is counted, unless it waits at issue (R424). -/
def State.countIssue (s : State) (before : Wave) (i : Instr) : State :=
  let waits := match s.wave? before.id with
    | some w => decide (w.threads = before.threads) && !Instr.transfers i
    | none => false
  if waits then s
  else s.setCore before.core { s.core before.core with issued := (s.core before.core).issued + 1 }

/-- The wave that issues. -/
def State.issuing (s : State) : Option Wave :=
  match s.cur with
  | .group w _ => s.wave? w
  | _ => none

/-! ## Moves (DESIGN CHOICE log 1) -/

/-- An executor's next instruction; an invocation past its program's end ends (R301, R305). -/
def State.executor (s : State) (n : Nat) : State × Option Instr :=
  let w := s.window n
  match w.running with
  | none => (s, none)
  | some v =>
    match (s.program w.prog).loaded[v.pc]? with
    | some i => ({ s with cur := .executor n }, some i)
    | none => (s.setWindow n w.next, none)

/-- Make a move: the state, and the instruction that is to run in it, if any (DEDUCED log 6). -/
def State.move (s : State) (m : Move) : State × Option Instr :=
  match m with
  | .event i => if i.illFormed = some .event then (s, some i) else (s, none)
  | .issue core slot => s.issue core slot
  | .executor n => s.executor n
  | .service quad => (s.serve quad, none)
  | .tick => (s.tick, none)
  | .softError site => (s.softError site, none)
  | .bar0 off access => (s.bar0 off access, none)
  | .spdmOffer offer => (s.spdmOffer offer, none)

/-- Moves that a wave may wait for. -/
def State.waveMoves (_s : State) (w : Wave) : List Move :=
  let d := dieOf w.core
  let c := w.core % 32
  let lanes := (List.range w.threads.length).zip w.threads
  (if w.resident then [] else [.event (.intervalReload d c w.slot)])
  ++ (if w.store = [] then [] else [.event (.storeQueueDrain d c w.slot)])
  ++ (if w.growing ≠ [] then [.event (.rgrowGrant d c)] else [])
  ++ lanes.flatMap fun x =>
    (x.2.pending.map fun p => .event (.longLatencyResult d c w.slot x.1 p.id))
    ++ match x.2.parkNow with
      | some (.sleep _) => [.event (.sleepWake d c w.slot x.1)]
      | some (.lttry _ _ _ _ _) => [.event (.lttryTimeout d c w.slot x.1)]
      | some (.phtry _ _ _ _ _) => [.event (.phtryTimeout d c w.slot x.1)]
      | some (.xwait _ _ _ _) => [.event (.xwaitTimeout d c w.slot x.1)]
      | some (.knock _ _ _ _) => [.event (.knockGrant d c w.slot x.1)]
      | _ => []

/-- The bytes that a copy moves next, up to 4,096, to the end of a piece of its destination (R106). -/
def Copy.piece (c : Copy) (off : Nat) : Nat :=
  if c.len ≤ off + 4096 then c.len - off else 4096 - (c.base + off) % c.grain

/-- Moves that a workgroup's engines may make. -/
def Workgroup.moves (g : Workgroup) : List Move :=
  (if g.ringLen = 0 then [] else [.event (.copyTakeup g.id)])
  ++ (g.copies.filter fun c => c.state = .active).flatMap (fun c =>
    let off := (c.moved.map fun r => r.2).foldl (· + ·) 0
    [.event (.copyArrival g.id c.index off (c.piece off)), .event (.copyArrival g.id c.index off (c.least off)),
      .event (.copyFail g.id c.index off),
      .event (.copyComplete g.id c.index)])
  ++ (g.oloads.map fun o => .event (.oloadComplete g.id o.id))
  ++ (if g.ops = [] then [] else [.event (.ticketComplete g.id)])
  ++ (if g.reports = [] then [] else [.event (.impreciseFaultTake g.id)])
  ++ [.event (.workgroupRetire g.id)]

/-- Moves of a partition's queues and shoot-downs. -/
def partMoves (part : Nat) (p : Partition) : List Move :=
  ((p.queues.filter fun q => q.2.appended ≠ []).map fun q => .event (.recordCheck part q.1))
  ++ p.shootdowns.flatMap fun d =>
    (d.toDeliver.map fun x => .event (.shootdownDeliver part x)) ++ d.toAck.map fun x => .event (.shootdownAck part x.1)

/-- Moves of an entry of a queue. -/
def Entry.moves (e : Entry) : List Move :=
  (if e.eligibleAt.isNone then [.event (.entryEligible e.part e.queue e.number)] else [])
  ++ [.event (.gangPlace e.part), .event (.gangRestore e.part), .event (.placementStarvation e.part e.queue e.number),
    .event (.entryComplete e.part e.queue e.number)]

/-- The move of an access in flight. -/
def Access1.move (a : Access1) : Move :=
  match a.work with
  | .message _ _ => .event (.activeMessageArrive a.id)
  | .fragment _ _ => .event (.fragmentArrive a.id)
  | _ => .event (.directAccessPerform a.id)

/-- Moves of a window. -/
def windowMoves (n : Nat) (w : Window) : List Move :=
  (if w.running.isSome then [.executor n] else if w.queue ≠ [] then [.event (.invocationStart n)] else [])
  ++ (if w.timer.isSome then [.event (.timerInvocation n)] else [])
  ++ (if w.sigs ≠ [] || w.failSignal then [.event (.csigArrival n)] else [])

/-- The windows for whose arming a thread waits. -/
def State.armWaits (s : State) : List Nat :=
  s.waves.flatMap fun w => w.threads.filterMap fun t =>
    match t.parkNow with | some (.cwarm _ n _ _ _ _) => some n | _ => none

/-- Moves that the package makes of itself. -/
def State.internals (s : State) : List Move :=
  s.waves.flatMap s.waveMoves
  ++ s.wgs.flatMap Workgroup.moves
  ++ s.entries.flatMap Entry.moves
  ++ (s.parts.flatMap fun p => partMoves p.1 p.2)
  ++ s.net.map Access1.move
  ++ (s.services.flatMap fun v =>
    (if v.2.waiting = [] then [] else [.event (.serviceRequestArrive (v.1 / 8) (v.1 % 8))])
    ++ if v.2.queue = [] then [] else [.service v.1])
  ++ (s.cores.filter fun c => c.2.messages ≠ []).map (fun c => .event (.handlerStart (c.1 / 32) (c.1 % 32)))
  ++ (s.cores.flatMap fun c => (c.2.stocks.filter fun x => x.2.since ≠ []).map fun x =>
    .event (.tokenIdleReturn (c.1 / 32) (c.1 % 32) x.1))
  ++ (s.waves.filter s.lacksToken).map (fun w => .event (.tokenGrant (dieOf w.core) (w.core % 32) w.pane))
  ++ (s.dies.flatMap fun d =>
    ((d.2.walks.filter fun k => k.busy).map fun k => .event (.walkComplete d.1 k.tag k.page))
    ++ if d.2.slBusy then [.event (.sliceRemapDone d.1)] else [])
  ++ (s.gangs.flatMap fun g => [.event (.sliceExpiry g.id), .event (.gangSave g.id)])
  ++ (s.windows.flatMap fun w => windowMoves w.1 w.2)
  ++ (s.armWaits.map fun n => .event (.windowArm n))
  ++ (s.placements.map fun p => .event (.placementDeliver p.id))
  ++ (if s.system.newLayout.isSome then [.event .layoutChangeDone] else [])

/-- Moves that issue: the pick of each pane that has a ready wave. -/
def State.issues (s : State) : List Move :=
  (s.waves.filter fun w => s.mayIssue w && s.panePick w.core w.pane = some w).map fun w => .issue w.core w.slot

/-- The move of this step, and the state once it is chosen: the agenda's next one, or where it is empty one of
those that the package makes of itself, each in its turn (DESIGN CHOICE log 1). -/
def State.choose (s : State) : State × Move :=
  match s.agenda with
  | m :: ms => ({ s with agenda := ms }, m)
  | [] =>
    let ms := s.issues ++ s.internals ++ [.tick]
    ({ s with turn := s.turn + 1 }, ms.getD (s.turn % ms.length) .tick)

/-- The state in which this step's instruction runs, and the instruction, if any. -/
def State.prepare (s : State) : State × Option Instr :=
  let (s, m) := s.choose
  s.move m

/-- The state after an instruction has run: it is counted, and what follows is done. -/
def State.finishStep (before : State) (i : Instr) (s : State) : State :=
  ((before.issuing.map fun w => s.countIssue w i).getD s).settle

/-! ## Placing one instruction for the next step (DESIGN CHOICE log 18) -/

/-- Where `withFetchWord` puts an instruction: its virtual page, and the frame in DRAM. -/
def fetchVa : DWord := 0x10000
def fetchPa : Nat := 0x10000

/-- The leaf of that page: valid, leaf, R, W, X, U. -/
def fetchLeaf : DWord := BitVec.ofNat 64 (fetchPa + 0x3F)

/-- The identity numbers from `n` on: entry, gang, workgroup, wave. -/
def fetchEntry (n : Nat) : Entry :=
  { id := n, part := 0, queue := 0, number := 0, record := { words := List.replicate 64 0 }, level := .sys, launcher := none,
    root := some 0, gangs := some 1, eligibleAt := some 0, waitingSince := none, placed := 1, retired := 0, messages := 0,
    notBefore := none, latchLast := none, starved := false, status := none }

def fetchGang (n clk : Nat) : Gang :=
  { id := n + 1, entry := n, index := 0, base := 0, placedAt := clk, expired := false, asked := false, saving := false, owing := false,
    killed := false, phasers := [] }

def fetchGroup (n : Nat) : Workgroup := Workgroup.start (n + 2) (n + 1) n 0 0 0 { words := List.replicate 64 0 }

def fetchWave (n clk : Nat) : Wave := Wave.start (n + 3) 0 1 .user (n + 2) 0 31 fetchVa .sys clk

/-- The package identity of DRAM that the frame stands in. -/
def State.fetchBase (s : State) : Nat := mkPa s.system.pkgid 0 fetchPa

/-- One wave on core 0 whose threads stand at the bytes of an instruction, which is the next to issue. -/
def State.withCode (s : State) (bytes : List Byte) : State :=
  let n := s.nextId
  let c := s.core 0
  let leaf := fetchLeaf + BitVec.ofNat 64 (s.system.pkgid % 32 * 2 ^ 47)
  let s := s.setCore 0 { c with
    tlb := tlbEntry 0 2 leaf fetchVa :: c.tlb.filter fun e => !e.serves 0 fetchVa
    stocks := put c.stocks 1 { since := [s.clk] }
    code := [] }
  { s with
    mem := swrite s.mem s.fetchBase bytes
    poison := s.poison.filter fun g => g ≠ s.fetchBase / 32
    power := { s.power with tripped := false }
    waves := fetchWave n s.clk :: s.waves.filter fun w => w.core ≠ 0
    wgs := s.wgs ++ [fetchGroup n]
    gangs := s.gangs ++ [fetchGang n s.clk]
    entries := s.entries ++ [fetchEntry n]
    agenda := .issue 0 1 :: s.agenda
    nextId := n + 4 }

end Sys2Proof.Machine
end

