-- ==== Sys2Proof/Machine/Step.lean ====
section
/-! DEFINITION. One step of the package: a move is chosen, the instruction that it stands at runs, and what follows
is done. -/

namespace Sys2Proof.Machine

open Sys2Proof

/-- One step. -/
def step (s : State) : Host.Outcome State Fault Refusal :=
  match s.prepare with
  | (t, none) => .next t.settle
  | (t, some i) =>
    match exec i t with
    | .next u => .next (State.finishStep t i u)
    | .fault r => .fault r
    | .refused r => .refused r

/-- The state in which the next step fetches and runs the instruction of the bits `w` (DESIGN CHOICE log 18). -/
def State.withFetchWord (s : State) (nbits w : Nat) : State := s.withCode (leBytes 16 (w % 2 ^ nbits))

end Sys2Proof.Machine
end

