-- ==== Sys2Proof/Machine/AsmText.lean ====
section
/-! DEFINITION. The text of the assembler `zkas` (R9, R157, R158): characters to tokens, numbers, and the
expressions of operands. -/

namespace Sys2Proof.Asm

open Sys2Proof

/-- Why a text is no program of the assembler. -/
inductive Why where
  /-- A line that is no statement (R157). -/
  | text
  /-- A mnemonic or directive that no rule names, or at an unassigned code (R163, R166). -/
  | mnemonic
  /-- A modifier that the instruction does not have, that stands twice, or that is missing (R160). -/
  | modifier
  /-- The wrong operands for the instruction (R9, R158). -/
  | operands
  /-- A number out of the range of its field (R158, R166). -/
  | range
  /-- Two different IMM32 values in one instruction (R158). -/
  | twoImmediates
  /-- A name without a value (R166, R428). -/
  | undefinedName
  /-- A reserved name (R157), or one bound twice. -/
  | badName
  /-- `la=` on a fixed-latency instruction (R166). -/
  | lookahead
  /-- An encoding that R143 to R151 or R305 refuse (R166, R317). -/
  | encoding
  /-- A statement where it has no place (R163). -/
  | place
  /-- The paths to a `.join` push different numbers of entries (R165). -/
  | join
  deriving DecidableEq, Repr

/-- The tokens of a line. -/
inductive Tok where
  /-- A name, mnemonic, register or operand name, with its dots. -/
  | word (s : String)
  /-- A directive's name, without its dot. -/
  | dir (s : String)
  /-- An integer. -/
  | num (n : Nat)
  /-- A number with a decimal point or an exponent: `m × 10^e`. -/
  | real (m : Nat) (e : Int)
  | sym (c : Char)
  /-- `<<` -/
  | shl
  /-- `>>` -/
  | shr
  deriving DecidableEq, Repr

def nameStart (c : Char) : Bool := c.isAlpha || c = '_'

def nameChar (c : Char) : Bool := c.isAlphanum || c = '_' || c = '.'

/-- The value of a hexadecimal digit. -/
def hexDigit (c : Char) : Option Nat :=
  if c.isDigit then some (c.toNat - 48)
  else if 'a' ≤ c ∧ c ≤ 'f' then some (c.toNat - 87)
  else if 'A' ≤ c ∧ c ≤ 'F' then some (c.toNat - 55)
  else none

/-- The number of a list of digits in a base. -/
def digits (base : Nat) (cs : List Char) : Nat :=
  cs.foldl (fun n c => n * base + (hexDigit c).getD 0) 0

/-- A hexadecimal number after its 0x; underscores stand between digits (R9). -/
def lexHex (cs : List Char) : Option (Tok × List Char) :=
  let ds := cs.takeWhile fun c => (hexDigit c).isSome || c = '_'
  if ds.head?.isNone || ds.head? = some '_' || ds.getLast? = some '_' then none
  else some (.num (digits 16 (ds.filter (· ≠ '_'))), cs.drop ds.length)

/-- A signed exponent. -/
def lexExp (cs : List Char) : Option (Int × List Char) :=
  let (neg, cs) := match cs with
    | '-' :: r => (true, r)
    | '+' :: r => (false, r)
    | r => (false, r)
  let ds := cs.takeWhile Char.isDigit
  if ds = [] then none
  else some (if neg then -(digits 10 ds : Int) else digits 10 ds, cs.drop ds.length)

/-- A decimal integer, or a number with a point or an exponent (R158). -/
def lexDec (cs : List Char) : Option (Tok × List Char) :=
  let ip := cs.takeWhile Char.isDigit
  let r := cs.drop ip.length
  let (point, fp, r) := match r with
    | '.' :: t => (true, t.takeWhile Char.isDigit, t.dropWhile Char.isDigit)
    | t => (false, [], t)
  match r with
  | 'e' :: t | 'E' :: t =>
    (lexExp t).map fun p => (.real (digits 10 (ip ++ fp)) (p.1 - fp.length), p.2)
  | t =>
    some (if point then .real (digits 10 (ip ++ fp)) (-(fp.length : Int)) else .num (digits 10 ip), t)

/-- The tokens of a line, without its comment (R9, R157). -/
def lexGo : Nat → List Char → Option (List Tok)
  | _, [] => some []
  | 0, _ => none
  | k + 1, c :: cs =>
    if c.isWhitespace then lexGo k cs
    else if c = ';' then some []
    else if c = '/' && cs.head? = some '/' then some []
    else if nameStart c then
      let w := (c :: cs).takeWhile nameChar
      (lexGo k ((c :: cs).drop w.length)).map (.word (String.ofList w) :: ·)
    else if c = '.' && cs.head?.any nameStart then
      let w := cs.takeWhile nameChar
      (lexGo k (cs.drop w.length)).map (.dir (String.ofList w) :: ·)
    else if c.isDigit then
      let p := match c, cs with
        | '0', 'x' :: t => lexHex t
        | _, _ => lexDec (c :: cs)
      match p with
      | some (t, r) => if r.head?.any nameChar then none else (lexGo k r).map (t :: ·)
      | none => none
    else if c = '<' && cs.head? = some '<' then (lexGo k (cs.drop 1)).map (.shl :: ·)
    else if c = '>' && cs.head? = some '>' then (lexGo k (cs.drop 1)).map (.shr :: ·)
    else if "(),:!=+-*&|".toList.contains c then (lexGo k cs).map (.sym c :: ·)
    else none

def lex (cs : List Char) : Option (List Tok) := lexGo cs.length cs

/-- The lines of a text. -/
def linesGo (cur : List Char) : List Char → List (List Char)
  | [] => [cur.reverse]
  | '\n' :: cs => cur.reverse :: linesGo [] cs
  | c :: cs => linesGo (c :: cur) cs

def lines (text : String) : List (List Char) := linesGo [] text.toList

/-- The parts of a list between its separators. -/
def splitAtSep {α : Type} (p : α → Bool) : List α → List (List α)
  | [] => [[]]
  | x :: xs =>
    match splitAtSep p xs with
    | [] => [[x]]
    | g :: gs => if p x then [] :: g :: gs else (x :: g) :: gs

/-! ## Expressions (R158) -/

inductive Bop where
  | add | sub | mul | shl | shr | and | or
  deriving DecidableEq, Repr

inductive Expr where
  | num (v : Int)
  | name (s : String)
  | bin (op : Bop) (a b : Expr)
  deriving DecidableEq, Repr

/-- The operator of a token at a level of binding; `|` binds weakest, then `&`, the shifts, the sums and
`*` (DESIGN CHOICE log 75). -/
def bopAt (level : Nat) (t : Tok) : Option Bop :=
  match level, t with
  | 0, .sym '|' => some .or
  | 1, .sym '&' => some .and
  | 2, .shl => some .shl
  | 2, .shr => some .shr
  | 3, .sym '+' => some .add
  | 3, .sym '-' => some .sub
  | 4, .sym '*' => some .mul
  | _, _ => none

/-- Parse an expression at a level of binding, with its left part where it is read already. -/
def parseGo : Nat → Nat → Option Expr → List Tok → Option (Expr × List Tok)
  | 0, _, _, _ => none
  | k + 1, 5, _, ts =>
    match ts with
    | .num n :: r => some (.num n, r)
    | .word s :: r => some (.name s, r)
    | .sym '-' :: r => (parseGo k 5 none r).map fun p => (.bin .sub (.num 0) p.1, p.2)
    | .sym '(' :: r =>
      match parseGo k 0 none r with
      | some (e, .sym ')' :: r') => some (e, r')
      | _ => none
    | _ => none
  | k + 1, lv, none, ts =>
    match parseGo k (lv + 1) none ts with
    | some (a, r) => parseGo k lv (some a) r
    | none => none
  | k + 1, lv, some a, ts =>
    match ts with
    | [] => some (a, [])
    | t :: r =>
      match bopAt lv t with
      | none => some (a, t :: r)
      | some op =>
        match parseGo k (lv + 1) none r with
        | some (b, r') => parseGo k lv (some (.bin op a b)) r'
        | none => none

/-- The expression that a list of tokens is. -/
def parseExpr (ts : List Tok) : Option Expr :=
  match parseGo (10 * ts.length + 10) 0 none ts with
  | some (e, []) => some e
  | _ => none

def Bop.apply (op : Bop) (a b : Int) : Option Int :=
  match op with
  | .add => some (a + b)
  | .sub => some (a - b)
  | .mul => some (a * b)
  | .shl => if 0 ≤ b ∧ b ≤ 64 then some (a * 2 ^ b.toNat) else none
  | .shr => if 0 ≤ b then some (a >>> b.toNat) else none
  | .and => some (BitVec.ofInt 256 a &&& BitVec.ofInt 256 b).toInt
  | .or => some (BitVec.ofInt 256 a ||| BitVec.ofInt 256 b).toInt

/-- The value of an expression. -/
def Expr.eval (env : String → Option Int) : Expr → Option Int
  | .num v => some v
  | .name s => env s
  | .bin op a b =>
    match a.eval env, b.eval env with
    | some x, some y => op.apply x y
    | _, _ => none

/-- The names of an expression. -/
def Expr.names : Expr → List String
  | .num _ => []
  | .name s => [s]
  | .bin _ a b => a.names ++ b.names

/-- The value of a name in a list of bindings. -/
def lookup {α : Type} (bs : List (String × α)) (s : String) : Option α :=
  (bs.find? fun b => b.1 = s).map (·.2)

/-- A value as 32 bits, signed or unsigned (R158). -/
def word32 (v : Int) : Except Why Word :=
  if -(2 ^ 31) ≤ v ∧ v < 2 ^ 32 then .ok (BitVec.ofInt 32 v) else .error .range

/-! ## Numbers with a point or an exponent -/

/-- `m × 10^e` as a binary value that rounds as it does: 200 fraction bits and a sticky bit below. -/
def decimal (neg : Bool) (m : Nat) (e : Int) : FVal :=
  let p := m * 10 ^ e.toNat
  let q := 10 ^ (-e).toNat
  let x := p * 2 ^ 200
  .fin neg (2 * (x / q) + (if x % q = 0 then 0 else 1)) (-201)

/-- `m × 10^e` is above a bound. -/
def decimalAbove (m : Nat) (e : Int) (bound : Nat) : Bool :=
  decide (bound * 10 ^ (-e).toNat < m * 10 ^ e.toNat)

/-- A signed number: an integer or one with a point or an exponent. -/
def signedNumber (ts : List Tok) : Option (Bool × Nat × Int) :=
  let (neg, ts) := match ts with
    | .sym '-' :: r => (true, r)
    | r => (false, r)
  match ts with
  | [.num n] => some (neg, n, 0)
  | [.real m e] => some (neg, m, e)
  | _ => none

end Sys2Proof.Asm
end

