-- ==== Sys2Proof/Machine/AsmTable.lean ====
section
/-! DEFINITION. What the assembler knows of each instruction: its mnemonic (R152, R306), its modifier groups
with their defaults (R160 and the descriptions), and its trailing operands (R179, R184, R187, R189, R224, R241,
R259, R324). The operands themselves are those of its shape. -/

namespace Sys2Proof.Asm

open Sys2Proof

/-! ## Mnemonics -/

/-- The mnemonics in rows of successive codes, from the code of each row (R152). -/
def mnemonicRows : List (Nat × List String) :=
  [(0x00, ["NOP", "BRA", "BRX", "CALL", "CALLX", "RET", "EXIT", "YIELD", "SLEEP", "SLEEPTO", "TRAP", "BKPT",
      "WSYNC", "IVL", "LAUNCH", "AMSEND"]),
   (0x10, ["IADD", "ISUB", "IADD64", "ISUB64", "IMUL", "IMULH", "IMAD", "IMADW", "IMIN", "IMAX", "IABS", "ISHL",
      "ISHR", "SHF", "LOP3", "POPC"]),
   (0x20, ["CLZ", "BREV", "BFE", "BFI", "PRMT", "LEA", "SEL", "MOV", "MOVI", "MOVW", "ICMP", "ICMP64"]),
   (0x30, ["PLOP", "PPACK", "PSET"]),
   (0x38, ["FADD", "FMUL", "FFMA", "FMIN", "FMAX", "FCMP", "FRND", "FRCP"]),
   (0x40, ["FRSQ", "FSQRT", "FEX2", "FLG2", "FSIN", "FCOS", "FTANH", "FSIGM", "HADD2", "HMUL2", "HFMA2", "HMAX2",
      "F2I", "I2F", "CVT", "CVTP"]),
   (0x50, ["FCLASS"]),
   (0x60, ["WSHFL", "WVOTE", "WREDUX"]),
   (0x68, ["LDV", "STV", "LD", "ST", "ATOM", "RED", "FENCE", "PREF"]),
   (0x70, ["LDL", "BUFDECL", "BUFSET", "BUFQ"]),
   (0x78, ["XCOPY", "XGATH", "XFILL", "XDRAIN", "XSTAT", "XWAIT"]),
   (0x80, ["LTINIT", "LTEXP", "LTARR", "LTWAIT", "LTTRY"]),
   (0x88, ["PHREG", "PHDROP", "PHSIG", "PHWAIT", "PHNEXT", "PHTRY", "RGROW", "RSHRINK"]),
   (0x90, ["RDCAP", "RDRMW", "RDBOARD", "RDALIGHT", "RDFENCE", "RDCANCEL"]),
   (0xA0, ["OCLAIM", "ORELEASE", "OLOAD", "OFENCE", "LAYSET", "MSIGN", "MMA", "MWAIT", "MTRANS", "MPERM", "MRSUM",
      "ACLR", "AREAD", "ADRAIN", "AWRITE", "KNOCK"]),
   (0xB0, ["QBLK", "QRES"]),
   (0xB8, ["DESC", "PGROUP", "PTREAD", "NODEA", "DGRAD"]),
   (0xC0, ["CWARM", "CWSTAT"]),
   (0xE0, ["CSRR", "CSRW", "TLBINV", "ERET", "SNAP", "SVCRECV", "SVCREPLY", "HALT"])]

/-- The collective mnemonics, in the same way (R306). -/
def collectiveRows : List (Nat × List String) :=
  [(0x00, ["CNOP", "CJMP", "CBR", "CEND", "CYIELD"]),
   (0x08, ["CMOV", "CLDI", "CADD", "CSUB", "CAND", "COR", "CSHR", "CSHL"]),
   (0x10, ["CCMP"]),
   (0x18, ["CSTAGE", "CSEEN", "CREADY", "CCOMB", "CPLACE", "CDROPF"]),
   (0x20, ["CFWD", "CMCAST", "CACK", "CSIG", "CCNT", "CTIME"])]

/-- The code of a mnemonic in such rows. -/
def codeIn (rows : List (Nat × List String)) (s : String) : Option Nat :=
  rows.findSome? fun r => (r.2.idxOf? s).map (r.1 + ·)

def opcOf (s : String) : Option Nat := codeIn mnemonicRows s

def copcOf (s : String) : Option Nat := codeIn collectiveRows s

/-! ## Operand names (R43, R143, R158) -/

def specialNames : List String :=
  ["ZERO", "LANE", "WAVE", "WG.X", "WG.Y", "WG.Z", "GANG", "CORE", "QUADID", "DIE", "PKG", "PCC.LO", "PCC.HI",
    "NWAVE", "GSIZE"]

/-- The fields of a fragment, in the order of their codes (R303). -/
def fragmentNames : List String := ["F.SRC", "F.OFF", "F.LEN", "F.SEQ", "F.PORT", "F.PHASE"]

/-- A decimal number without leading zeros. -/
def plainNat (cs : List Char) : Option Nat :=
  if cs = [] || !cs.all Char.isDigit || (cs.head? = some '0' && cs ≠ ['0']) then none else some (digits 10 cs)

/-- The number of a name that is some letters and then a number below a bound. -/
def numbered (letters : String) (bound : Nat) (s : String) : Option Nat :=
  if letters.toList.isPrefixOf s.toList then
    (plainNat (s.toList.drop letters.toList.length)).filter (· < bound)
  else none

/-- The specifier that a name writes (R158). -/
def specifier (s : String) : Option Src :=
  if s = "NONE" then some .none
  else match specialNames.idxOf? s with
    | some i => some (.special i)
    | none =>
      match numbered "q" 16 s, numbered "n" 248 s, numbered "p" 8 s, numbered "L" 32 s with
      | some j, _, _, _ => some (.q j)
      | _, some k, _, _ => some (.n k)
      | _, _, some i, _ => some (.p i)
      | _, _, _, some j => some (.launch j)
      | _, _, _, _ => none

/-- The numbered names of engine state, ring words and collective registers, with their counts. -/
def engineNames : List (String × Nat) := [("fs", 8), ("cv", 16), ("ly", 8), ("pt", 128), ("w", 8), ("k", 16)]

/-- The kind and number of such a name. -/
def engineName (s : String) : Option (String × Nat) :=
  engineNames.findSome? fun e => (numbered e.1 e.2 s).map (e.1, ·)

/-- Mnemonics, register names and operand names are not names (R157). -/
def reserved (s : String) : Bool :=
  (specifier s).isSome || (engineName s).isSome || (opcOf s).isSome || (copcOf s).isSome
    || fragmentNames.contains s || s = "la"

/-! ## Modifier groups (R160) -/

/-- A modifier group: the field of M, or of X, that it writes, its suffixes, and its default, none where the
group must be written. -/
structure Group where
  lo : Nat
  vals : List (String × Nat)
  dflt : Option Nat := some 0
  inX : Bool := false
  deriving DecidableEq, Repr

/-- A suffix that sets one bit. -/
def flag (lo : Nat) (s : String) : Group := { lo := lo, vals := [(s, 1)] }

/-- A group whose suffixes have the values 0, 1, 2 and so on. -/
def choice (lo : Nat) (ss : List String) (dflt : Option Nat) : Group := { lo := lo, vals := ss.zipIdx, dflt := dflt }

def Group.ofX (g : Group) : Group := { g with inX := true }

/-- The class of an access (R214). -/
def classG (lo : Nat) : Group := choice lo ["MIN", "ADP", "BNC"] (some 0)

def policyG : Group := choice 4 ["AL", "DR"] (some 0)

/-- The scopes from code 1 (R214). -/
def scopeNames : List String := ["CORE", "QUAD", "DIE", "PKG", "POD", "SYS"]

/-- An ordering mark at a scope (R214, R216). -/
def orderG (lo : Nat) (marks : List String) : Group :=
  { lo := lo, vals := marks.flatMap fun m => scopeNames.zipIdx.map fun p => (m ++ "." ++ p.1, p.2 + 1) }

/-- The suffix that names the global address space and writes no bit (R214). -/
def globalG : Group := { lo := 0, vals := [("G", 0)] }

def roundG : Group := choice 0 ["RNE", "RTZ", "RDN", "RUP"] (some 0)

/-- The combining type of a compare (R149). -/
def typeG : Group := choice 0 ["NRM", "UNC", "AND", "OR", "XOR", "ANDN", "ORN", "SPLIT"] none

def intCompareG : List Group := [typeG, choice 3 ["EQ", "NE", "LT", "LE", "GT", "GE"] none, flag 6 "U"]

/-- `.NA`, `.AA`, `.NB` and `.AB` (R190). -/
def signsA : List Group := [flag 4 "NA", flag 5 "AA"]

def signsAB : List Group := signsA ++ [flag 6 "NB", flag 7 "AB"]

def clampG : List Group := [flag 3 "UNIT", flag 9 "SYM"]

/-- The groups of the BF16-pair arithmetic (R194). -/
def pairG : List Group :=
  [roundG, flag 3 "UNIT", choice 4 ["BP", "BLO", "BHI", "BSW"] (some 0), flag 6 "NA", flag 7 "NB"]

def overflowG : List Group := [{ lo := 0, vals := [("SAT", 1), ("USAT", 2)] }]

/-- `.LCn` (R231). -/
def lateralG (lo : Nat) : Group := choice lo ((List.range 32).map fun n => "LC" ++ toString n) (some 0)

/-- The operations of ATOM, and of RED without `.XCHG` and `.CAS` (R216). -/
def atomG (red : Bool) : Group :=
  { lo := 0, dflt := none
    vals := [("ADD", 0), ("MIN", 1), ("MAX", 2), ("AND", 3), ("OR", 4), ("XOR", 5)]
      ++ (if red then [] else [("XCHG", 6), ("CAS", 7)])
      ++ [("FADD.F32", 8), ("FADD.BF16X2", 9), ("UMIN", 10), ("UMAX", 11)] }

/-- The modifier groups of an opcode. -/
def groups (opc : Nat) : List Group :=
  match opc with
  | 0x0A => [choice 0 ["SUPER", "SYS"] (some 0)]
  | 0x0F => [classG 0, flag 2 "REL"]
  | 0x10 | 0x11 | 0x12 | 0x13 => overflowG
  | 0x15 | 0x17 | 0x18 | 0x19 => [flag 0 "U"]
  | 0x1A => [flag 0 "SAT"]
  | 0x1B => [flag 0 "MOD"]
  | 0x1C => [flag 0 "MOD", flag 1 "A"]
  | 0x1D => [flag 0 "MOD", flag 1 "HI"]
  | 0x22 => [flag 0 "S"]
  | 0x25 => [flag 3 "U"]
  | 0x26 => [flag 0 "N"]
  | 0x27 | 0x28 => [flag 0 "64"]
  | 0x29 => [flag 0 "H"]
  | 0x2A | 0x2B => intCompareG
  | 0x38 | 0x39 => roundG :: (clampG ++ signsAB)
  | 0x3A => roundG :: flag 8 "NC" :: (clampG ++ signsAB)
  | 0x3B | 0x3C => signsAB
  | 0x3D =>
    [typeG, choice 3 ["EQ", "NE", "LT", "LE", "GT", "GE", "NUM", "NAN", "EQU", "NEU", "LTU", "LEU", "GTU", "GEU"] none,
      flag 7 "AA", flag 8 "AB"]
  | 0x3E => roundG :: signsA
  | 0x3F | 0x40 | 0x41 | 0x42 | 0x43 | 0x44 | 0x45 | 0x46 | 0x47 => clampG ++ signsA
  | 0x48 | 0x49 => pairG
  | 0x4A => flag 8 "NC" :: pairG
  | 0x4B => [choice 4 ["BP", "BLO", "BHI", "BSW"] (some 0), flag 6 "NA", flag 7 "NB"]
  | 0x4C => [roundG, flag 3 "U"]
  | 0x4D => [roundG, flag 3 "U", flag 4 "64"]
  | 0x4E => [choice 3 ["S0", "S1", "S2", "S3"] none, choice 5 ["D0", "D1", "D2", "D3"] none]
  | 0x4F => [flag 3 "H"]
  | 0x60 =>
    [choice 0 ["IDX", "ROT", "XOR", "REV"] none,
      choice 2 ["SEG1", "SEG2", "SEG4", "SEG8", "SEG16", "SEG32"] (some 5)]
  | 0x61 => [choice 0 ["MASK", "ALL", "ANY", "SAME", "CNT", "FIRST"] none]
  | 0x62 =>
    [choice 0 ["IADD", "IMIN", "IMAX", "UMIN", "UMAX", "AND", "OR", "XOR", "FADD", "FMIN", "FMAX"] none, flag 4 "SCAN"]
  | 0x68 | 0x69 => [choice 0 ["8", "16", "32", "64", "128"] (some 2)]
  | 0x6A => [choice 0 ["8", "16", "32", "64"] (some 2), classG 2, policyG, orderG 5 ["ACQ"], globalG]
  | 0x6B => [choice 0 ["8", "16", "32", "64"] (some 2), classG 2, policyG, orderG 5 ["REL"], globalG]
  | 0x6C => [atomG false, flag 4 "64", classG 5, orderG 7 ["ACQ", "REL", "AR"]]
  | 0x6D => [atomG true, flag 4 "64", classG 5, orderG 7 ["REL"]]
  | 0x6E =>
    [choice 0 ["AR", "REL", "ACQ"] (some 0), { lo := 2, vals := scopeNames.zipIdx.map fun p => (p.1, p.2 + 1), dflt := none },
      flag 5 "MIN", flag 6 "ADP", flag 7 "BNC"]
  | 0x6F => [classG 2, policyG]
  | 0x70 => [choice 0 ["128", "256"] none, classG 2, policyG, orderG 5 ["ACQ"], globalG]
  | 0x71 => [choice 0 ["DATA", "LATCH"] none]
  | 0x72 => [choice 0 ["EMPTY", "FULL"] none]
  | 0x73 => [choice 0 ["B", "L"] none]
  | 0x78 | 0x7B =>
    flag 0 "NB" :: [classG 0, flag 2 "SV", flag 3 "DV", flag 4 "T", lateralG 5, flag 10 "LAT"].map Group.ofX
  | 0x79 => [(classG 0).ofX]
  | 0x7A => [classG 0, flag 2 "DV", lateralG 3, flag 8 "LAT"]
  | 0x7D => [flag 0 "NT"]
  | 0x81 => [flag 0 "SET"]
  | 0x88 => [choice 0 ["SIG", "WAIT", "SIGWAIT"] none]
  | 0x90 => [flag 3 "W", flag 4 "ACQ", flag 5 "ORD"]
  | 0x91 =>
    [choice 3 ["ADD", "MIN", "MAX", "SWAP", "CAS", "OR", "AND", "WRITE"] none, flag 6 "U", flag 7 "RET", flag 8 "REL",
      flag 9 "ORD"]
  | 0x92 => [flag 0 "UNIQ", flag 1 "ORD"]
  | 0x93 => [flag 0 "ACQ", flag 1 "ORD"]
  | 0xA2 => [choice 3 ["A", "B"] none]
  | 0xA6 => [flag 3 "Z", flag 4 "J", flag 9 "CHK"]
  | 0xAA => [flag 3 "COL"]
  | 0xAC | 0xAE => [choice 0 ["1", "4", "8"] none]
  | 0xAD => [flag 3 "CLR"]
  | 0xAF => [flag 0 "RET"]
  | 0xB0 | 0xB1 => [flag 3 "X4"]
  | 0xBB => [flag 0 "IDX"]
  | 0xE1 => [choice 0 ["W", "SET", "CLR"] (some 0)]
  | 0xE2 => [choice 0 ["PAGE", "SPACE", "ALL"] none]
  | 0xE6 => [flag 0 "POISON"]
  | _ => []

/-- Suffixes that R160 and R216 read as one: a mark with its scope, and `.FADD` with its format. -/
def joinSuffixes (opc : Nat) : List String → List String
  | a :: b :: r =>
    if (a = "FADD" && (b = "F32" || b = "BF16X2") && (opc = 0x6C || opc = 0x6D))
        || (["ACQ", "REL", "AR"].contains a && scopeNames.contains b && opc ≠ 0x6E) then
      (a ++ "." ++ b) :: joinSuffixes opc r
    else a :: joinSuffixes opc (b :: r)
  | r => r

/-- Every way of giving suffixes to groups, each group at most once: the values of the groups taken, by index. -/
def assign (gs : List Group) : List (Nat × Nat) → List String → List (List (Nat × Nat))
  | taken, [] => [taken]
  | taken, s :: r =>
    gs.zipIdx.flatMap fun g =>
      match lookup g.1.vals s with
      | some v => if taken.any (fun t => t.1 = g.2) then [] else assign gs (taken ++ [(g.2, v)]) r
      | none => []

/-- M and X of an assignment, none where a group that must be written is not. -/
def fieldsOf (gs : List Group) (taken : List (Nat × Nat)) : Option (Nat × Nat) :=
  gs.zipIdx.foldl (init := some (0, 0)) fun acc g =>
    match acc, ((taken.find? fun t => t.1 = g.2).map (·.2)).or g.1.dflt with
    | some (m, x), some v => some (if g.1.inX then (m, x + v * 2 ^ g.1.lo) else (m + v * 2 ^ g.1.lo, x))
    | _, _ => none

/-- The classes that a store's suffixes add after the first: M[8] and M[9] (R119, R214). -/
def extraClasses (own : Nat) : List Nat → Option Nat
  | [] => some 0
  | c :: r =>
    match extraClasses own r with
    | none => none
    | some e =>
      let d := (c + 3 - own) % 3
      if d = 0 || (e / 2 ^ (7 + d)) % 2 = 1 then none else some (e + 2 ^ (7 + d))

/-- M and X of a statement's suffixes (R160). -/
def modifiers (opc : Nat) (ss : List String) : Except Why (Nat × Nat) :=
  let ss := joinSuffixes opc ss
  let classes := ["MIN", "ADP", "BNC"]
  let cs := if opc = 0x6B then ss.filterMap (classes.idxOf? ·) else []
  let ss := if opc = 0x6B then ss.filter (!classes.contains ·) ++ (cs.head?.map (classes.getD · "")).toList else ss
  match (assign (groups opc) [] ss).findSome? (fieldsOf (groups opc)), extraClasses (cs.headD 0) (cs.drop 1) with
  | some (m, x), some e =>
    let all := opc = 0x6E && m / 2 ^ 5 = 0 && m % 4 ≠ 2
    .ok (m + e + (if all then 7 * 2 ^ 5 else 0), x)
  | _, _ => .error .modifier

/-! ## Trailing operands -/

inductive Trail where
  /-- A format slot, into M[2:0] (R196, R259). -/
  | fs
  /-- A convergence register, into M from a bit up, written where the flag tells (R259). -/
  | cv (lo : Nat)
  /-- The word index of RDCAP and RDRMW, which may be omitted (R324). -/
  | ringWord
  /-- A number in a range, less a base, into M or X from a bit up; the default, where it may be omitted. -/
  | number (lo low high base : Nat) (dflt : Option Nat) (inX : Bool)
  /-- A predicate target, into M[2:0]; p0 where it is omitted (DESIGN CHOICE log 75). -/
  | target
  deriving DecidableEq, Repr

/-- The trailing operands of an opcode whose M is known. The GSTRIDE of XGATH is one (DESIGN CHOICE log 75). -/
def trails (opc m : Nat) : List Trail :=
  match opc with
  | 0x0F => [.number 3 1 64 1 (some 1) false]
  | 0x1E | 0x30 => [.number 0 0 255 0 none false]
  | 0x25 => [.number 0 0 7 0 (some 0) false]
  | 0x32 => [.number 0 0 255 0 none false]
  | 0x4E | 0x4F | 0xA2 | 0xA8 | 0xA9 | 0xAA | 0xAD | 0xB0 | 0xB1 => [.fs]
  | 0x79 => [.number 2 0 4095 0 (some 0) true]
  | 0x84 | 0x8D => [.target]
  | 0x90 | 0x91 => [.ringWord]
  | 0xA5 => [.cv 0]
  | 0xA6 => if m / 16 % 2 = 1 then [.fs, .cv 5] else [.fs]
  | _ => []

/-! ## Collective suffixes (R306) -/

/-- The OP suffixes of a collective opcode, and the value where none is written, if it may be so. -/
def opSuffixes (opc : Nat) : List (String × Nat) × Option Nat :=
  match opc with
  | 0x02 => ([("NZ", 0), ("Z", 1)], none)
  | 0x10 => (["EQ", "NE", "LT", "LTU", "GE", "GEU"].zipIdx, none)
  | 0x1A => ([("ALL", 1)], some 0)
  | 0x1B => (["F32", "BF16", "MAX", "MIN"].zipIdx, none)
  | 0x1C => (["FRAG", "STG", "ROOT", "ROOTB"].zipIdx, none)
  | 0x1D => ([("ERR", 1)], some 0)
  | 0x20 => (["FRAG", "ROOT"].zipIdx, none)
  | 0x23 => ([("END", 1)], some 0)
  | 0x25 => (["READ", "WAKE"].zipIdx, none)
  | _ => ([], some 0)

end Sys2Proof.Asm
end

