-- ==== Sys2Proof/Machine/AsmStmt.lean ====
section
/-! DEFINITION. One instruction of the assembler: its operands to fields and immediates, the choice of the form
(R158, R159, R161, R166, R171), and one collective instruction (R317). -/

namespace Sys2Proof.Asm

open Sys2Proof

/-! ## Operands -/

/-- An operand as written. -/
inductive Oper where
  /-- A register, special operand, launch word or NONE. -/
  | src (s : Src)
  /-- A numbered name of engine state or of a ring word. -/
  | eng (kind : String) (n : Nat)
  /-- A number with a point or an exponent, as FP32 (R158). -/
  | fp (w : Word)
  | expr (e : Expr)
  deriving DecidableEq, Repr

/-- Read an operand (R158). -/
def operand (ts : List Tok) : Except Why Oper :=
  match ts, signedNumber ts with
  | [.word s], _ =>
    match specifier s, engineName s with
    | some x, _ => .ok (.src x)
    | none, some (k, n) => .ok (.eng k n)
    | none, none => if reserved s then .error .operands else .ok (.expr (.name s))
  | [.real _ _], some (neg, m, e) | [.sym '-', .real _ _], some (neg, m, e) => .ok (.fp (rne32 (decimal neg m e)))
  | _, _ =>
    match parseExpr ts with
    | some e => if e.names.any reserved then .error .operands else .ok (.expr e)
    | none => .error .operands

/-- A value of IMM32 before names are resolved. -/
inductive Imm where
  | word (w : Word)
  | expr (e : Expr)
  /-- The target of BRA or CALL: IMM32 is its distance from the instruction (R171). -/
  | target (e : Expr)
  deriving DecidableEq, Repr

/-- The values that names have where a statement is read: those of `.buf` (R428). -/
abbrev Env := List (String × Int)

def Env.get (env : Env) (s : String) : Option Int := lookup env s

/-- A constant of the statement itself, without labels. -/
def constant (env : Env) (o : Oper) : Except Why Int :=
  match o with
  | .expr e => match e.eval env.get with
    | some v => .ok v
    | none => .error .undefinedName
  | _ => .error .operands

/-- An operand in a source or destination field: its specifier, and IMM32 where it names it (R158, R428). -/
def place (env : Env) (o : Oper) : Except Why (Src × List Imm) :=
  match o with
  | .src s => .ok (s, [])
  | .fp w => .ok (.imm, [.word w])
  | .eng k n =>
    if k = "ly" || (k = "pt" && n < 64) then .ok (.const n, [])
    else if k = "pt" then .ok (.imm, [.word (BitVec.ofNat 32 n)])
    else .error .operands
  | .expr e =>
    if e.names.all fun s => (env.get s).isSome then
      match e.eval env.get with
      | none => .error .range
      | some v =>
        if -64 ≤ v ∧ v ≤ 63 then .ok (.const v, [])
        else match word32 v with
          | .ok w => .ok (.imm, [.word w])
          | .error x => .error x
    else .ok (.imm, [.expr e])

/-- The fields that a shape has written, in their order (R9). -/
inductive Slot where
  | d | preds | a | b | c | e | f
  deriving DecidableEq, Repr

def slots (s : Shape) : List Slot :=
  (match s.d with
    | .none => []
    | .preds => [.preds]
    | _ => [.d])
    ++ (if s.a = .none then [] else [.a]) ++ (if s.b = .none then [] else [.b]) ++ (if s.c = .none then [] else [.c])
    ++ (if s.e = .none then [] else [.e]) ++ (if s.f = .none then [] else [.f])

/-- Put a specifier into a field. -/
def Slot.put (k : Slot) (f : Fields) (s : Src) : Fields :=
  match k with
  | .d | .preds => { f with d := s }
  | .a => { f with a := s }
  | .b => { f with b := s }
  | .c => { f with c := s }
  | .e => { f with e := s }
  | .f => { f with f := s }

/-- Fill the fields from operands: the fields, the immediates and the operands left. The second target of a
compare may be omitted where `both` is false (R161). -/
def fill (env : Env) (both : Bool) : List Slot → List Oper → Fields → Except Why (Fields × List Imm × List Oper)
  | [], os, f => .ok (f, [], os)
  | .preds :: ks, os, f =>
    match os, both with
    | .src (.p i) :: .src (.p j) :: r, true => fill env both ks r { f with d := Src.ofCode (i + 8 * j) }
    | .src (.p i) :: r, false => fill env both ks r { f with d := Src.ofCode (i + 8 * ((i + 1) % 8)) }
    | _, _ => .error .operands
  | k :: ks, os, f =>
    match os with
    | [] => .error .operands
    | o :: r => do
      let (s, i) ← place env o
      let (f, is, r) ← fill env both ks r (k.put f s)
      .ok (f, i ++ is, r)

/-- The trailing operands: M and X with them. Operands too many or of another kind show before a number out of range, so that
a longer form may hold the statement (R159). -/
def trailing (env : Env) : List Trail → List Oper → Nat → Nat → Except Why (Nat × Nat)
  | [], [], m, x => .ok (m, x)
  | [], _ :: _, _, _ => .error .operands
  | t :: ts, os, m, x =>
    match t, os with
    | .fs, .eng "fs" n :: r => trailing env ts r (m + n) x
    | .cv lo, .eng "cv" n :: r => trailing env ts r (m + n * 2 ^ lo) x
    | .ringWord, .eng "w" n :: r => trailing env ts r (m + n) x
    | .ringWord, [] => trailing env ts [] m x
    | .target, .src (.p n) :: r => trailing env ts r (m + n) x
    | .target, [] => trailing env ts [] m x
    | .number lo low high base dflt inX, os =>
      let v : Except Why (Int × List Oper) := match os, dflt with
        | o :: r, _ => (constant env o).map (·, r)
        | [], some d => .ok (d, [])
        | [], none => .error .operands
      match v with
      | .error w => .error w
      | .ok (v, r) =>
        let n := (v.toNat - base) * 2 ^ lo
        match if inX then trailing env ts r m (x + n) else trailing env ts r (m + n) x with
        | .error w => .error w
        | .ok y => if v < low ∨ (high : Int) < v then .error .range else .ok y
    | _, _ => .error .operands

/-! ## An instruction -/

/-- An instruction whose immediates are not resolved. -/
structure Draft where
  opc : Nat
  f : Fields
  imms : List Imm
  deriving DecidableEq, Repr

/-- Fields with no operand yet. -/
def bare (form : Form) (qp : Nat) (qn : Bool) (la : Nat) (m x : Nat) : Fields :=
  { form := form, qp := BitVec.ofNat 3 qp, qn := qn, la := BitVec.ofNat 4 la, d := .none, a := .none, b := .none,
    c := .none, m := BitVec.ofNat 10 m, imm := 0, e := .none, f := .none, x := BitVec.ofNat 14 x }

/-- The shape of an opcode with fields. -/
def shapeOf (opc : Nat) (f : Fields) : Option Shape :=
  ((Instr.ofOpc (BitVec.ofNat 8 opc) f).proc).map (·.2.2)

/-- The operand of an instruction whose IMM32 is its own: the value of MOVI, the target of BRA and CALL. A target
without a label is the distance itself (R171, R187, R428) (DESIGN CHOICE log 75). -/
def ownImmediate (env : Env) (opc : Nat) (o : Oper) : Except Why Imm :=
  match o with
  | .fp w => if opc = 0x28 then .ok (.word w) else .error .operands
  | .expr e =>
    if e.names.all fun s => (env.get s).isSome then
      match e.eval env.get with
      | some v => (word32 v).map .word
      | none => .error .range
    else .ok (if opc = 0x28 then .expr e else .target e)
  | _ => .error .operands

/-- LAYSET may name its layout record last (R259). -/
def reorder (opc : Nat) (os : List Oper) : List Oper :=
  match os with
  | [o, .eng "ly" n] => if opc = 0xA4 then [.eng "ly" n, o] else os
  | _ => os

/-- The engine names that stand in operand fields stand where their descriptions put them (R158, R259, R286). -/
def enginePlaced (opc : Nat) (os : List Oper) : Bool :=
  os.all fun o => match o with
    | .eng k _ => (k = "ly" → opc = 0xA2 ∨ opc = 0xA4) && (k = "pt" → opc = 0xBA) && k != "k"
    | _ => true

/-- An instruction in one form, or why it is not one in it. -/
def inForm (env : Env) (opc : Nat) (f0 : Fields) (os : List Oper) : Except Why Draft := do
  let s ← match shapeOf opc f0 with
    | some s => .ok s
    | none => .error .mnemonic
  if !s.formOk f0.form then .error .operands
  let ks := slots s
  let both := os.length ≠ ks.length || !ks.contains .preds
  let (f, is, rest) ← fill env both ks os f0
  let (own, rest) ← match s.ownImm, rest with
    | true, o :: r => (ownImmediate env opc o).map fun i => ([i], r)
    | true, [] => .error .operands
    | false, r => .ok ([], r)
  let (m, x) ← trailing env (trails opc f.m.toNat) rest f.m.toNat f.x.toNat
  if f0.form = .f64 && is ≠ [] then .error .operands
  .ok { opc := opc, f := { f with m := BitVec.ofNat 10 m, x := BitVec.ofNat 14 x }, imms := is ++ own }

/-- The first form, from the shortest, that holds the statement (R159). -/
def firstForm (env : Env) (opc : Nat) (os : List Oper) : List Fields → Except Why Draft
  | [] => .error .operands
  | f :: fs =>
    match inForm env opc f os with
    | .error .operands => firstForm env opc os fs
    | .error .undefinedName => firstForm env opc os fs
    | r => r

/-- One instruction statement: the qualifying predicate, the mnemonic with its suffixes, the operands, and the
lookahead count where one is written. -/
def statement (env : Env) (qp : Nat) (qn : Bool) (mnemonic : String) (os : List Oper) (la : Option Nat) :
    Except Why Draft :=
  match splitAtSep (· = '.') mnemonic.toList with
  | [] => .error .mnemonic
  | name :: sfx => do
    let opc ← match opcOf (String.ofList name) with
      | some c => .ok c
      | none => .error .mnemonic
    let (m, x) ← modifiers opc (sfx.map String.ofList)
    let k := la.getD 0
    if 15 < k then .error .range
    if !enginePlaced opc os then .error .operands
    let forms := [Form.f64, Form.f96, Form.f128].map fun form => bare form qp qn k m x
    let d ← firstForm env opc (reorder opc os) forms
    match shapeOf opc d.f with
    | some s => if la.isSome && !s.long then .error .lookahead else .ok d
    | none => .error .mnemonic

/-! ## Collective instructions (R317) -/

/-- A collective instruction whose IMM is not resolved. -/
structure CDraft where
  opc : Nat
  f : CFields
  /-- The value of IMM, as an integer where B stands, or in the instruction's own use. -/
  imm : Option Expr
  /-- The length of `.STG`, less one at IMM[17:8]. -/
  len : Option Expr
  /-- The integer in the place of B, which sets IB. -/
  ib : Option Expr
  deriving DecidableEq, Repr

/-- A number of a collective register. -/
def collReg (o : List Tok) : Option Nat :=
  match o with
  | [.word s] => numbered "k" 16 s
  | _ => none

/-- How a collective opcode uses IMM for itself: not at all, or for one operand, or for two. -/
def ownImms (opc op : Nat) : Nat :=
  match opc with
  | 0x01 | 0x02 | 0x04 | 0x09 | 0x20 | 0x21 | 0x22 => 1
  | 0x1C => if op = 1 then 2 else 1
  | _ => 0

/-- One collective statement. -/
def collective (mnemonic : String) (os : List (List Tok)) : Except Why CDraft :=
  match splitAtSep (· = '.') mnemonic.toList with
  | [] => .error .mnemonic
  | name :: sfx => do
    let opc ← match copcOf (String.ofList name) with
      | some c => .ok c
      | none => .error .mnemonic
    let op ← match sfx.map String.ofList, opSuffixes opc with
      | [], (_, some d) => .ok d
      | [s], (vs, _) => match lookup vs s with
        | some v => .ok v
        | none => .error .modifier
      | _, _ => .error .modifier
    let f0 : CFields := { d := 0, a := 0, b := 0, fa := false, ib := false, op := BitVec.ofNat 4 op, imm := 0 }
    let s ← match (Instr.ofCopc (BitVec.ofNat 6 opc) f0).bind Instr.coll with
      | some (_, _, s) => .ok s
      | none => .error .mnemonic
    let (f, os) ← match s.d, os with
      | false, os => .ok (f0, os)
      | true, o :: r => match collReg o with
        | some k => .ok ({ f0 with d := BitVec.ofNat 4 k }, r)
        | none => .error .operands
      | true, [] => .error .operands
    let (f, os) ← match s.a, os with
      | false, os => .ok (f, os)
      | true, [.word w] :: r => match fragmentNames.idxOf? w, numbered "k" 16 w with
        | some i, _ => .ok ({ f with a := BitVec.ofNat 4 i, fa := true }, r)
        | none, some k => .ok ({ f with a := BitVec.ofNat 4 k }, r)
        | none, none => .error .operands
      | true, _ => .error .operands
    let (f, ib, os) ← match s.b, os with
      | false, os => .ok (f, none, os)
      | true, o :: r => match collReg o, parseExpr o with
        | some k, _ => .ok ({ f with b := BitVec.ofNat 4 k }, none, r)
        | none, some e => .ok ({ f with ib := true }, some e, r)
        | none, none => .error .operands
      | true, [] => .error .operands
    let es ← os.mapM fun o => match parseExpr o with
      | some e => .ok e
      | none => .error .operands
    match ownImms opc op, es with
    | 0, [] => .ok { opc := opc, f := f, imm := none, len := none, ib := ib }
    | 1, [e] => .ok { opc := opc, f := f, imm := some e, len := none, ib := ib }
    | 2, [e, l] => .ok { opc := opc, f := f, imm := some e, len := some l, ib := ib }
    | _, _ => .error .operands

/-- The word of a collective instruction, with the values of its labels; `.STG` has its entry in IMM[7:0]. An integer in the place of B shares IMM
with the instruction's own use, so that the two must agree (R306). -/
def CDraft.resolve (c : CDraft) (env : String → Option Int) : Except Why DWord := do
  let value (e : Option Expr) : Except Why (Option Int) := match e with
    | none => .ok none
    | some e => match e.eval env with
      | some v => .ok (some v)
      | none => .error .undefinedName
  let imm ← value c.imm
  let len ← value c.len
  let ib ← value c.ib
  let own : Option Int := imm.map fun v => v + (match len with | some n => (n - 1) * 2 ^ 8 | none => 0)
  let v ← match own, ib with
    | none, none => .ok 0
    | some v, none | none, some v => .ok v
    | some v, some w => if v = w then .ok v else .error .twoImmediates
  if v < -(2 ^ 39) ∨ 2 ^ 40 ≤ v ∨ (ib.isSome ∧ 2 ^ 39 ≤ v) then .error .range
  else if len.any fun n => decide (n < 1 ∨ 1024 < n) || imm.any fun e => decide (e < 0 ∨ 256 ≤ e) then .error .range
  else .ok (encodeCollective (BitVec.ofNat 6 c.opc) { c.f with imm := BitVec.ofInt 40 v })

end Sys2Proof.Asm
end

