-- ==== Sys2Proof/Machine/Assembler.lean ====
section
/-! DEFINITION. The assembler `zkas` (R157-R166, R317, R334, R428): from a text to an instruction image with its
padding, a data image, launch records, collective programs and warnings. -/

namespace Sys2Proof.Asm

open Sys2Proof

/-! ## What is assembled -/

/-- An instruction at its place in the image. -/
structure Item where
  line : Nat
  addr : Nat
  draft : Draft
  /-- The names of `.buf` at the statement. -/
  env : Env
  /-- The interval set that the instruction leaves recorded: none where it leaves the one before, `some none` where
  the check is off (R164). -/
  records : Option (Option Nat)
  deriving DecidableEq, Repr

/-- A part of the image. -/
inductive Chunk where
  /-- PAD32 words (R162). -/
  | pads (n : Nat)
  | item (i : Item)
  deriving DecidableEq, Repr

/-- A directive that sets a field of the launch record (R163). -/
inductive RecordSet where
  | launch (name : String) (vs : List Expr)
  | vault (v : Expr)
  | fmtslot (n : Expr) (v : Nat)
  deriving DecidableEq, Repr

/-- Such a directive at its line, with the names of `.buf` there: its values may name labels (R428). -/
structure RecordOp where
  line : Nat
  env : Env
  set : RecordSet
  deriving DecidableEq, Repr

structure Kernel where
  name : String
  /-- Offset of the entry in the image. -/
  entry : Nat
  items : List Item
  /-- Labels with their offsets in the image. -/
  labels : List (String × Nat)
  /-- The `.join` directives: the line, and the index of the next instruction. -/
  joins : List (Nat × Nat)
  /-- What sets fields of the launch record, the newest first. -/
  ops : List RecordOp
  /-- The launch record, with ENTRY zero. -/
  record : List Byte
  deriving DecidableEq, Repr

/-- A part of the data image. -/
inductive Datum where
  | bytes (bs : List Byte)
  | word (line : Nat) (e : Expr)
  deriving DecidableEq, Repr

/-- A collective program. -/
structure Coll where
  name : String
  drafts : List (Nat × CDraft)
  labels : List (String × Nat)
  deriving DecidableEq, Repr

/-- Where a statement stands (R163). -/
inductive Part where
  | top | kernel | data | collective
  deriving DecidableEq, Repr

/-- The assembler between two lines. Lists of things done hold the newest first. -/
structure Work where
  part : Part
  here : Nat
  image : List Chunk
  data : List Datum
  dataHere : Nat
  dataLabels : List (String × Nat)
  kernels : List Kernel
  kernel : Kernel
  /-- Labels that wait for the next instruction (R162). -/
  pending : List String
  env : Env
  colls : List Coll
  coll : Coll
  deriving DecidableEq, Repr

def Kernel.empty : Kernel := { name := "", entry := 0, items := [], labels := [], joins := [], ops := [], record := [] }

def Coll.empty : Coll := { name := "", drafts := [], labels := [] }

def Work.empty : Work :=
  { part := .top, here := 0, image := [], data := [], dataHere := 0, dataLabels := [], kernels := [],
    kernel := .empty, pending := [], env := [], colls := [], coll := .empty }

/-- What the assembler makes of a text. -/
structure Module where
  /-- The instruction image (R162). -/
  image : List Byte
  /-- The data image (R163). -/
  data : List Byte
  kernels : List Kernel
  collectives : List (String × List DWord)
  /-- The warnings of R164: a line and a register outside the recorded set. -/
  warnings : List (Nat × Nat)
  deriving DecidableEq, Repr

/-! ## Emission -/

/-- PAD32 words that stand before an instruction of `len` bytes at an offset (R141, R162). -/
def padsBefore (here len : Nat) : Nat := if here % 32 + len ≤ 32 then 0 else (32 - here % 32) / 4

/-- Emit an instruction after its padding; the labels that wait bind to it. -/
def Work.emit (w : Work) (line : Nat) (d : Draft) (records : Option (Option Nat)) : Work :=
  let n := padsBefore w.here d.f.form.len
  let addr := w.here + 4 * n
  let it : Item := { line := line, addr := addr, draft := d, env := w.env, records := records }
  { w with
    here := addr + d.f.form.len
    image := .item it :: (if n = 0 then w.image else .pads n :: w.image)
    kernel := { w.kernel with
      items := it :: w.kernel.items
      labels := w.pending.map (·, addr) ++ w.kernel.labels }
    pending := [] }

/-- PAD32 words up to a multiple of 32 bytes. -/
def Work.align (w : Work) : Work :=
  let n := (32 - w.here % 32) % 32 / 4
  if n = 0 then w else { w with here := w.here + 4 * n, image := .pads n :: w.image }

/-- A name that may be bound here: no reserved word, and not bound yet. -/
def Work.fresh (w : Work) (s : String) : Bool :=
  !reserved s && (s.toList.head?).any nameStart && (w.env.get s).isNone
    && !(w.pending ++ w.kernel.labels.map (·.1) ++ w.dataLabels.map (·.1) ++ w.kernels.map (·.name)
        ++ w.coll.labels.map (·.1)).contains s

def Work.addData (w : Work) (n : Nat) (ds : List Datum) : Work :=
  { w with data := ds.reverse ++ w.data, dataHere := w.dataHere + n }

/-! ## Launch records (R163, R330, R334) -/

def recordPut (r : List Byte) (offset len : Nat) (v : Int) : Except Why (List Byte) :=
  if 0 ≤ v ∧ v < 2 ^ (8 * len) then .ok (r.take offset ++ leBytes len v.toNat ++ r.drop (offset + len))
  else .error .range

/-- Put a value into `len` bits from bit `lo` of the byte at an offset. -/
def recordBits (r : List Byte) (offset lo len : Nat) (v : Int) : Except Why (List Byte) :=
  if 0 ≤ v ∧ v < 2 ^ len then
    let old := (r.getD offset 0).toNat
    let kept := old - old / 2 ^ lo % 2 ^ len * 2 ^ lo
    .ok (r.set offset (BitVec.ofNat 8 (kept + v.toNat * 2 ^ lo)))
  else .error .range

/-- A record before any directive: X, Y, GRID, GSIZE, WAVES and BLOCKS as R334 fills them. -/
def recordStart : List Byte :=
  leBytes 8 0 ++ leBytes 8 1 ++ leBytes 4 0xFFFFFFFF ++ leBytes 4 1 ++ leBytes 4 0 ++ leBytes 3 0x010101
    ++ List.replicate 225 0

/-- The fields that hold a value as it is written: offset and bytes. -/
def launchFields : List (String × (Nat × Nat)) :=
  [("x", (16, 4)), ("y", (20, 4)), ("gang", (28, 1)), ("waves", (29, 1)), ("blocks", (30, 1)), ("slots", (32, 1)),
    ("tiles", (33, 1)), ("paths", (34, 1)), ("seed", (40, 8)), ("notbefore", (48, 8)), ("dep0", (64, 8)),
    ("dep1", (72, 8)), ("dep2", (80, 8)), ("dep3", (88, 8))]

/-- `.launch` (R334). -/
def launch (r : List Byte) (name : String) (vs : List Int) : Except Why (List Byte) :=
  match lookup launchFields name, name, vs with
  | some (offset, len), _, [v] => recordPut r offset len v
  | _, "grid", [v] => do recordBits (← recordPut r 8 8 v) 36 3 1 0
  | _, "gridaddr", [v] => do recordBits (← recordPut r 8 8 v) 36 3 1 1
  | _, "ring", [v] =>
    if v = 0 then recordPut r 31 1 0
    else match [8, 16, 32, 64, 128, 256].idxOf? v with
      | some i => recordPut r 31 1 (i + 3)
      | none => .error .range
  | _, "flags", [v] => recordBits r 36 0 3 v
  | _, "prio", [v] => recordBits r 36 4 2 v
  | _, "phcore", [v] => recordBits r 35 0 4 v
  | _, "phquad", [v] => recordBits r 35 4 4 v
  | _, "phdie", [b, n] => do recordPut (← recordPut r 56 1 b) 57 1 n
  | _, "phpkg", [b, n] => do recordPut (← recordPut r 58 2 b) 60 2 n
  | _, "phpod", [b, n] => do recordPut (← recordPut r 62 1 b) 63 1 n
  | _, _, _ => .error .operands

/-- The names of the FLAGS bits (R334). -/
def flagNames : Env := [("COSCHED", 1), ("EARLY", 2), ("PREEMPTIBLE", 4)]

def formatNames : List String := ["FP32", "BF16", "binary16", "TF8", "TF6", "E4M3", "E5M2", "INT8"]

/-- The fields of a format slot: the lowest bit, the width and the names of the values (R70). -/
def slotFields : List (String × (Nat × Nat × List String)) :=
  [("AFMT", (0, 4, formatNames)), ("BFMT", (4, 4, formatNames)), ("OFMT", (8, 4, formatNames)),
    ("RND", (12, 3, ["RNE", "RTZ", "RDN", "RUP", "RSR"])), ("SAT", (15, 1, [])),
    ("SMODE", (16, 4, ["none", "row", "column", "both"])), ("SFMT", (20, 4, ["E8"]))]

/-- The value of a format slot from its `field=value` arguments; omitted fields are 0 (R163). -/
def formatSlot : List (List Tok) → List String → Nat → Except Why Nat
  | [], _, v => .ok v
  | [.word k, .sym '=', t] :: r, seen, v =>
    match lookup slotFields k with
    | none => .error .operands
    | some (lo, len, names) =>
      if seen.contains k then .error .operands
      else
        let n := match t with
          | .num n => some n
          | .word s => names.idxOf? s
          | _ => none
        match n with
        | none => .error .operands
        | some n => if n < 2 ^ len then formatSlot r (k :: seen) (v + n * 2 ^ lo) else .error .range
  | _ :: _, _, _ => .error .operands

/-! ## Directives (R163) -/

/-- An argument as an expression. -/
def expression (ts : List Tok) : Except Why Expr :=
  match parseExpr ts with
  | some e => .ok e
  | none => .error .operands

/-- One more directive that sets a field of the launch record. -/
def Kernel.sets (k : Kernel) (line : Nat) (env : Env) (x : RecordSet) : Kernel :=
  { k with ops := { line := line, env := env, set := x } :: k.ops }

/-- The value of an argument that may fix the form of an instruction: integers and names of `.buf`, which are defined before
their use (R428, DESIGN CHOICE log 75). -/
def argument (env : Env) (ts : List Tok) : Except Why Int :=
  match parseExpr ts with
  | none => .error .operands
  | some e => match e.eval env.get with
    | some v => .ok v
    | none => .error .undefinedName

def args (ts : List Tok) : List (List Tok) := if ts = [] then [] else splitAtSep (· = .sym ',') ts

/-- The mask of a block list (`.interval`). -/
def blockMask : List Int → Except Why Nat
  | [] => .ok 0
  | b :: bs => do
    let m ← blockMask bs
    if b < 0 ∨ 30 < b then .error .range else .ok (m ||| 2 ^ b.toNat)

/-- The bytes of an FP32 or TF8 value (`.float`, `.tf8`). -/
def floatBytes (tf8 : Bool) (ts : List Tok) : Except Why (List Byte) :=
  match signedNumber ts with
  | none => .error .operands
  | some (neg, m, e) =>
    if tf8 then
      if decimalAbove m e 4096 then .error .range
      else .ok (leBytes 1 (tfEncode 7 .rne false 0 (decimal neg m e)))
    else .ok (leBytes 4 (rne32 (decimal neg m e)).toNat)

/-- A directive that stands inside a kernel. -/
def Work.inKernel (w : Work) (line : Nat) (d : String) (ts : List Tok) : Except Why Work := do
  let k := w.kernel
  match d, args ts with
  | "endk", [] =>
    .ok { w with
      part := .top
      kernels := { k with
        items := k.items.reverse
        labels := w.pending.map (·, w.here) ++ k.labels } :: w.kernels
      kernel := .empty
      pending := []
      env := [] }
  | "launch", [.word name] :: vs => do
    .ok { w with kernel := k.sets line w.env (.launch name (← vs.mapM expression)) }
  | "fmtslot", n :: fs => do
    .ok { w with kernel := k.sets line w.env (.fmtslot (← expression n) (← formatSlot fs [] 0)) }
  | "vault", [v] => do .ok { w with kernel := k.sets line w.env (.vault (← expression v)) }
  | "buf", [[.word name], n, base, len, [.word kind]] => do
    let n ← argument w.env n
    let base ← argument w.env base
    let len ← argument w.env len
    if !w.fresh name then .error .badName
    if !(["DATA", "LATCH"].contains kind) then .error .operands
    if n < 0 ∨ 63 < n ∨ base < 0 ∨ len < 0 then .error .range
    .ok { w with env := (name, n) :: (name ++ ".base", base) :: (name ++ ".len", len) :: w.env }
  | "interval", bs => do
    let m ← blockMask (← bs.mapM (argument w.env))
    let d ← statement w.env 0 false "IVL" [.expr (.num m)] none
    .ok (w.emit line d (some (some m)))
  | "join", [] => .ok { w with kernel := { k with joins := (line, k.items.length) :: k.joins } }
  | "align32", [] => .ok w.align
  | _, _ => .error .place

/-- A directive that stands in data. -/
def Work.inData (w : Work) (line : Nat) (d : String) (ts : List Tok) : Except Why Work :=
  match d with
  | "word" => do
    let es ← (args ts).mapM fun a => match parseExpr a with
      | some e => .ok e
      | none => .error .operands
    .ok (w.addData (4 * es.length) (es.map (.word line)))
  | "float" => do
    let bs ← (args ts).mapM (floatBytes false)
    .ok (w.addData (4 * bs.length) (bs.map .bytes))
  | "tf8" => do
    let bs ← (args ts).mapM (floatBytes true)
    .ok (w.addData bs.length (bs.map .bytes))
  | _ => .error .place

/-- A directive (R163). -/
def Work.directive (w : Work) (line : Nat) (d : String) (ts : List Tok) : Except Why Work :=
  match w.part with
  | .kernel => w.inKernel line d ts
  | .collective =>
    if d = "endc" && ts = [] then
      .ok { w with part := .top, colls := { w.coll with drafts := w.coll.drafts.reverse } :: w.colls, coll := .empty }
    else .error .place
  | _ =>
    match d, ts with
    | "kernel", [.word name] =>
      if !w.fresh name then .error .badName
      else
        let w := w.align
        .ok { w with
          part := .kernel
          kernel := { Kernel.empty with name := name, entry := w.here, record := recordStart } }
    | "collective", [.word name] =>
      if reserved name || w.colls.any (·.name = name) then .error .badName
      else .ok { w with part := .collective, coll := { Coll.empty with name := name } }
    | "data", [] => .ok { w with part := .data }
    | "data", [.word name] =>
      if !w.fresh name then .error .badName
      else .ok { w with part := .data, dataLabels := (name, w.dataHere) :: w.dataLabels }
    | _, _ => if w.part = .data then w.inData line d ts else .error .place

/-! ## Lines (R157) -/

/-- A label (R157, R162, R428). -/
def Work.label (w : Work) (s : String) : Except Why Work :=
  if !w.fresh s then .error .badName
  else match w.part with
    | .top => .error .place
    | .kernel => .ok { w with pending := s :: w.pending }
    | .data => .ok { w with dataLabels := (s, w.dataHere) :: w.dataLabels }
    | .collective => .ok { w with coll := { w.coll with labels := (s, w.coll.drafts.length) :: w.coll.labels } }

/-- The interval set that an instruction leaves recorded (R164). -/
def Draft.records (d : Draft) : Option (Option Nat) :=
  if d.opc ≠ 0x0D then none
  else match d.f.a, d.imms with
    | .const v, _ => some (if v < 0 then none else some v.toNat)
    | .imm, [.word x] => some (some x.toNat)
    | _, _ => some none

/-- The lookahead count at the end of a statement, and what stands before it. -/
def splitLa (ts : List Tok) : List Tok × Option Nat :=
  match ts.reverse with
  | .num k :: .sym '=' :: .word "la" :: r => (r.reverse, some k)
  | _ => (ts, none)

/-- An instruction, with its qualifying predicate read already. -/
def Work.instruction (w : Work) (line : Nat) (qp : Nat) (qn : Bool) (mnemonic : String) (ts : List Tok) :
    Except Why Work := do
  let (ts, la) := splitLa ts
  let os ← (args ts).mapM operand
  let d ← statement w.env qp qn mnemonic os la
  .ok (w.emit line d d.records)

/-- A statement after its label. -/
def Work.body (w : Work) (line : Nat) (ts : List Tok) : Except Why Work :=
  match ts, w.part with
  | [], _ => .ok w
  | .dir d :: r, _ => w.directive line d r
  | .sym '(' :: .sym '!' :: .word p :: .sym ')' :: .word m :: r, .kernel =>
    match numbered "p" 8 p with
    | some i => w.instruction line i true m r
    | none => .error .text
  | .sym '(' :: .word p :: .sym ')' :: .word m :: r, .kernel =>
    match numbered "p" 8 p with
    | some i => w.instruction line i false m r
    | none => .error .text
  | .word m :: r, .kernel => w.instruction line 0 false m r
  | .word m :: r, .collective => do
    let d ← collective m (args r)
    .ok { w with coll := { w.coll with drafts := (line, d) :: w.coll.drafts } }
  | .word _ :: _, _ => .error .place
  | .sym '(' :: _, .data | .sym '(' :: _, .top => .error .place
  | _, _ => .error .text

/-- A line (R157). -/
def Work.line (w : Work) (line : Nat) (cs : List Char) : Except Why Work :=
  match lex cs with
  | none => .error .text
  | some (.word s :: .sym ':' :: r) => do (← w.label s).body line r
  | some ts => w.body line ts

/-! ## Resolution of names (R428) -/

/-- The values of names for a kernel: labels and kernel names as offsets. -/
def Kernel.env (k : Kernel) (ks : List Kernel) (data : List (String × Nat)) (env : Env) (s : String) : Option Int :=
  match env.get s, lookup k.labels s, ks.find? (·.name = s), lookup data s with
  | some v, _, _, _ => some v
  | none, some a, _, _ => some ((a : Int) - k.entry)
  | none, none, some k', _ => some k'.entry
  | none, none, none, some a => some a
  | none, none, none, none => none

/-- The values of names in the data image (R428): a label inside a kernel has its offset from the kernel's entry; one that
several kernels define at different offsets names none of them (DESIGN CHOICE log 75). -/
def dataEnv (ks : List Kernel) (data : List (String × Nat)) (s : String) : Option Int :=
  match Kernel.empty.env ks data [] s with
  | some v => some v
  | none =>
    match ks.filterMap fun k => (lookup k.labels s).map fun (a : Nat) => (a : Int) - k.entry with
    | [] => none
    | v :: vs => if vs.all fun x => x = v then some v else none

/-- A launch record with one more field set. -/
def RecordOp.apply (o : RecordOp) (k : Kernel) (ks : List Kernel) (data : List (String × Nat)) (r : List Byte) :
    Except Why (List Byte) := do
  let value (extra : Env) (e : Expr) : Except Why Int := match e.eval (k.env ks data (extra ++ o.env)) with
    | some v => .ok v
    | none => .error .undefinedName
  match o.set with
  | .launch name vs => launch r name (← vs.mapM (value (if name = "flags" then flagNames else [])))
  | .vault v => recordPut r 24 4 (← value [] v)
  | .fmtslot n v =>
    let n ← value [] n
    if n < 0 ∨ 7 < n then .error .range else recordPut r (96 + 4 * n.toNat) 4 v

/-- The value of IMM32. The target of a transfer is an offset from its kernel's entry, or from the start of the
image where a kernel's name stands in it. -/
def Imm.resolve (i : Imm) (env : String → Option Int) (ks : List Kernel) (entry addr : Nat) : Except Why Word :=
  match i with
  | .word w => .ok w
  | .expr e => match e.eval env with
    | some v => word32 v
    | none => .error .undefinedName
  | .target e => match e.eval env with
    | some v =>
      let base : Int := if e.names.any fun s => ks.any (·.name = s) then 0 else entry
      let d := base + v - addr
      if -(2 ^ 31) ≤ d ∧ d < 2 ^ 31 then .ok (BitVec.ofInt 32 d) else .error .range
    | none => .error .undefinedName

/-- The one value of a list of immediates (R158). -/
def oneImm : List Word → Except Why Word
  | [] => .ok 0
  | w :: ws => if ws.all (· = w) then .ok w else .error .twoImmediates

/-- The instruction of an item, if R143 to R151 accept it (R166). -/
def Item.instr (it : Item) (k : Kernel) (ks : List Kernel) (data : List (String × Nat)) : Except Why Instr := do
  let ws ← it.draft.imms.mapM fun i => i.resolve (k.env ks data it.env) ks k.entry it.addr
  let i := Instr.ofOpc (BitVec.ofNat 8 it.draft.opc) { it.draft.f with imm := ← oneImm ws }
  if i.wellFormed then .ok i else .error .encoding

/-! ## The paths of a kernel (R164, R165) -/

/-- The elements of a list, each once. -/
def distinct {α : Type} [BEq α] : List α → List α
  | [] => []
  | x :: xs => if xs.contains x then distinct xs else x :: distinct xs

/-- The index of the instruction that a branch reaches; past the last one it is their number. -/
def Item.targets (it : Item) (k : Kernel) (ks : List Kernel) (data : List (String × Nat)) : List Nat :=
  it.draft.imms.filterMap fun i =>
    match i.resolve (k.env ks data it.env) ks k.entry it.addr with
    | .ok w =>
      let goal := (it.addr : Int) + w.toInt
      if (k.entry : Int) ≤ goal then some (k.items.findIdx fun x => goal ≤ (x.addr : Int)) else none
    | .error _ => none

/-- The instructions that may follow the one of an index. A CALL goes to its target and on, and a return, a BRX and
the end of a thread lead nowhere in the kernel (DEDUCED log 76). -/
def Kernel.follow (k : Kernel) (ks : List Kernel) (data : List (String × Nat)) (i : Nat) : List Nat :=
  match k.items[i]? with
  | none => []
  | some it =>
    let always := it.draft.f.qp = 0 && !it.draft.f.qn
    let never := it.draft.f.qp = 0 && it.draft.f.qn
    match it.draft.opc with
    | 0x01 =>
      (if never then [] else it.targets k ks data) ++ (if always then [] else [i + 1])
    | 0x03 => it.targets k ks data ++ [i + 1]
    | 0x02 | 0x05 | 0x06 | 0xE3 | 0xE7 => if always then [] else [i + 1]
    | _ => [i + 1]

/-- The edges of a kernel, by index. -/
def Kernel.edges (k : Kernel) (ks : List Kernel) (data : List (String × Nat)) : List (List Nat) :=
  (List.range k.items.length).map (k.follow ks data)

/-- What is reached from a list of nodes, without entering those of `stop`. -/
def reach (next : List (List Nat)) (stop : List Nat) : Nat → List Nat → List Nat → List Nat
  | 0, _, seen => seen
  | _, [], seen => seen
  | n + 1, u :: work, seen =>
    let new := distinct ((next.getD u []).filter fun v => !seen.contains v && !stop.contains v)
    reach next stop n (new ++ work) (seen ++ new)

/-- The nodes reached from the entry, the entry among them, when a node is taken out. -/
def reachWithout (next : List (List Nat)) (x : Nat) : List Nat :=
  if x = 0 then [] else reach next [x] (next.length + 2) [0] [0]

/-- The edges turned around. -/
def turned (next : List (List Nat)) : List (List Nat) :=
  (List.range (next.length + 1)).map fun v => (List.range next.length).filter fun u => (next.getD u []).contains v

/-- The nearest instruction, other than the node itself, that every path from the entry to a node passes. -/
def nearestDominator (next : List (List Nat)) (j : Nat) : Option Nat :=
  if !(reach next [] (next.length + 2) [0] [0]).contains j then none
  else
    let doms := (List.range next.length).filter fun x => x ≠ j && !(reachWithout next x).contains j
    doms.find? fun x => doms.all fun y => y = x || !(reachWithout next y).contains x

/-- Count the entries pushed from the start of a region to its nodes, with what each edge pushes; none where two paths
differ, or an edge pushes no one count (R165). -/
def counts (next : List (List Nat)) (push : Nat → Nat → Option Nat) (region : List Nat) :
    Nat → List Nat → List (Nat × Nat) → Option (List (Nat × Nat))
  | 0, _, cs => some cs
  | _, [], cs => some cs
  | n + 1, u :: work, cs =>
    let c := ((cs.find? (·.1 = u)).map (·.2)).getD 0
    match (distinct ((next.getD u []).filter region.contains)).mapM fun v => (push u v).map fun k => (v, c + k) with
    | none => none
    | some vs =>
      if vs.any fun v => cs.any fun x => x.1 = v.1 && x.2 ≠ v.2 then none
      else
        let new := vs.filter fun v => !cs.any fun x => x.1 = v.1
        counts next push region n (new.map (·.1) ++ work) (new ++ cs)

/-- What a kernel's routines are counted by: its edges, what each instruction pushes, its calls with their targets, and its
returns. -/
structure Flow where
  next : List (List Nat)
  push : List Nat
  calls : List (Nat × Nat)
  rets : List Nat
  deriving DecidableEq, Repr

/-- What an edge pushes: a call on to its next instruction what its routine pushes too, by the counts known. -/
def Flow.edge (x : Flow) (known : List (Nat × Nat)) (u v : Nat) : Option Nat :=
  match x.calls.find? (·.1 = u) with
  | some (_, t) =>
    if v = u + 1 then (known.find? (·.1 = t)).map fun p => x.push.getD u 0 + p.2 else some (x.push.getD u 0)
  | none => some (x.push.getD u 0)

/-- What the routine at a target pushes up to its returns, where that is one count. -/
def Flow.routine (x : Flow) (known : List (Nat × Nat)) (t : Nat) : Option Nat :=
  let next := ((List.range x.next.length).zip x.next).map fun p => if x.calls.any (·.1 = p.1) then [p.1 + 1] else p.2
  match counts next (x.edge known) (List.range (x.next.length + 1)) (x.next.length + 2) [t] [(t, 0)] with
  | none => none
  | some cs =>
    match (cs.filter fun p => x.rets.contains p.1).map fun p => p.2 + x.push.getD p.1 0 with
    | [] => none
    | c :: l => if l.all (· = c) then some c else none

/-- What the routines push, those that call others after them. -/
def Flow.routines (x : Flow) : Nat → List (Nat × Nat) → List (Nat × Nat)
  | 0, known => known
  | n + 1, known =>
    Flow.routines x n ((distinct (x.calls.map (·.2))).filterMap fun t => (x.routine known t).map fun c => (t, c))

/-- The check of one `.join` (R165). A loop that pushes has no one count, and fails; so does a path over a call of a routine
that pushes no one count (DEDUCED log 76). -/
def joinOk (x : Flow) (j : Nat) : Bool :=
  match nearestDominator x.next j with
  | none => true
  | some d =>
    let region := (reach (turned x.next) [d] (x.next.length + 2) [j] [j]).filter (· ≠ d)
    (counts x.next (x.edge (x.routines x.calls.length [])) region (x.next.length + 2) [d] [(d, 0)]).isSome

/-- The named registers that an instruction reads or writes. -/
def touched (s : Shape) (f : Fields) : List Nat :=
  let use (u : Use) (x : Src) : List Nat := match x, u with
    | .n k, .s64 => [k, k + 1]
    | .n k, .run m | .n k, .seq m => (List.range m).map (k + ·)
    | .n k, _ => [k]
    | _, _ => []
  let dest : List Nat := match f.d, s.d with
    | .n k, .pair => [k, k + 1]
    | .n k, .run m | .n k, .mustRun m => (List.range m).map (k + ·)
    | .n k, .reg => [k]
    | _, _ => []
  dest ++ use s.a f.a ++ use s.b f.b ++ use s.c f.c ++ use s.e f.e ++ use s.f f.f

/-- The registers of an item outside a recorded set. -/
def Item.outside (it : Item) (set : Option Nat) : List (Nat × Nat) :=
  match set, shapeOf it.draft.opc it.draft.f with
  | some m, some s => ((touched s it.draft.f).filter fun r => !m.testBit (r / 8)).map (it.line, ·)
  | _, _ => []

/-- The warnings along every path: nodes paired with the set recorded there (R164). -/
def intervalGo (items : List Item) (next : List (List Nat)) :
    Nat → List (Nat × Option Nat) → List (Nat × Option Nat) → List (Nat × Nat)
  | 0, _, _ => []
  | _, [], _ => []
  | n + 1, (u, set) :: work, seen =>
    match items[u]? with
    | none => intervalGo items next n work seen
    | some it =>
      let after := it.records.getD set
      let new := distinct (((next.getD u []).map (·, after)).filter (!seen.contains ·))
      it.outside set ++ intervalGo items next n (new ++ work) (seen ++ new)

def intervalWarnings (items : List Item) (next : List (List Nat)) : List (Nat × Nat) :=
  distinct (intervalGo items next ((items.length + 1) * (items.length + 2)) [(0, none)] [(0, none)])

/-- The entries that each instruction of a kernel pushes (R38, R39). -/
def Kernel.pushes (k : Kernel) : List Nat :=
  k.items.map fun it => ((shapeOf it.draft.opc it.draft.f).map (·.pushes)).getD 0

/-- The flow of a kernel. -/
def Kernel.flow (k : Kernel) (ks : List Kernel) (data : List (String × Nat)) : Flow :=
  let numbered := (List.range k.items.length).zip k.items
  { next := k.edges ks data
    push := k.pushes
    calls := numbered.flatMap fun p => if p.2.draft.opc = 0x03 then (p.2.targets k ks data).map fun t => (p.1, t) else []
    rets := (numbered.filter fun p => p.2.draft.opc = 0x05).map fun p => p.1 }

/-! ## The whole text -/

/-- A step of the assembler at a line that it reports. -/
def atLine {α : Type} (n : Nat) (x : Except Why α) : Except (Nat × Why) α :=
  match x with
  | .ok a => .ok a
  | .error w => .error (n, w)

/-- Read every line. -/
def readLines : Nat → List (List Char) → Work → Except (Nat × Why) Work
  | n, [], w => if w.part = .kernel ∨ w.part = .collective then .error (n, .place) else .ok w
  | n, l :: ls, w => do readLines (n + 1) ls (← atLine n (w.line n l))

/-- The bytes of a part of the image. -/
def Chunk.bytes (c : Chunk) (ks : List Kernel) (data : List (String × Nat)) : Except (Nat × Why) (List Byte) :=
  match c with
  | .pads n => .ok ((List.replicate n (leBytes 4 3)).flatten)
  | .item it =>
    match ks.find? fun k => k.items.contains it with
    | none => .error (it.line, .place)
    | some k => (atLine it.line (it.instr k ks data)).map encode

/-- The bytes of a part of the data image. -/
def Datum.image (d : Datum) (ks : List Kernel) (data : List (String × Nat)) : Except (Nat × Why) (List Byte) :=
  match d with
  | .bytes bs => .ok bs
  | .word line e =>
    match e.eval (dataEnv ks data) with
    | none => .error (line, .undefinedName)
    | some v => (atLine line (word32 v)).map fun w => leBytes 4 w.toNat

/-- The words of a collective program that R305 accepts (R317). -/
def Coll.words (c : Coll) : Except (Nat × Why) (List DWord) := do
  let env (s : String) : Option Int := (lookup c.labels s).map fun i => (i : Int)
  let ws ← c.drafts.mapM fun d => atLine d.1 (d.2.resolve env)
  if (Machine.checkProgram ws).isSome then .ok ws else .error ((c.drafts.getLast?.map (·.1)).getD 0, .encoding)

/-- The checks of a kernel's `.join` directives, and its warnings. -/
def Kernel.check (k : Kernel) (ks : List Kernel) (data : List (String × Nat)) :
    Except (Nat × Why) (List (Nat × Nat)) :=
  let flow := k.flow ks data
  match k.joins.find? fun j => !joinOk flow j.2 with
  | some j => .error (j.1, .join)
  | none => .ok (intervalWarnings k.items flow.next)

/-- A kernel with its launch record. -/
def Kernel.withRecord (k : Kernel) (ks : List Kernel) (data : List (String × Nat)) : Except (Nat × Why) Kernel := do
  let r ← k.ops.reverse.foldlM (fun r o => atLine o.line (o.apply k ks data r)) k.record
  .ok { k with record := r }

/-- Assemble a text: its images, records and programs, or the line and the reason of an assembly error. -/
def assemble (text : String) : Except (Nat × Why) Module := do
  let w ← readLines 1 (lines text) .empty
  let ks := w.kernels.reverse
  let image ← w.image.reverse.mapM fun c => c.bytes ks w.dataLabels
  let data ← w.data.reverse.mapM fun d => d.image ks w.dataLabels
  let warnings ← ks.mapM fun k => k.check ks w.dataLabels
  let colls ← w.colls.reverse.mapM fun c => c.words.map fun ws => (c.name, ws)
  let kernels ← ks.mapM fun k => k.withRecord ks w.dataLabels
  .ok { image := image.flatten, data := data.flatten, kernels := kernels, collectives := colls, warnings := warnings.flatten }

/-- A kernel's launch record where the image stands at an address: ENTRY is the entry's address (R334). -/
def Kernel.recordAt (k : Kernel) (base : DWord) : List Byte :=
  leBytes 8 (base + BitVec.ofNat 64 k.entry).toNat ++ k.record.drop 8

end Sys2Proof.Asm
end

