-- ==== Sys2Proof/Safety.lean ====
section
/-! DEFINITION. What holds between steps, in the terms that claims use: memory in its canonical form, and no trap,
halt or ended handler left over. -/

namespace Sys2Proof.Machine

open Sys2Proof

/-- DRAM and host memory are in canonical form: addresses strictly rising, and no listed byte 0, which is what an
unlisted address reads as (DESIGN CHOICE log 3). -/
def Memory.wf (mem : List Host.Cell) : Bool := swf 0 mem

/-- Nothing is left over between steps: nobody acts; no thread that may enter a trap has one due (R371, R372); every
halted wave is reported (R207); and no ended handler holds its slot (R31). -/
structure State.Settled (s : State) : Prop where
  idle : s.cur = .none
  trapped : s.dueTrap = none
  reported : ∀ w ∈ s.waves, w.halted → w.haltLogged
  handled : ∀ w ∈ s.waves, ¬ w.ended

/-! ## An instruction at issue, as claims speak of it -/

/-- A wave whose program order has counted one more instruction. -/
def Wave.counted (w : Wave) : Wave := { w with seq := w.seq + 1 }

/-- The state in which the wave's instruction runs: the instruction is counted in program order. -/
def State.counted (s : State) (w : Wave) : State := s.setWave w.counted

/-- One lane of a wave issues an instruction of this shape: the level, form, fields and blocks pass the checks of
R155, the qualifying predicate is true (R39), and no operand is a pending result (R50). -/
structure Issues (need : Level) (sh : Shape) (f : Fields) (s : State) (w : Wave) (lane : Nat) (t : Thread) : Prop where
  cur : s.cur = .group w.id [lane]
  wave : s.wave? w.id = some w
  thread : w.threads[lane]? = some t
  checks : checkIssue need t.level sh f w.blocks = none
  on : t.qual f = true
  clear : t.lookahead sh f = none

/-- Some lanes of a wave issue an instruction of this shape, whose level, form, fields and blocks pass the checks of
R155. -/
structure Group (need : Level) (sh : Shape) (f : Fields) (s : State) (w : Wave) (lanes : List Nat) : Prop where
  cur : s.cur = .group w.id lanes
  wave : s.wave? w.id = some w
  once : lanes.Nodup
  checks : checkIssue need (w.levelOf lanes) sh f w.blocks = none

/-- A wave whose instruction is counted, with these threads. -/
def Wave.withThreads (w : Wave) (ts : List Thread) : Wave := { w with seq := w.seq + 1, threads := ts }

/-- A wave after an instruction that changes only the threads of some lanes: `h` gives each of them after it. -/
def Wave.mapLanes (w : Wave) (lanes : List Nat) (h : Nat → Thread → Thread) : Wave :=
  w.withThreads (w.threads.mapIdx fun l t => if l ∈ lanes then h l t else t)

/-- A lane's thread after an instruction: `off` where its qualifying predicate is false, the LOOKAHEAD fault where an
operand is a pending result, and `g` of the thread at issue otherwise. -/
def laneAfter (sh : Shape) (f : Fields) (s : State) (w : Wave) (off : Thread → Thread) (g : Nat → Thread → Thread)
    (l : Nat) (t : Thread) : Thread :=
  if !t.qual f then off t
  else
    match t.lookahead sh f with
    | some o => t.fault .lookahead (BitVec.ofNat 64 o.code) (w.seq + 1)
    | none => g l (t.issued s sh f)

/-- An instruction whose threads each act on their own, and neither fault nor wait: in each thread whose
qualifying predicate is true and that reads no pending result, `g` gives the thread before the step past the
instruction. Nothing else of the state changes. -/
def Sets (mk : Fields → Instr) (sh : Fields → Shape) (g : Fields → State → Wave → Nat → Thread → Thread) : Prop :=
  ∀ f s w lanes, Group .user (sh f) f s w lanes →
    exec (mk f) s = .next (s.setWave (w.mapLanes lanes (laneAfter (sh f) f s w (fun t => t.off (sh f) f)
      fun l t => (g f s w l t).advance f.form.len)))

/-- An instruction that delivers `result32` of a value of its 32-bit sources A, B and C (R167). -/
def Gives32 (mk : Fields → Instr) (sh : Fields → Shape) (v : Fields → Word → Word → Word → Word) : Prop :=
  Sets mk sh fun f s w l t =>
    t.result f.d.reg [v f (read32 s w l t f f.a) (read32 s w l t f f.b) (read32 s w l t f f.c)]

/-- An instruction that delivers `result64` of a value (R167). -/
def Gives64 (mk : Fields → Instr) (sh : Fields → Shape) (v : Fields → State → Wave → Nat → Thread → DWord) : Prop :=
  Sets mk sh fun f s w l t =>
    let r := v f s w l t
    t.result f.d.reg [r.extractLsb' 0 32, r.extractLsb' 32 32]

/-- A compare: its condition `c` in a thread, and the table of R149 for the two targets, whose columns `p1` and `p2`
are given by the combining type, the first target's old value and the condition. A false qualifying predicate
changes no predicate, but for type UNC, which clears both targets. -/
def Compares (mk : Fields → Instr) (sh : Fields → Shape) (c : Fields → State → Wave → Nat → Thread → Bool) : Prop :=
  ∀ f s w lanes, Group .user (sh f) f s w lanes →
    let i := f.d.code % 8
    let j := f.d.code / 8 % 8
    let ty := f.m.toNat % 8
    let p1 (o c : Bool) : Bool :=
      if ty = 0 ∨ ty = 1 then c
      else if ty = 2 ∨ ty = 7 then o && c
      else if ty = 3 then o || c
      else if ty = 4 then o ^^ c
      else if ty = 5 then o && !c
      else o || !c
    let p2 (o c : Bool) : Bool := if ty = 7 then o && !c else !p1 o c
    exec (mk f) s = .next (s.setWave (w.mapLanes lanes (laneAfter (sh f) f s w
      (fun t => ((if ty = 1 then (t.countIssue.setPred i false).setPred j false else t.countIssue)).advance f.form.len)
      fun l t => ((t.setPred i (p1 (t.pred i) (c f s w l t))).setPred j (p2 (t.pred i) (c f s w l t))).advance f.form.len)))

/-- A wave instruction whose participating threads act together and none of which faults (R199): `g` gives a
participating thread before the step past the instruction, from the list of all of them. -/
def Together (mk : Fields → Instr) (sh : Fields → Shape)
    (g : Fields → State → Wave → List Nat → Nat → Thread → Thread) : Prop :=
  ∀ f s w lanes, Group .user (sh f) f s w lanes →
    exec (mk f) s = .next (s.setWave (w.mapLanes lanes (laneAfter (sh f) f s w (fun t => t.off (sh f) f)
      fun l t => (g f s (w.issued s (sh f) f) (w.clearLanes (sh f) f lanes) l t).advance f.form.len)))

/-- The level that a processor instruction needs (R154, R201). -/
def needed (i : Instr) : Level :=
  match i with
  | .csrr _ | .csrw _ | .tlbinv _ | .eret _ => .super
  | .snap _ | .svcrecv _ | .svcreply _ | .halt _ => .sys
  | _ => .user

/-- The state at the agenda's next move. -/
def State.popped (s : State) (rest : List Move) : State := { s with agenda := rest }

/-- The issue group that the next step forms, and the instruction that it fetches: the agenda's next move issues the
wave in a slot, which may issue; its lowest lane stands at an address that translates to `pa`, and the bytes that are
fetched there decode to `i`. `u` is the state in which `i` runs. -/
structure Fetches (s : State) (i : Instr) (u : State) (rest : List Move) (core slot : Nat) (w : Wave) (t : Thread)
    (pa : Nat) (leaf : DWord) : Prop where
  next : s.agenda = .issue core slot :: rest
  wave : (s.popped rest).waveAt core slot = some w
  ready : (s.popped rest).mayIssue w = true
  picked : (s.popped rest).picked w = true
  first : ((s.popped rest).padded w).firstThread (packGroup ((s.popped rest).padded w).eligibleLanes) = some t
  aligned : t.pc.extractLsb' 0 2 = 0
  translated : (s.popped rest).lookupVa w.core (rootTag ((s.popped rest).rootOfWave w)) t.level .x t.pc = .ok pa leaf
  space : paSpace pa ≠ 1
  reached : (s.popped rest).devOpen t.level (s.partOf (dieOf w.core)) pa (min 16 (32 - t.pc.toNat % 32)) = true
  clean : poisonedIn s.poison pa 4 = false
  decoded : ∃ len, decode ((s.popped rest).fetchBytes w.core (Writer.ofLevel t.level (s.partOf (dieOf w.core))) pa
      (min 16 (32 - t.pc.toNat % 32))) = .ok i len
    ∨ ∃ why, decode ((s.popped rest).fetchBytes w.core (Writer.ofLevel t.level (s.partOf (dieOf w.core))) pa
      (min 16 (32 - t.pc.toNat % 32))) = .bad i why len
  runs : u =
    let w1 := (s.popped rest).padded w
    let lanes := packGroup w1.eligibleLanes
    { ((s.popped rest).setWave { w1.passed lanes with lastIssue := s.clk }).cacheCode w.core pa with
      draws := s.draws + 16, cur := .group w.id lanes }

/-- One lane issues an instruction and completes it, or parks at it, wherever `P` holds of the state in which it runs, its
wave, its lane and its thread at issue: `after` gives the state around the thread and the thread after it. The wave
numbers are those of the program order that counts the instruction. -/
def Completes (i : Instr) (need : Level) (sh : Shape) (f : Fields) (P : State → Wave → Nat → Thread → Prop)
    (after : State → Wave → Nat → Thread → State × Thread) : Prop :=
  ∀ s w lane t, Issues need sh f s w lane t → P (s.counted w) w.counted lane (t.issued s sh f) →
    exec i s = .next ((after (s.counted w) w.counted lane (t.issued s sh f)).1.setThread w.id lane
      (after (s.counted w) w.counted lane (t.issued s sh f)).2)

/-- One lane issues an instruction and takes a precise fault wherever `c` gives one: nothing but the trap that is due
changes in its thread, and nothing else of the state. -/
def FaultsOn (i : Instr) (need : Level) (sh : Shape) (f : Fields) (c : State → Wave → Nat → Thread → Option (Cause × DWord)) : Prop :=
  ∀ s w lane t r, Issues need sh f s w lane t → c (s.counted w) w.counted lane (t.issued s sh f) = some r →
    exec i s = .next ((s.counted w).setThread w.id lane (t.fault r.1 r.2 (w.seq + 1)))

/-- One lane issues an instruction and waits at it wherever `P` holds: nothing changes but the count of the program
order. -/
def Waits (i : Instr) (need : Level) (sh : Shape) (f : Fields) (P : State → Wave → Nat → Thread → Prop) : Prop :=
  ∀ s w lane t, Issues need sh f s w lane t → P (s.counted w) w.counted lane (t.issued s sh f) →
    exec i s = .next (s.counted w)

/-- The thread stands past its instruction. -/
def Thread.past (t : Thread) (f : Fields) : Thread := t.advance f.form.len


/-- An executor runs an instruction of its window's invocation, which goes on: `after` gives the state, the window and the
invocation after it, from the invocation whose PC and step count have moved on. -/
def Invokes (i : Instr) (P : State → Window → Invocation → Prop)
    (after : State → Window → Invocation → State × Window × Invocation) : Prop :=
  ∀ s n v, s.cur = .executor n → (s.window n).running = some v → v.steps < 255 → P s (s.window n) v →
    let r := after s (s.window n) { v with pc := v.pc + 1, steps := v.steps + 1 }
    exec i s = .next (r.1.setWindow n { r.2.1 with running := some r.2.2 })

/-- An executor runs an instruction that fails its window's phase with a code. -/
def FailsPhase (i : Instr) (P : State → Window → Invocation → Prop) (code : Nat) : Prop :=
  ∀ s n v, s.cur = .executor n → (s.window n).running = some v → P s (s.window n) v → exec i s = .next (s.failPhase n code)

/-- Source a of a collective instruction (R304). -/
def collA (c : CFields) (s : State) (w : Window) (v : Invocation) : DWord :=
  if c.fa then BitVec.ofNat 64 (s.fragField w v c.a.toNat) else v.k.getD c.a.toNat 0

/-- Source b of a collective instruction (R304). -/
def collB (c : CFields) (v : Invocation) : DWord := if c.ib then c.imm.signExtend 64 else v.k.getD c.b.toNat 0

/-- An invocation with register D written. -/
def Invocation.gives (v : Invocation) (c : CFields) (x : DWord) : Invocation := { v with k := setAt v.k c.d.toNat x }

/-- The destination of a thread that leaves a park, where its wave has not returned the register's block since (R53). -/
def Thread.stillHeld (t : Thread) (d : Option Nat) : Option Nat := d.bind fun k => if k < t.cut then some k else none

end Sys2Proof.Machine
end

