-- ==== Sys2Proof/Certificates/Slice0/Obligations.lean ====
section
/-! DEFINITION. The statements about the model, from the spec's numbered rules. A statement of several parts is the
conjunction of the definitions under `Rules` that its title names. -/

open Sys2Proof Sys2Proof.Machine

/-! ## Encodings and the step -/

/-- R137-R140, R156, R171, R304: words written out from the spec's encodings decode to the instructions they stand for. -/
def Obligations.DecodesSpecWords : Prop :=
  let at_ (bytes : Nat) (x : Nat) : Decoded := decode (leBytes bytes x)
  let base : Fields :=
    { form := .f64, qp := 0, qn := false, la := 0, d := .none, a := .none, b := .none, c := .none, m := 0, imm := 0, e := .none,
      f := .none, x := 0 }
  at_ 8 0x003FF47008502C40 = .ok (.iadd { base with qp := 3, qn := true, d := .n 4, a := .q 1, b := .const 7 }) 8
  ∧ at_ 12 0x3F800000003FFFE0007008E5 = .ok (.fmul { base with form := .f96, qp := 2, d := .n 12, a := .q 0, b := .imm, imm := 0x3F800000 }) 12
  ∧ at_ 12 0xFFFFFFE0003FFFFFFFFC0405 = .ok (.bra { base with form := .f96, qp := 1, imm := 0xFFFFFFE0 }) 12
  ∧ at_ 8 0x003FFFFFFFFC038C = .ok (.eret base) 8
  ∧ at_ 4 3 = .pad
  ∧ decode (leBytes 8 0x003FFFFFFFFC00B0) = .bad (.illOpc 0x2C base) .unassigned 8
  ∧ decodeCollective 0x00000000080C040E = some (.cshr { d := 0, a := 1, b := 0, fa := true, ib := true, op := 0, imm := 8 })

/-- R136-R144, R152: decoding the encoding of a well-formed processor instruction, at the head of any bytes, gives it
back, whatever its fields hold. -/
def Obligations.DecodeEncode : Prop :=
  ∀ (i : Instr) (opc : BitVec 8) (f : Fields) (sh : Shape) (rest : List Byte),
    i.proc = some (opc, f, sh) → i.wellFormed = true → decode (encode i ++ rest) = .ok i f.form.len

/-- R136-R139: every bit of an instruction is read: two lists of bytes that decode to one instruction hold the same bytes
for its length, those of its encoding. -/
def Rules.EncodeDecode : Prop :=
  ∀ (bytes : List Byte) (i : Instr) (len : Nat), decode bytes = .ok i len → encode i = bytes.take len ∧ len ≤ bytes.length

/-- R304, R305: the same for the collective instructions and their 64-bit words. -/
def Rules.CollectiveDecodeEncode : Prop :=
  (∀ (i : Instr) (opc : BitVec 6) (c : CFields) (sh : CShape),
    i.coll = some (opc, c, sh) → i.wellFormed = true → decodeCollective (encodeCollective opc c) = some i)
  ∧ ∀ (x : DWord) (i : Instr), decodeCollective x = some i →
      ∃ opc c sh, i.coll = some (opc, c, sh) ∧ i.wellFormed = true ∧ encodeCollective opc c = x

/-- R25, R140-R142, R155: a step whose move issues a wave forms its group, fetches at the group's PC, and is `exec` of the
instruction that the bytes there decode to, followed by what follows every instruction. An ill-formed instruction runs too:
its meaning takes the fault. -/
def Rules.StepRunsFetched : Prop :=
  ∀ s i u rest core slot w t pa leaf, Fetches s i u rest core slot w t pa leaf →
    step s = match exec i u with
      | .next v => .next (State.finishStep u i v)
      | .fault r => .fault r
      | .refused r => .refused r

/-- R142: instruction bytes are those in memory, or those of the core's instruction cache where it holds their block, which is
as it was first fetched since the cache was invalidated. Which of the two is open (DEDUCED log 77). -/
def Rules.FetchesOldOrNew : Prop :=
  ∀ (s : State) (core pa n : Nat) (writer : Writer),
    let held (t : State) : Option (List Byte) := look (t.core core).code (pa / 32)
    (held s = none → s.fetchBytes core writer pa n = s.peekAs writer pa n)
    ∧ (∀ block, held s = some block →
        s.fetchBytes core writer pa n = s.peekAs writer pa n ∨ s.fetchBytes core writer pa n = (block.drop (pa % 32)).take n)
    ∧ (paSpace pa ≠ 2 → held (s.cacheCode core pa) = some ((held s).getD (s.peek (pa / 32 * 32) 32)))
    ∧ held (s.dropCode core) = none

/-- R301, R305: a step whose move runs an executor is `exec` of the invocation's next instruction; one whose move is an
event is `exec` of it. -/
def Rules.StepRunsOthers : Prop :=
  (∀ s n rest v i, s.agenda = .executor n :: rest → (s.window n).running = some v →
    (s.program (s.window n).prog).loaded[v.pc]? = some i →
    step s = match exec i { s with agenda := rest, cur := .executor n } with
      | .next t => .next (State.finishStep { s with agenda := rest, cur := .executor n } i t)
      | .fault r => .fault r
      | .refused r => .refused r)
  ∧ ∀ s rest i, s.agenda = .event i :: rest → i.illFormed = some .event →
    step s = match exec i { s with agenda := rest } with
      | .next t => .next (State.finishStep { s with agenda := rest } i t)
      | .fault r => .fault r
      | .refused r => .refused r

/-- What holds between steps: nobody acts, no thread that may enter a trap has one due, every halted wave is reported, and
no ended handler holds a slot. -/
def Rules.ResetSettled : Prop := State.reset.Settled

/-- R31, R207, R371, R372: every step leaves the machine settled: every trap that may be entered is entered, every halted
wave reported, and every ended handler gone. -/
def Obligations.StepSettles : Prop := ∀ s t, s.Settled → step s = .next t → t.Settled

/-- What reset leaves: memory, queues and waves empty, PCC at zero, the layout with one partition over all dies, and the
registers at the reset values of their tables. -/
def Rules.ResetValues : Prop :=
  State.reset.mem = [] ∧ State.reset.pcc = 0 ∧ State.reset.waves = [] ∧ State.reset.entries = []
  ∧ State.reset.partsNow = [0] ∧ State.reset.dieSet 0 = [0, 1, 2, 3, 4, 5, 6, 7]
  ∧ (∀ d, (State.reset.die d).slOn = 0xFF ∧ (State.reset.die d).mchead = 0 ∧ (State.reset.die d).cecnt = 0)
  ∧ (∀ c, (State.reset.core c).mchkctl = 0 ∧ (State.reset.core c).messages = [])
  ∧ (∀ p q, (State.reset.queue p q).en = false ∧ (State.reset.queue p q).tail = 0 ∧ (State.reset.queue p q).head = 0)
  ∧ (∀ n, (State.reset.window n).bound = false ∧ (State.reset.window n).state = .idle ∧ (State.reset.window n).phi = 0)
  ∧ ∀ pc l, (Thread.start pc l).preds = 0 ∧ (∀ j, (Thread.start pc l).q j = 0) ∧ (∀ k, (Thread.start pc l).reg k = 0)
      ∧ (Thread.start pc l).super = TrapSet.reset ∧ (Thread.start pc l).sys = TrapSet.reset

/-! ## Checks at issue -/

/-- R154, R155, R156: where a check of steps 3 to 6 of R155 fails, every thread of the group, whatever its qualifying
predicate, takes the fault at the instruction, and nothing else of the state changes. -/
def Rules.ChecksFault : Prop :=
  ∀ (i : Instr) (opc : BitVec 8) (f : Fields) (sh : Shape) (s : State) (w : Wave) (lanes : List Nat) (c : Cause) (e : DWord),
    i.proc = some (opc, f, sh) → s.cur = .group w.id lanes → s.wave? w.id = some w → lanes.Nodup → w.exited = false →
    checkIssue (needed i) (w.levelOf lanes) sh f w.blocks = some (c, e) →
    exec i s = .next (s.setWave (w.mapLanes lanes fun _ t => t.fault c e (w.seq + 1)))

/-- R154, R155: the order of the checks: PRIV below the level needed, then ILLEGAL with its step number for the form, the
fields and the blocks held. -/
def Rules.CheckOrder : Prop :=
  ∀ need level sh f blocks,
    (level.code < need.code → checkIssue need level sh f blocks = some (.priv, 0))
    ∧ (need.code ≤ level.code →
        (sh.formOk f.form = false → checkIssue need level sh f blocks = some (.illegal, 4))
        ∧ (sh.formOk f.form = true → sh.fieldsOk f = false → checkIssue need level sh f blocks = some (.illegal, 5))
        ∧ (sh.formOk f.form = true → sh.fieldsOk f = true → sh.held blocks f = false →
            checkIssue need level sh f blocks = some (.illegal, 6))
        ∧ (sh.formOk f.form = true → sh.fieldsOk f = true → sh.held blocks f = true →
            checkIssue need level sh f blocks = none))

/-- R153: an unassigned opcode raises ILL_OPC in every thread of the group, with no effect. -/
def Rules.UnassignedOpcode : Prop :=
  ∀ opc f s w lanes, s.cur = .group w.id lanes → s.wave? w.id = some w → lanes.Nodup →
    exec (.illOpc opc f) s = .next (s.setWave (w.mapLanes lanes fun _ t => t.fault .illOpc 0 (w.seq + 1)))

/-- R39: where the qualifying predicate of every thread of the group is false, each pushes a zero for each entry that the
instruction would have pushed, steps past it, and nothing else changes: no register, no memory, no access. The compares
have a statement of their own. -/
def Rules.FalsePredicatePushesZeros : Prop :=
  ∀ (i : Instr) (opc : BitVec 8) (f : Fields) (sh : Shape) (s : State) (w : Wave) (lanes : List Nat),
    i.proc = some (opc, f, sh) → Group (needed i) sh f s w lanes → w.exited = false → opc ∉ [0x2A, 0x2B, 0x3D] →
    (∀ l ∈ lanes, ∀ t, w.threads[l]? = some t → t.qual f = false) →
    exec i s = .next (s.setWave (w.mapLanes lanes fun _ t => (t.countIssue.pushZeros sh.pushes).advance f.form.len))

/-- R50: an instruction that one lane issues and that reads a pending result, or writes a register that one is to be
written to, takes LOOKAHEAD with the specifier as EVAL, and has no effect. -/
def Rules.PendingOperandFaults : Prop :=
  ∀ (i : Instr) (opc : BitVec 8) (f : Fields) (sh : Shape) (s : State) (w : Wave) (lane : Nat) (t : Thread) (o : Src),
    i.proc = some (opc, f, sh) → s.cur = .group w.id [lane] → s.wave? w.id = some w → w.threads[lane]? = some t →
    w.exited = false → checkIssue (needed i) t.level sh f w.blocks = none → t.qual f = true → t.lookahead sh f = some o →
    exec i s = .next ((s.counted w).setThread w.id lane (t.fault .lookahead (BitVec.ofNat 64 o.code) (w.seq + 1)))

/-! ## Integer and predicate instructions -/

/-- R182: the integer sums, differences, products, minima, maxima and absolute values, wrapped or saturated. -/
def Obligations.IntegerArithmetic : Prop :=
  let sum32 (f : Fields) (x y : Int) : Word :=
    if f.m = 1 then BitVec.ofInt 32 (max (-(2 ^ 31)) (min x (2 ^ 31 - 1)))
    else if f.m = 2 then BitVec.ofInt 32 (max 0 (min y (2 ^ 32 - 1)))
    else BitVec.ofInt 32 x
  let sum64 (f : Fields) (x y : Int) : DWord :=
    if f.m = 1 then BitVec.ofInt 64 (max (-(2 ^ 63)) (min x (2 ^ 63 - 1)))
    else if f.m = 2 then BitVec.ofInt 64 (max 0 (min y (2 ^ 64 - 1)))
    else BitVec.ofInt 64 x
  let u (f : Fields) : Bool := f.m.getLsbD 0
  Gives32 .iadd shapeAddSub (fun f a b _ => sum32 f (a.toInt + b.toInt) ((a.toNat : Int) + b.toNat))
  ∧ Gives32 .isub shapeAddSub (fun f a b _ => sum32 f (a.toInt - b.toInt) ((a.toNat : Int) - b.toNat))
  ∧ Gives64 .iadd64 shapeAddSub64 (fun f s w l t =>
      let a := read64 s w l t f f.a
      let b := read64 s w l t f f.b
      sum64 f (a.toInt + b.toInt) ((a.toNat : Int) + b.toNat))
  ∧ Gives64 .isub64 shapeAddSub64 (fun f s w l t =>
      let a := read64 s w l t f f.a
      let b := read64 s w l t f f.b
      sum64 f (a.toInt - b.toInt) ((a.toNat : Int) - b.toNat))
  ∧ Gives32 .imul (fun f => shapeDAB f 0) (fun _ a b _ => BitVec.ofNat 32 (a.toNat * b.toNat))
  ∧ Gives32 .imulh (fun f => shapeDAB f 1) (fun f a b _ =>
      if u f then BitVec.ofNat 32 (a.toNat * b.toNat / 2 ^ 32) else BitVec.ofInt 32 (a.toInt * b.toInt / 2 ^ 32))
  ∧ Gives32 .imad (fun f => shapeDABC f 0) (fun _ a b c => BitVec.ofNat 32 (a.toNat * b.toNat + c.toNat))
  ∧ Gives64 .imadw shapeImadw (fun f s w l t =>
      let a := read32 s w l t f f.a
      let b := read32 s w l t f f.b
      (if u f then a.zeroExtend 64 * b.zeroExtend 64 else a.signExtend 64 * b.signExtend 64) + read64 s w l t f f.c)
  ∧ Gives32 .imin (fun f => shapeDAB f 1) (fun f a b _ =>
      if u f then (if a.toNat ≤ b.toNat then a else b) else if a.toInt ≤ b.toInt then a else b)
  ∧ Gives32 .imax (fun f => shapeDAB f 1) (fun f a b _ =>
      if u f then (if a.toNat ≤ b.toNat then b else a) else if a.toInt ≤ b.toInt then b else a)
  ∧ Gives32 .iabs (fun f => shapeDA f 1) (fun f a _ _ =>
      if a = 0x80000000 ∧ u f then 0x7FFFFFFF else if a.toInt < 0 then 0 - a else a)

/-- R183: the shifts, with a count that shifts every bit out or is taken modulo. -/
def Obligations.Shifts : Prop :=
  let n (f : Fields) (b : Word) : Nat := if f.m.getLsbD 0 then b.toNat % 32 else b.toNat
  Gives32 .ishl (fun f => shapeDAB f 1) (fun f a b _ => BitVec.ofNat 32 (a.toNat * 2 ^ min (n f b) 32))
  ∧ Gives32 .ishr (fun f => shapeDAB f 3) (fun f a b _ =>
      if f.m.getLsbD 1 then BitVec.ofInt 32 (a.toInt / 2 ^ min (n f b) 32) else BitVec.ofNat 32 (a.toNat / 2 ^ min (n f b) 32))
  ∧ Gives32 .shf (fun f => shapeDABC f 3) (fun f a b c =>
      let s : Int := if f.m.getLsbD 0 then (c.toInt + 64) % 128 - 64 else max (-64) (min c.toInt 64)
      let v : Nat := b.toNat * 2 ^ 32 + a.toNat
      let x : Nat := if 0 ≤ s then v * 2 ^ s.toNat % 2 ^ 64 else v / 2 ^ (-s).toNat
      BitVec.ofNat 32 (if f.m.getLsbD 1 then x / 2 ^ 32 else x))

/-- R184, R185: the bit and bit-field instructions, bit by bit. -/
def Rules.BitOperations : Prop :=
  (∃ v : Fields → Word → Word → Word → Word, Gives32 .lop3 (fun f => shapeDABC f 0xFF) v ∧
    ∀ f a b c i, i < 32 → (v f a b c).getLsbD i =
      f.m.getLsbD ((a.getLsbD i).toNat + 2 * (b.getLsbD i).toNat + 4 * (c.getLsbD i).toNat))
  ∧ Gives32 .popc (fun f => shapeDA f 0) (fun _ a _ _ => BitVec.ofNat 32 (((List.range 32).map fun i => (a.getLsbD i).toNat).sum))
  ∧ (∃ v : Fields → Word → Word → Word → Word, Gives32 .clz (fun f => shapeDA f 0) v ∧
    ∀ f a b c, (a = 0 → v f a b c = 32)
      ∧ (a ≠ 0 → 2 ^ (31 - (v f a b c).toNat) ≤ a.toNat ∧ a.toNat < 2 ^ (32 - (v f a b c).toNat)))
  ∧ (∃ v : Fields → Word → Word → Word → Word, Gives32 .brev (fun f => shapeDA f 0) v ∧
    ∀ f a b c i, i < 32 → (v f a b c).getLsbD i = a.getLsbD (31 - i))
  ∧ (∃ v : Fields → Word → Word → Word → Word, Gives32 .bfe (fun f => shapeDAB f 1) v ∧
    ∀ f a b c i, i < 32 →
      let pos := (b.extractLsb' 0 8).toNat
      let ln := min (b.extractLsb' 8 8).toNat 32
      let sg := f.m.getLsbD 0
      let x (k : Nat) : Bool := if k < 32 then a.getLsbD k else sg && a.getLsbD 31
      (v f a b c).getLsbD i = (if i < ln then x (pos + i) else sg && decide (0 < ln) && x (pos + (ln - 1))))
  ∧ (∃ v : Fields → Word → Word → Word → Word, Gives32 .bfi (fun f => shapeDABC f 0) v ∧
    ∀ f a b c i, i < 32 →
      let pos := (b.extractLsb' 0 8).toNat
      let ln := min (b.extractLsb' 8 8).toNat 32
      (v f a b c).getLsbD i = if pos ≤ i ∧ i < pos + ln then a.getLsbD (i - pos) else c.getLsbD i)

/-- R186, R187: PRMT byte by byte, LEA, SEL, MOV, MOVI and MOVW. -/
def Rules.BytesAndMoves : Prop :=
  (∃ v : Fields → Word → Word → Word → Word, Gives32 .prmt (fun f => shapeDABC f 0) v ∧
    ∀ f a b c i, i < 4 →
      let r (j : Nat) : BitVec 8 := (v f a b c).extractLsb' (8 * j) 8
      let k := (c.extractLsb' (4 * i) 4).toNat
      r i = if k < 4 then a.extractLsb' (8 * k) 8
        else if k < 8 then b.extractLsb' (8 * (k - 4)) 8
        else if k = 9 then 0xFF
        else if k = 10 ∧ 0 < i ∧ (r (i - 1)).getLsbD 7 then 0xFF
        else 0)
  ∧ Gives64 .lea shapeLea (fun f s w l t =>
      let b := read32 s w l t f f.b
      read64 s w l t f f.a + (if f.m.getLsbD 3 then b.zeroExtend 64 else b.signExtend 64) * BitVec.ofNat 64 (2 ^ (f.m.toNat % 8)))
  ∧ Sets .sel shapeSel (fun f s w l t =>
      let p : Bool := match f.c with | .p i => t.pred i | _ => false
      t.result f.d.reg [if p ^^ f.m.getLsbD 0 then read32 s w l t f f.a else read32 s w l t f f.b])
  ∧ Sets .mov shapeMov (fun f s w l t =>
      let v := read64 s w l t f f.a
      t.result f.d.reg (if f.m.getLsbD 0 then [v.extractLsb' 0 32, v.extractLsb' 32 32] else [read32 s w l t f f.a]))
  ∧ Sets .movi shapeMovi (fun f _ _ _ t =>
      let v : DWord := f.imm.signExtend 64
      t.result f.d.reg (if f.m.getLsbD 0 then [v.extractLsb' 0 32, v.extractLsb' 32 32] else [f.imm]))
  ∧ Gives32 .movw (fun f => shapeDAB f 1) (fun f a b _ =>
      if f.m.getLsbD 0 then b.extractLsb' 0 16 ++ a.extractLsb' 0 16 else a.extractLsb' 16 16 ++ b.extractLsb' 0 16)

/-- R149, R188, R192: the compares, with every condition code and combining type. -/
def Rules.Comparisons : Prop :=
  let int (f : Fields) (x y : Int) : Bool :=
    match f.m.toNat / 8 % 8 with
    | 0 => decide (x = y)
    | 1 => decide (x ≠ y)
    | 2 => decide (x < y)
    | 3 => decide (x ≤ y)
    | 4 => decide (y < x)
    | _ => decide (y ≤ x)
  Compares .icmp (fun f => shapeIcmp f .s32) (fun f s w l t =>
      let a := read32 s w l t f f.a
      let b := read32 s w l t f f.b
      if f.m.getLsbD 6 then int f a.toNat b.toNat else int f a.toInt b.toInt)
  ∧ Compares .icmp64 (fun f => shapeIcmp f .s64) (fun f s w l t =>
      let a := read64 s w l t f f.a
      let b := read64 s w l t f f.b
      if f.m.getLsbD 6 then int f a.toNat b.toNat else int f a.toInt b.toInt)
  ∧ Compares .fcmp shapeFcmp (fun f s w l t =>
      let a := read32 s w l t f f.a
      let b := read32 s w l t f f.b
      let x := f32 (if f.m.getLsbD 7 then a &&& 0x7FFFFFFF else a)
      let y := f32 (if f.m.getLsbD 8 then b &&& 0x7FFFFFFF else b)
      let nan := x.isNan || y.isNan
      match f.m.toNat / 8 % 16 with
      | 0 => x.eq y
      | 1 => !nan && !x.eq y
      | 2 => x.lt y
      | 3 => x.lt y || x.eq y
      | 4 => y.lt x
      | 5 => y.lt x || x.eq y
      | 6 => !nan
      | 7 => nan
      | 8 => nan || x.eq y
      | 9 => nan || !x.eq y
      | 10 => nan || x.lt y
      | 11 => nan || x.lt y || x.eq y
      | 12 => nan || y.lt x
      | _ => nan || y.lt x || x.eq y)

/-- R189: PLOP, PPACK and PSET. -/
def Rules.Predicates : Prop :=
  Sets .plop shapePlop (fun f _ _ _ t =>
      let p (o : Src) : Nat := match o with | .p i => (t.pred i).toNat | _ => 0
      let v := f.m.getLsbD (p f.a + 2 * p f.b + 4 * p f.c)
      (t.setPred (f.d.code % 8) v).setPred (f.d.code / 8 % 8) (!v))
  ∧ (∃ v : Thread → Word, Sets .ppack shapePpack (fun f _ _ _ t => t.result f.d.reg [v t]) ∧
      ∀ t i, (v t).getLsbD i = (decide (i < 8) && t.pred i))
  ∧ (∃ g : Fields → State → Wave → Nat → Thread → Thread, Sets .pset shapePset g ∧
      ∀ f s w l t i, 1 ≤ i → i < 8 →
        (g f s w l t).pred i = (if f.m.getLsbD i then (read32 s w l t f f.a).getLsbD i else t.pred i)
        ∧ { g f s w l t with preds := t.preds } = t)

/-! ## Floating point -/

/-- R190, R191: FADD, FMUL and FFMA round the exact result once, after their operand modifiers and before their clamp;
FMIN, FMAX and FRND; a NaN result is the default NaN. -/
def Rules.FloatArithmetic : Prop :=
  let abs (y : Bool) (x : Word) : Word := if y then x &&& 0x7FFFFFFF else x
  let neg (y : Bool) (x : Word) : Word := if y then x ^^^ 0x80000000 else x
  let a' (f : Fields) (a : Word) : FVal := f32 (neg (f.m.getLsbD 4) (abs (f.m.getLsbD 5) a))
  let b' (f : Fields) (b : Word) : FVal := f32 (neg (f.m.getLsbD 6) (abs (f.m.getLsbD 7) b))
  let c' (f : Fields) (c : Word) : FVal := f32 (neg (f.m.getLsbD 8) c)
  let mode (f : Fields) : Mode := Mode.ofCode (f.m.toNat % 8)
  let down (f : Fields) : Bool := f.m.toNat % 8 = 2
  let clamp (f : Fields) (x : Word) : Word :=
    if f.m.getLsbD 3 ∨ f.m.getLsbD 9 then
      if (f32 x).isNan then 0
      else if (f32 0x3F800000).lt (f32 x) then 0x3F800000
      else if f.m.getLsbD 3 then (if (f32 x).lt (f32 0) then 0 else x)
      else if (f32 x).lt (f32 0xBF800000) then 0xBF800000 else x
    else x
  let values : List ((Fields → Instr) × (Fields → Shape) × (Fields → Word → Word → Word → Word)) :=
    [(.fadd, shapeFarith, fun f a b _ => clamp f (round32 (mode f) ((a' f a).add (down f) (b' f b)))),
      (.fmul, shapeFarith, fun f a b _ => clamp f (round32 (mode f) ((a' f a).mul (b' f b)))),
      (.ffma, shapeFfma, fun f a b c => clamp f (round32 (mode f) (((a' f a).mul (b' f b)).add (down f) (c' f c)))),
      (.fmin, fun f => shapeDAB f 0xF0, fun f a b _ =>
        fmin32 (neg (f.m.getLsbD 4) (abs (f.m.getLsbD 5) a)) (neg (f.m.getLsbD 6) (abs (f.m.getLsbD 7) b))),
      (.fmax, fun f => shapeDAB f 0xF0, fun f a b _ =>
        fmax32 (neg (f.m.getLsbD 4) (abs (f.m.getLsbD 5) a)) (neg (f.m.getLsbD 6) (abs (f.m.getLsbD 7) b))),
      (.frnd, shapeFrnd, fun f a _ _ => frndValue (mode f) (neg (f.m.getLsbD 4) (abs (f.m.getLsbD 5) a)))]
  ∀ x ∈ values, Gives32 x.1 x.2.1 x.2.2 ∧ ∀ f a b c, (f32 (x.2.2 f a b c)).isNan = true → x.2.2 f a b c = 0x7FC00000

/-- R191: FMIN and FMAX of any two words: the other operand of a NaN, the default NaN of two, and otherwise the one that
is smaller or larger, -0.0 below +0.0. -/
def Rules.FloatMinimum : Prop :=
  ∀ a b : Word,
    ((f32 a).isNan = true → (f32 b).isNan = true → fmin32 a b = 0x7FC00000 ∧ fmax32 a b = 0x7FC00000)
    ∧ ((f32 a).isNan = true → (f32 b).isNan = false → fmin32 a b = b ∧ fmax32 a b = b)
    ∧ ((f32 a).isNan = false → (f32 b).isNan = true → fmin32 a b = a ∧ fmax32 a b = a)
    ∧ ((f32 a).lt (f32 b) = true → fmin32 a b = a ∧ fmax32 a b = b)
    ∧ ((f32 b).lt (f32 a) = true → fmin32 a b = b ∧ fmax32 a b = a)
    ∧ ((f32 a).eq (f32 b) = true → a ≠ b →
        (fmin32 a b = 0x80000000 ∧ fmax32 a b = 0))

/-- R193: each special function takes a fixed function of its input bits through the modifiers, the flushes of R60 and
the clamps, and has the special inputs of the table. -/
def Obligations.SpecialFunctions : Prop :=
  let flush (x : Word) : Word := if x.extractLsb' 23 8 = 0 then x &&& 0x80000000 else x
  let special (mk : Fields → Instr) (pairs : List (Word × Word)) : Prop :=
    ∃ g : Word → Word,
      Gives32 mk shapeSfu (fun f a _ _ => clampResult f (flush (g (flush (modA f a)))))
        ∧ (∀ a, (f32 a).isNan = true → g a = 0x7FC00000) ∧ ∀ x ∈ pairs, g x.1 = x.2
  let negative (mk : Fields → Instr) : Prop :=
    ∃ g : Word → Word, Gives32 mk shapeSfu (fun f a _ _ => clampResult f (flush (g (flush (modA f a)))))
      ∧ ∀ a, (f32 a).lt (f32 0) = true → g a = 0x7FC00000
  special .frcp [(0, 0x7F800000), (0x80000000, 0xFF800000), (0x7F800000, 0), (0xFF800000, 0x80000000)]
  ∧ special .frsq [(0, 0x7F800000), (0x80000000, 0xFF800000), (0x7F800000, 0)] ∧ negative .frsq
  ∧ special .fsqrt [(0x80000000, 0x80000000), (0x40800000, 0x40000000), (0x40000000, 0x3FB504F3)] ∧ negative .fsqrt
  ∧ special .fex2 [(0xFF800000, 0), (0x7F800000, 0x7F800000), (0, 0x3F800000), (0xC2FC0000, 0x00800000), (0x42FE0000, 0x7F000000)]
  ∧ special .flg2 [(0, 0xFF800000), (0x80000000, 0xFF800000), (0x7F800000, 0x7F800000), (0x3F800000, 0), (0x41000000, 0x40400000)]
  ∧ negative .flg2
  ∧ special .fsin [(0, 0), (0x80000000, 0x80000000), (0x7F800000, 0x7FC00000), (0xFF800000, 0x7FC00000)]
  ∧ special .fcos [(0, 0x3F800000), (0x80000000, 0x3F800000), (0x7F800000, 0x7FC00000), (0xFF800000, 0x7FC00000)]
  ∧ special .ftanh [(0, 0), (0x80000000, 0x80000000), (0x7F800000, 0x3F800000), (0xFF800000, 0xBF800000)]
  ∧ special .fsigm [(0, 0x3F000000), (0x80000000, 0x3F000000), (0x7F800000, 0x3F800000), (0xFF800000, 0)]

/-- R194: the BF16-pair instructions act on each half, with the half selector of B. -/
def Rules.BfloatPairs : Prop :=
  let h (x : Word) (i : Nat) : BitVec 16 := x.extractLsb' (16 * i) 16
  let sel (f : Fields) (b : Word) (i : Nat) : BitVec 16 :=
    match f.m.toNat / 16 % 4 with
    | 0 => h b i
    | 1 => h b 0
    | 2 => h b 1
    | _ => h b (1 - i)
  let x (n : Bool) (v : BitVec 16) : FVal := bf16.decode (if n then v ^^^ 0x8000 else v).toNat
  let clamp (f : Fields) (v : BitVec 16) : BitVec 16 := if f.m.getLsbD 3 then (clamp32 0 (v ++ 0#16)).extractLsb' 16 16 else v
  let round (f : Fields) (v : FVal) : BitVec 16 :=
    clamp f (BitVec.ofNat 16 (bf16.encode (Mode.ofCode (f.m.toNat % 8)) false 0 v))
  let halves (g : Fields → Word → Word → Word → Nat → BitVec 16) (f : Fields) (a b c : Word) : Word := g f a b c 1 ++ g f a b c 0
  let a' (f : Fields) (a : Word) (i : Nat) : FVal := x (f.m.getLsbD 6) (h a i)
  let b' (f : Fields) (b : Word) (i : Nat) : FVal := x (f.m.getLsbD 7) (sel f b i)
  let c' (f : Fields) (c : Word) (i : Nat) : FVal := x (f.m.getLsbD 8) (h c i)
  let down (f : Fields) : Bool := f.m.toNat % 8 = 2
  Gives32 .hadd2 (fun f => shapeH2 f 0xFF .none) (halves fun f a b _ i => round f ((a' f a i).add (down f) (b' f b i)))
  ∧ Gives32 .hmul2 (fun f => shapeH2 f 0xFF .none) (halves fun f a b _ i => round f ((a' f a i).mul (b' f b i)))
  ∧ Gives32 .hfma2 (fun f => shapeH2 f 0x1FF .s32) (halves fun f a b c i =>
      round f (((a' f a i).mul (b' f b i)).add (down f) (c' f c i)))
  ∧ Gives32 .hmax2 (fun f => shapeH2 f 0xF0 .none) (halves fun f a b _ i =>
      let w (n : Bool) (v : BitVec 16) : Word := (if n then v ^^^ 0x8000 else v) ++ 0#16
      (fmax32 (w (f.m.getLsbD 6) (h a i)) (w (f.m.getLsbD 7) (sel f b i))).extractLsb' 16 16)

/-- R195, R198: F2I rounds and saturates, I2F rounds, and FCLASS gives the one bit of the operand's class. -/
def Rules.FloatConversions : Prop :=
  Gives32 .f2i shapeF2i (fun f a _ _ =>
      let lo : Int := if f.m.getLsbD 3 then 0 else -(2 ^ 31)
      let hi : Int := if f.m.getLsbD 3 then 2 ^ 32 - 1 else 2 ^ 31 - 1
      BitVec.ofInt 32 (match f32 a with
        | .nan => 0
        | .inf s => if s then lo else hi
        | .fin s m e => max lo (min (roundInt (Mode.ofCode (f.m.toNat % 8)) 0 s m e) hi)))
  ∧ Sets .i2f shapeI2f (fun f s w l t =>
      let a := read32 s w l t f f.a
      let b := read64 s w l t f f.a
      let v : Int :=
        if f.m.getLsbD 4 then (if f.m.getLsbD 3 then (b.toNat : Int) else b.toInt)
        else if f.m.getLsbD 3 then (a.toNat : Int) else a.toInt
      t.result f.d.reg [round32 (Mode.ofCode (f.m.toNat % 8)) (.fin (v < 0) v.natAbs 0)])
  ∧ Gives32 .fclass (fun f => shapeDA f 0) (fun _ a _ _ =>
      let ex := (a.extractLsb' 23 8).toNat
      let fr := (a.extractLsb' 0 23).toNat
      let s := a.getLsbD 31
      if ex = 255 ∧ fr = 0 then (if s then 1 else 0x80)
      else if ex = 255 then (if a.getLsbD 22 then 0x200 else 0x100)
      else if ex = 0 ∧ fr = 0 then (if s then 8 else 0x10)
      else if ex = 0 then (if s then 4 else 0x20)
      else if s then 2 else 0x40)

/-- R199, R200: WSHFL, WVOTE and WREDUX over the participating threads P. -/
def Rules.WaveInstructions : Prop :=
  let out (f : Fields) (t : Thread) (v : Word) : Thread := t.result f.d.reg [v]
  Together .wshfl shapeWshfl (fun f s w on l t =>
      let b := (read32 s w l t f f.b).toNat
      let n := 2 ^ (f.m.toNat / 4 % 8)
      let base := l - l % n
      let j := l - base
      let src := match f.m.toNat % 4 with
        | 0 => base + b % n
        | 1 => base + (j + b) % n
        | 2 => base + (j ^^^ (b % n))
        | _ => base + (n - 1 - j)
      out f t (laneA s w f (if src ∈ on then src else l)))
  ∧ Together .wvote shapeWvote (fun f s w on _ t =>
      let set := on.filter fun i => laneA s w f i ≠ 0
      match f.m.toNat % 8 with
      | 0 => out f t (BitVec.ofNat 32 (((List.range 32).map fun i => if i ∈ set then 2 ^ i else 0).sum))
      | 1 => out f t (if ∀ i ∈ on, laneA s w f i ≠ 0 then 1 else 0)
      | 2 => out f t (if ∃ i ∈ on, laneA s w f i ≠ 0 then 1 else 0)
      | 3 => out f t (if ∀ i ∈ on, ∀ j ∈ on, laneA s w f i = laneA s w f j then 1 else 0)
      | 4 => out f t (BitVec.ofNat 32 set.length)
      | _ => out f t (BitVec.ofNat 32 (set.headD 32)))
  ∧ Together .wredux shapeWredux (fun f s w on l t =>
      let upTo := if f.m.getLsbD 4 then on.filter fun i => decide (i ≤ l) else on
      let vs := upTo.map (laneA s w f)
      let fold (op : Word → Word → Word) : Word := match vs with | [] => 0 | v :: vs => vs.foldl op v
      let quiet (v : Word) : Word := if (f32 v).isNan then 0x7FC00000 else v
      out f t (match f.m.toNat % 16 with
        | 0 => vs.foldl (fun a b => a + b) 0
        | 1 => fold fun a b => if a.toInt ≤ b.toInt then a else b
        | 2 => fold fun a b => if a.toInt ≤ b.toInt then b else a
        | 3 => fold fun a b => if a.toNat ≤ b.toNat then a else b
        | 4 => fold fun a b => if a.toNat ≤ b.toNat then b else a
        | 5 => fold fun a b => a &&& b
        | 6 => fold fun a b => a ||| b
        | 7 => fold fun a b => a ^^^ b
        | 8 => quiet ((splitSum (fun a b => round32 .rne ((f32 a).add false (f32 b))) 32 vs).getD 0)
        | 9 => quiet (fold fmin32)
        | _ => quiet (fold fmax32)))

/-- R200: the worked example of the split order, over five lanes. -/
def Rules.SplitOrderExample : Prop :=
  reduxValue 8 [0x4B800000, 0x3F800000, 0x3F800000, 0x3F800000, 0x3F800000] = 0x4B800002

/-! ## Control -/

/-- R170: NOP has no effect: each thread of the group steps past it, and nothing else changes. -/
def Rules.Nop : Prop := Sets .nop shapeBare (fun _ _ _ _ t => t)

/-- R171, R141: the transfers: the target each thread computes, the return address of the calls, and the faults of a
target that is not aligned or not canonical. -/
def Rules.Transfers : Prop :=
  let rel (f : Fields) (t : Thread) : DWord := t.pc + f.imm.signExtend 64
  let abs (f : Fields) (s : State) (w : Wave) (l : Nat) (t : Thread) : DWord := read64 s w l t f f.a
  let ok (va : DWord) : Prop := va.extractLsb' 0 2 = 0 ∧ (va.extractLsb' 54 10 = 0 ∨ va.extractLsb' 54 10 = 1023)
  let fault (va : DWord) : Option (Cause × DWord) :=
    if va.extractLsb' 0 2 ≠ 0 then some (.illFetch, va)
    else if va.extractLsb' 54 10 ≠ 0 ∧ va.extractLsb' 54 10 ≠ 1023 then some (.translation, va) else none
  let link (f : Fields) (t : Thread) : Thread :=
    let back := t.pc + BitVec.ofNat 64 f.form.len
    t.result f.d.reg [back.extractLsb' 0 32, back.extractLsb' 32 32]
  ∀ f,
    (Completes (.bra f) .user (shapeBra f) f (fun _ _ _ t => ok (rel f t)) (fun s _ _ t => (s, { t with pc := rel f t }))
      ∧ FaultsOn (.bra f) .user (shapeBra f) f (fun _ _ _ t => fault (rel f t)))
    ∧ (Completes (.brx f) .user (shapeA64 f) f (fun s w l t => ok (abs f s w l t)) (fun s w l t => (s, { t with pc := abs f s w l t }))
      ∧ FaultsOn (.brx f) .user (shapeA64 f) f (fun s w l t => fault (abs f s w l t)))
    ∧ (Completes (.call f) .user (shapeCall f) f (fun _ _ _ t => ok (rel f t)) (fun s _ _ t => (s, { (link f t) with pc := rel f t }))
      ∧ FaultsOn (.call f) .user (shapeCall f) f (fun _ _ _ t => fault (rel f t)))
    ∧ (Completes (.callx f) .user (shapeCallx f) f (fun s w l t => ok (abs f s w l t))
        (fun s w l t => (s, { (link f t) with pc := abs f s w l t }))
      ∧ FaultsOn (.callx f) .user (shapeCallx f) f (fun s w l t => fault (abs f s w l t)))
    ∧ (Completes (.ret f) .user (shapeA64 f) f (fun s w l t => ok (abs f s w l t)) (fun s w l t => (s, { t with pc := abs f s w l t }))
      ∧ FaultsOn (.ret f) .user (shapeA64 f) f (fun s w l t => fault (abs f s w l t)))

/-- R172: EXIT of one thread while another of its wave lives ends that thread and nothing else; the last one also returns
the wave's blocks, leaves its phasers and withdraws its ring operations. -/
def Rules.Exit : Prop :=
  ∀ f s w lane t, Issues .user (shapeBare f) f s w lane t →
    let u := (s.counted w).setThread w.id lane { (t.issued s (shapeBare f) f) with run := .exited }
    ((∃ l t', l ≠ lane ∧ w.threads[l]? = some t' ∧ t'.run ≠ .exited) → exec (.exit f) s = .next u)
    ∧ ((∀ l t', l ≠ lane → w.threads[l]? = some t' → t'.run = .exited) → w.kind = .user →
        let v : Wave := { w.counted with threads := setAt w.threads lane { (t.issued s (shapeBare f) f) with run := .exited } }
        exec (.exit f) s = .next (((u.returnBlocks v 0 w.blocks).dropPhasers v).cancelRing v))

/-- R173, R174: YIELD keeps its wave from being picked for 4 clk; SLEEP and SLEEPTO park until the deadline, or go on
where it has passed. -/
def Rules.Pauses : Prop :=
  let sleeps (s : State) (t : Thread) (f : Fields) (d : Nat) : Thread :=
    if d ≤ s.pcc.toNat then t.past f else t.park (.sleep d) f
  ∀ f,
    Completes (.yield f) .user (shapeBare f) f (fun _ _ _ _ => True) (fun s w _ t =>
      ({ s with waves := s.waves.map fun x => if x.id = w.id then { x with yieldUntil := s.clk + 5 } else x }, t.past f))
    ∧ Completes (.sleep f) .user (shapeA32 f) f (fun _ _ _ _ => True) (fun s w l t =>
        (s, sleeps s t f (s.pcc.toNat + (read32 s w l t f f.a).toNat)))
    ∧ Completes (.sleepto f) .user (shapeA64 f) f (fun _ _ _ _ => True) (fun s w l t =>
        (s, sleeps s t f (read64 s w l t f f.a).toNat))

/-- R175: TRAP and BKPT: the trap that becomes due, its saved PC, and the faults of a TRAP at its level; a BKPT under the
debug-halt enable halts instead. -/
def Rules.SoftwareTraps : Prop :=
  ∀ f,
    let sys := f.m.getLsbD 0
    Completes (.trap f) .user (shapeTrap f) f (fun _ _ _ t => (t.level = .user ∧ sys = false) ∨ (t.level = .super ∧ sys = true))
      (fun s w l t => (s, t.raise
        { cause := .trap, epc := t.pc + BitVec.ofNat 64 f.form.len, eval := (read32 s w l t f f.a).zeroExtend 64, imp := false, toSys := sys, seq := w.seq }))
    ∧ FaultsOn (.trap f) .user (shapeTrap f) f (fun _ _ _ t =>
        match t.level, sys with
        | .user, true => some (.priv, 0)
        | .super, false | .sys, _ => some (.illegal, 7)
        | _, _ => none)
    ∧ Completes (.bkpt f) .user (shapeA32 f) f (fun s w _ _ => s.debugHalt w = false) (fun s w l t =>
        (s, t.raise
          { cause := .bkpt, epc := t.pc, eval := (read32 s w l t f f.a).zeroExtend 64, imp := false, toSys := false, seq := w.seq }))
    ∧ Completes (.bkpt f) .user (shapeA32 f) f (fun s w _ _ => s.debugHalt w = true) (fun s w l t =>
        (s, { t with run := .halted (read32 s w l t f f.a) (t.pc + BitVec.ofNat 64 f.form.len) }))

/-- R176, R207: WSYNC parks a thread whose own lane is in its mask, and faults another; HALT halts with its code. -/
def Rules.SyncAndHalt : Prop :=
  ∀ f,
    Completes (.wsync f) .user (shapeA32 f) f (fun s w l t => (read32 s w l t f f.a).getLsbD l = true) (fun s w l t =>
      (s, t.park (.wsync (read32 s w l t f f.a)) f))
    ∧ FaultsOn (.wsync f) .user (shapeA32 f) f (fun s w l t =>
        if (read32 s w l t f f.a).getLsbD l then none else some (.illegal, 7))
    ∧ Completes (.halt f) .sys (shapeA32 f) f (fun _ _ _ _ => True) (fun s w l t =>
        (s, { t with run := .halted (read32 s w l t f f.a) (t.pc + BitVec.ofNat 64 f.form.len) }))

/-- R176: the WSYNC of one wave: when every lane of S, the lanes that the masks name and that have not exited, is parked at
one PC with the same mask, all of them run again past it. -/
def Rules.WsyncConverges : Prop :=
  ∀ (w : Wave) (m : Word) (pc : DWord) (len : Nat), w.threads.length = 32 →
    (∀ l t, w.threads[l]? = some t → t.run ≠ .exited →
      (m.getLsbD l = true → t.run = .parked (.wsync m) len ∧ t.pc = pc) ∧ (m.getLsbD l = false → t.run = .running)) →
    ∀ l t, w.threads[l]? = some t → w.wsyncs.threads[l]? =
      some (if m.getLsbD l ∧ t.run ≠ .exited then { t with run := .running, pc := pc + BitVec.ofNat 64 len } else t)

/-- R177, R46: IVL replaces the wave's interval set, and raises ILLEGAL for a mask with bit 31, more than 8 blocks, or a
block not held; INTERVAL_RELOAD brings the set back. -/
def Rules.Intervals : Prop :=
  let good (w : Wave) (a : Word) : Prop :=
    a.getLsbD 31 = false ∧ ((List.range 31).map fun i => (a.getLsbD i).toNat).sum ≤ 8
      ∧ ∀ i, a.getLsbD i = true → i < w.blocks
  (∀ f, Completes (.ivl f) .user (shapeA32 f) f (fun s w l t => good w (read32 s w l t f f.a)) (fun s w l t =>
      let a := read32 s w l t f f.a
      ({ s with waves := s.waves.map fun x => if x.id = w.id then { w with interval := a.extractLsb' 0 31, resident := decide (a = 0) } else x },
        t.past f)))
  ∧ (∀ f s w lane t, Issues .user (shapeA32 f) f s w lane t →
      ¬ good w (read32 (s.counted w) w.counted lane (t.issued s (shapeA32 f) f) f f.a) →
      exec (.ivl f) s = .next ((s.counted w).setThread w.id lane (t.fault .illegal 7 (w.seq + 1))))
  ∧ ∀ die core slot s, exec (.intervalReload die core slot) s = .next { s with waves := s.waves.map fun w =>
      if w.core = 32 * die + core ∧ w.slot = slot then { w with resident := true } else w }

/-! ## Traps -/

/-- R372: trap entry at a level fills that level's trap set, changes level and PC, and changes nothing else of the
thread: no register, queue entry or predicate, and not the other trap set. -/
def Rules.TrapEntry : Prop :=
  ∀ (t : Thread) (l : Level) (tvec : DWord) (r : TrapReq), l ≠ .user →
    let u := t.enter l tvec r
    let x := u.trapSet l
    u.level = l ∧ (∀ i, u.pc.getLsbD i = (tvec.getLsbD i && decide (5 ≤ i)))
    ∧ x.epc = r.epc ∧ x.eval = r.eval ∧ x.code.toNat = r.cause.code ∧ x.imp = r.imp ∧ x.inTrap = true
    ∧ x.plev.toNat = t.level.code ∧ x.esav = (t.trapSet l).esav
    ∧ (∀ k, k ≠ .user → k ≠ l → u.trapSet k = t.trapSet k)
    ∧ u.due = none ∧ u.regs = t.regs ∧ u.queue = t.queue ∧ u.preds = t.preds ∧ u.pcc = t.pcc ∧ u.pending = t.pending ∧ u.run = t.run

/-- R371: the level that a trap enters: the higher of its target and the thread's own, or the next above that is neither
busy nor disabled; where none is left the thread halts with code 0xFFFF_FFFF at its instruction. -/
def Rules.TrapLevel : Prop :=
  ∀ (s : State) (part : Nat) (t : Thread) (r : TrapReq),
    let free (l : Level) : Prop := (t.trapSet l).inTrap = false ∧ (s.tvecOf part l).getLsbD 0 = true
    let low : Prop := r.toSys = false ∧ t.level ≠ .sys
    (low → free .super → s.takeTrap part t r = t.enter .super (s.partition part).tvec r)
    ∧ (low → ¬ free .super → free .sys → s.takeTrap part t r = t.enter .sys s.tvec r)
    ∧ (¬ low → free .sys → s.takeTrap part t r = t.enter .sys s.tvec r)
    ∧ ((low → ¬ free .super) → ¬ free .sys →
        s.takeTrap part t r = { t with due := none, run := .halted 0xFFFFFFFF t.pc })

/-- R375: ERET, in the order of its checks. -/
def Obligations.TrapReturn : Prop :=
  ∀ f,
    let x (t : Thread) : TrapSet := t.trapSet t.level
    let good (t : Thread) : Prop := (x t).inTrap = true ∧ (x t).plev ≠ 2 ∧ (x t).plev.toNat ≤ t.level.code
    let back (t : Thread) : Level := if (x t).plev = 0 then .user else if (x t).plev = 1 then .super else .sys
    Completes (.eret f) .super (shapeBare f) f (fun _ _ _ t => good t ∧ (x t).epc.extractLsb' 0 2 = 0) (fun s _ _ t =>
      (s, { (t.setTrapSet t.level { (x t) with inTrap := false }) with level := back t, pc := (x t).epc }))
    ∧ FaultsOn (.eret f) .super (shapeBare f) f (fun _ _ _ t =>
        if (x t).inTrap = false then some (.illegal, 7)
        else if (x t).plev = 2 ∨ t.level.code < (x t).plev.toNat then some (.illegal, 7)
        else if (x t).epc.extractLsb' 0 2 ≠ 0 then some (.illFetch, (x t).epc) else none)
    ∧ decode (leBytes 8 0x003FFFFFFFFC038C) = .ok (.eret
        { form := .f64, qp := 0, qn := false, la := 0, d := .none, a := .none, b := .none, c := .none, m := 0, imm := 0,
          e := .none, f := .none, x := 0 }) 8

/-! ## Vault and global memory -/

/-- R85, R89, R213: LDV makes a pending result of the words of its width and its lookahead window; STV enters the store
queue; where the address is bad, or a declared buffer of the range does not take the access, the thread faults. -/
def Rules.VaultAccess : Prop :=
  ∀ (f : Fields) (g : Workgroup) (off : Nat),
    let size := 2 ^ (f.m.toNat % 8)
    let words := max 1 (size / 4)
    let from_ (s : State) (w : Wave) (l : Nat) (t : Thread) : Word := read32 s w l t f f.a + read32 s w l t f f.b
    let to_ (s : State) (w : Wave) (l : Nat) (t : Thread) : Word := read32 s w l t f f.a + read32 s w l t f f.c
    Completes (.ldv f) .user (shapeLdv f) f
      (fun s w l t => t.acquiring = false ∧ t.pending.length < 8 ∧ s.vaultAt w (from_ s w l t) size size = .ok (g, off)
        ∧ (∀ b ∈ g.touched off size, b.latch = false ∧ (b.state = .full ∨ b.state = .draining))
        ∧ poisonSeen g.poison off size (vaultStores g.id (s.ownWrites w l w.seq)) = none)
      (fun s w _ t => (s.fresh, (t.pend s.nextId w.seq f.la.toNat words f.d.reg (.vault g.id off size) none).past f))
    ∧ Completes (.stv f) .user (shapeStv f) f
      (fun s w l t => t.acquiring = false ∧ s.vaultAt w (to_ s w l t) size size = .ok (g, off)
        ∧ ∀ b ∈ g.touched off size, b.latch = false ∧ (b.state = .empty ∨ b.state = .full))
      (fun s w l t => (s.enqueue w l none none (.vault g.id off ((bytesOf (readWords s w l t f f.b words)).take size)), t.past f))
    ∧ FaultsOn (.ldv f) .user (shapeLdv f) f (fun s w l t =>
        if t.acquiring ∨ 8 ≤ t.pending.length then none
        else match s.vaultAt w (from_ s w l t) size size with
          | .error e => some e
          | .ok (g, off) => if ∃ b ∈ g.touched off size, b.latch ∨ b.state = .empty ∨ b.state = .filling
              then some (.vaultState, (from_ s w l t).zeroExtend 64) else none)
    ∧ FaultsOn (.stv f) .user (shapeStv f) f (fun s w l t =>
        if t.acquiring then none
        else match s.vaultAt w (to_ s w l t) size size with
          | .error e => some e
          | .ok (g, off) => if ∃ b ∈ g.touched off size, b.latch ∨ b.state = .filling ∨ b.state = .draining
              then some (.vaultState, (to_ s w l t).zeroExtend 64) else none)

/-- R85: the range that a vault address names in the allocation of a member of the wave's gang, and VAULT_BOUNDS where there
is no such member, the range leaves the allocation, or the address is not aligned. -/
def Rules.VaultAddresses : Prop :=
  ∀ (s : State) (w : Wave) (addr : Word) (len align : Nat), 0 < align →
    let bad : Except (Cause × DWord) (Workgroup × Nat) := .error (.vaultBounds, addr.zeroExtend 64)
    let off := addr.toNat % 2 ^ 30
    (w.kind ≠ .user → s.vaultAt w addr len align = bad)
    ∧ (w.kind = .user →
      (∀ g, s.wg? w.wg = some g →
        (s.wgs.find? fun x => x.gang = g.gang && x.member = addr.toNat / 2 ^ 30) = none → s.vaultAt w addr len align = bad)
      ∧ ∀ g x, s.wg? w.wg = some g → (s.wgs.find? fun x => x.gang = g.gang && x.member = addr.toNat / 2 ^ 30) = some x →
          s.vaultAt w addr len align = if off + len ≤ x.vaultSize ∧ off % align = 0 then .ok (x, off) else bad)

/-- R215: LD and LDL make a pending result, a cached one or one that goes on its way; ST enters the store queue, a window
or device address being checked; PREF brings a line, asks for a walk first, or does nothing. -/
def Rules.GlobalAccess : Prop :=
  ∀ (f : Fields) (u : State) (pa : Nat) (leaf : DWord),
    let va (s : State) (w : Wave) (l : Nat) (t : Thread) (o : Src) : DWord := read64 s w l t f f.a + (read32 s w l t f o).signExtend 64
    let route := Route.ofCode (f.m.toNat / 4 % 4)
    let direct : Bool := f.m.getLsbD 4 || leaf.getLsbD 7 || decide (paSpace pa ≠ 0)
    let acc (w : Wave) (v : DWord) (size : Nat) : Access :=
      .global pa size v route direct (Scope.ofCode (f.m.toNat / 32 % 8)) (u.viaOf w v)
    let may (s : State) (w : Wave) (l : Nat) (t : Thread) (size : Nat) : Prop :=
      let v := va s w l t f.b
      v.toNat % size = 0 ∧ t.acquiring = false ∧ t.pending.length < 8 ∧ s.translate w l t .r v = (u, .ok pa leaf)
      ∧ paSpace pa ≠ 1 ∧ u.devOpen t.level (u.partOfWave w) pa size = true
      ∧ (u.ownAtomic w l w.seq pa size = true ∨ poisonSeen u.poison pa size (globalStores (u.ownWrites w l w.seq)) = none)
    let pended (s : State) (w : Wave) (l : Nat) (t : Thread) (size n : Nat) : Thread :=
      (t.pend u.nextId w.seq f.la.toNat n f.d.reg (acc w (va s w l t f.b) size) none).past f
    let loads (i : Instr) (sh : Shape) (size n : Nat) : Prop :=
      Completes i .user sh f (fun s w l t => may s w l t size ∧ direct = false ∧ u.ownDram pa = true)
        (fun s w l t => (u.fresh, pended s w l t size n))
      ∧ Completes i .user sh f (fun s w l t => may s w l t size ∧ direct = false ∧ u.peerDram pa = true)
        (fun s w l t => (u.fresh.fetchLine (dieOf w.core) w.core pa route false, pended s w l t size n))
      ∧ Completes i .user sh f (fun s w l t => may s w l t size ∧ direct = true)
        (fun s w l t => (u.fresh.launchDirect w l (u.viaOf w (va s w l t f.b)) (.load pa size route u.nextId), pended s w l t size n))
      ∧ FaultsOn i .user sh f (fun s w l t => if (va s w l t f.b).toNat % size ≠ 0 then some (.illegal, 7) else none)
    let wide := 2 ^ (f.m.toNat % 4)
    loads (.ld f) (shapeLd f) wide (max 1 (wide / 4)) ∧ loads (.ldl f) (shapeLdl f) (16 * wide) (4 * wide)
    ∧ Completes (.st f) .user (shapeSt f) f
        (fun s w l t => (va s w l t f.c).toNat % wide = 0 ∧ t.acquiring = false
          ∧ s.translate w l t .w (va s w l t f.c) = (u, .ok pa leaf)
          ∧ u.windowOpen w.core pa = true ∧ u.devOpen t.level (u.partOfWave w) pa wide = true)
        (fun s w l t => (u.enqueue w l ((Scope.ofCode (f.m.toNat / 32 % 8)).map fun sc => { scope := sc, mask := storeMask f.m })
          (u.viaOf w (va s w l t f.c))
          (.store pa ((bytesOf (readWords s w l t f f.b (max 1 (wide / 4)))).take wide) route direct), t.past f))
    ∧ Completes (.pref f) .user (shapePref f) f
        (fun s w l t => s.lookupVa w.core (rootTag (s.rootOfWave w)) t.level .r (va s w l t f.b) = .ok pa leaf)
        (fun s w _ t =>
          let dr := f.m.getLsbD 4 || leaf.getLsbD 7
          (if s.ownDram pa then s.placeLine (if dr then s.home pa else dieOf w.core) pa route false
            else if s.peerDram pa && !dr then s.askLine (dieOf w.core) w.core pa route false
            else s, t.past f))
    ∧ Completes (.pref f) .user (shapePref f) f
        (fun s w l t => match s.lookupVa w.core (rootTag (s.rootOfWave w)) t.level .r (va s w l t f.b) with
          | .ok _ _ | .miss => False
          | _ => True)
        (fun s _ _ t => (s, t.past f))
    ∧ (let misses (s : State) (w : Wave) (l : Nat) (t : Thread) : Prop :=
          s.lookupVa w.core (rootTag (s.rootOfWave w)) t.level .r (va s w l t f.b) = .miss
        let room (s : State) (w : Wave) (l : Nat) (t : Thread) : Prop :=
          t.acquiring = false ∧ s.walkRoom (dieOf w.core) (rootTag (s.rootOfWave w)) (va s w l t f.b) = true
        Completes (.pref f) .user (shapePref f) f (fun s w l t => misses s w l t ∧ room s w l t)
            (fun s w l t => (s.requestWalk (rootTag (s.rootOfWave w)) (s.rootOfWave w)
              { core := w.core, wave := w.id, lane := l, pc := t.pc, va := va s w l t f.b, fill := some (route, f.m.getLsbD 4, t.level) },
              t.past f))
          ∧ Waits (.pref f) .user (shapePref f) f (fun s w l t => misses s w l t ∧ ¬ room s w l t))

/-- R119, R120, R218: FENCE completes once what it orders is performed, and waits until then with nothing changed. -/
def Rules.Fences : Prop :=
  ∀ f,
    let reads (t : Thread) : Prop := ∀ p ∈ t.pending, p.value = none → match p.access with
      | .vault _ _ _ | .global _ _ _ _ _ _ _ | .atomic _ _ => False
      | _ => True
    let ready (s : State) (w : Wave) (l : Nat) (t : Thread) : Prop :=
      (f.m.toNat % 4 ≠ 2 → s.released w.id l w.seq ((Scope.ofCode (f.m.toNat / 4 % 8)).getD .sys) (f.m.extractLsb' 5 3) = true) ∧ (f.m.toNat % 4 ≠ 1 → reads t)
    Completes (.fence f) .user (shapeFence f) f ready (fun s _ _ t => (s, t.past f))
    ∧ Waits (.fence f) .user (shapeFence f) f (fun s w l t => ¬ ready s w l t)

/-- R206, R216, R217: ATOM makes a pending result and RED none; each enters the store queue as a request of the lane, with
its operation, its operands and its scope. -/
def Rules.Atomics : Prop :=
  ∀ (f : Fields) (u : State) (pa : Nat) (leaf : DWord),
    let wide := f.m.getLsbD 4
    let op := f.m.toNat % 16
    let va (s : State) (w : Wave) (l : Nat) (t : Thread) : DWord := read64 s w l t f f.a
    let value (s : State) (w : Wave) (l : Nat) (t : Thread) (o : Src) : DWord :=
      if wide then read64 s w l t f o else (read32 s w l t f o).zeroExtend 64
    let route := Route.ofCode (f.m.toNat / 32 % 4)
    let scope := Scope.ofCode (f.m.toNat / 128 % 8)
    let mark : Option RelMark := scope.map fun sc => { scope := sc, mask := 1 <<< (f.m.toNat / 32 % 4) }
    let may (s : State) (w : Wave) (l : Nat) (t : Thread) : Prop :=
      (va s w l t).toNat % (if wide then 8 else 4) = 0 ∧ t.acquiring = false
      ∧ s.translate w l t .rw (va s w l t) = (u, .ok pa leaf) ∧ paSpace pa = 0
    let request (s : State) (w : Wave) (l : Nat) (t : Thread) (ret : Bool) : SvcReq :=
      { id := u.nextId, ret := ret, signed := decide (op = 1 ∨ op = 2), wide := wide,
        op := if op = 10 then 1 else if op = 11 then 2 else op, pa := pa, va := va s w l t, operand := value u w l t f.b,
        compare := if ret then value u w l t f.c else 0, core := w.core, wave := w.id, lane := l, seq := w.seq, route := route,
        scope := scope, via := u.viaOf w (va s w l t), reply := none }
    let sent (s : State) (w : Wave) (l : Nat) (t : Thread) (ret : Bool) : State :=
      u.fresh.enqueue w l mark (u.viaOf w (va s w l t)) (.svc (request s w l t ret) route)
    Completes (.atom f) .user (shapeAtom f) f
      (fun s w l t => may s w l t ∧ t.pending.length < 8
        ∧ (u.ownAtomic w l w.seq pa 4 = true ∨ poisonSeen u.poison pa 4 (globalStores (u.ownWrites w l w.seq)) = none))
      (fun s w l t => (sent s w l t true,
        (t.pend u.nextId w.seq f.la.toNat (if wide then 2 else 1) f.d.reg (.atomic (va s w l t) scope.isSome) none).past f))
    ∧ Completes (.red f) .user (shapeRed f) f may (fun s w l t => (sent s w l t false, t.past f))
    ∧ Completes (.red f) .user (shapeRed f) f
      (fun s w l t => (va s w l t).toNat % (if wide then 8 else 4) = 0 ∧ t.acquiring = false
        ∧ s.translate w l t .rw (va s w l t) = (u, .psn pa) ∧ paSpace pa = 0)
      (fun _ w _ t => (u.logCheck (u.logDie w.core pa) w.core 4 0 0 0 pa, t.past f))
    ∧ FaultsOn (.atom f) .user (shapeAtom f) f (fun s w l t =>
        if (va s w l t).toNat % (if wide then 8 else 4) ≠ 0 then some (.illegal, 7) else none)
    ∧ FaultsOn (.red f) .user (shapeRed f) f (fun s w l t =>
        if (va s w l t).toNat % (if wide then 8 else 4) ≠ 0 then some (.illegal, 7) else none)

/-- R38, R50: a result that becomes pending enters the queue above what it held, and its words reach their entries and
the registers named when it arrives; nothing else of the thread changes. -/
def Rules.PendingResults : Prop :=
  (∀ (t : Thread) (id seq la n : Nat) (d : Option Nat) (acc : Access) (v : Option (List Word)), n ≤ 16 → t.queue.length = 16 →
    let u := t.pend id seq la n d acc v
    u.queue.length = 16 ∧ (∀ k, k < n → u.queue[k]? = some (QEntry.pend id k)) ∧ (∀ k, n ≤ k → k < 16 → u.queue[k]? = t.queue[k - n]?)
    ∧ u.pending = t.pending ++ [
        { id := id, seq := seq, pc := t.pc, left := la, dst := d, words := n, access := acc, lost := t.queue.drop (16 - n),
          value := v }]
    ∧ u.regs = t.regs ∧ u.preds = t.preds ∧ u.pc = t.pc ∧ u.run = t.run ∧ u.due = t.due ∧ u.level = t.level)
  ∧ ∀ (t : Thread) (p : Pending) (ws : List Word), ws.length = p.words → swf 0 t.regs = true →
    let u := t.deliver p ws
    (∀ (k : Nat) (v : Word), t.queue[k]? = some (QEntry.val v) → u.queue[k]? = some (QEntry.val v))
    ∧ (∀ k j : Nat, t.queue[k]? = some (QEntry.pend p.id j) → u.queue[k]? = some (QEntry.val (ws.getD j 0)))
    ∧ (∀ k i j : Nat, i ≠ p.id → t.queue[k]? = some (QEntry.pend i j) → u.queue[k]? = some (QEntry.pend i j))
    ∧ (∀ r, u.reg r = match p.dst with
        | some d => if d ≤ r ∧ r < d + min p.kept p.words then ws.getD (r - d) 0 else t.reg r
        | none => t.reg r)
    ∧ u.preds = t.preds ∧ u.pc = t.pc ∧ u.run = t.run ∧ u.due = t.due

/-- R50: LONG_LATENCY_RESULT delivers a result that has arrived once its lookahead window has closed (DEDUCED log 31) or a
ninth waits for it (R51), and keeps it until then; a cached read with no earlier one outstanding is performed first. -/
def Rules.ResultsArrive : Prop :=
  ∀ (s : State) (die core slot lane id : Nat) (w : Wave) (t : Thread) (p : Pending),
    (s.waves.filter fun x => x.core = 32 * die + core && x.slot = slot) = [w] → s.wave? w.id = some w →
    w.threads[lane]? = some t → (t.pending.find? fun x => x.id = id) = some p → s.waveSaving w = false → t.due = none →
    t.run = .running →
    let go (u : State) (ws : List Word) : State :=
      (if p.left = 0 || u.ninth w t then u.modThread w.id lane fun t => t.deliver p ws else u.modThread w.id lane fun t => t.fill id ws).undrain
        w.core id
    let e : Instr := .longLatencyResult die core slot lane id
    (∀ ws, p.value = some ws → exec e s = .next (go s ws))
    ∧ (∀ k, p.value = none → p.access = .bufqL k → exec e s = .next (go (s.drawnBy 2) [s.latchWord k 1, s.latchWord k 2]))
    ∧ (∀ g wg off len, p.value = none → p.access = .vault wg off len → s.wg? wg = some g → w.readsBefore p.seq lane = [] →
        poisonSeen g.poison off len (vaultStores wg (s.ownWrites w lane p.seq)) = none →
        exec e s = .next (go (s.vaultRead g off len)
          (wordsOf p.words (overlay off (sbytes g.vault off len) (vaultStores wg (s.ownWrites w lane p.seq))))))
    ∧ ∀ pa len va route acq via, p.value = none → p.access = .global pa len va route false acq via →
        (s.ownDram pa = true ∨ s.lineServes (dieOf w.core) pa false = true) →
        w.readsBefore p.seq lane = [] → s.ownAtomic w lane p.seq pa len = false →
        let own := globalStores (s.ownWrites w lane p.seq)
        poisonSeen s.poison pa len own = none →
        let u1 := s.touchLine (dieOf w.core) pa route false
        let u2 := if s.ownDram pa then u1.readDone pa len else u1
        let u3 := match acq with | some sc => u2.acquired (u1.recordsRead pa len own) sc (s.originOf w) | none => u2
        exec e s = .next (go u3 (wordsOf p.words (overlay pa (u1.peek pa len) own)))

/-! ## Memory performed -/

/-- R79, R105: a write of global memory changes the bytes it stores to and no other byte; poison leaves a granule only
where all of it is written; and memory stays in its canonical form. -/
def Rules.WritesBytes : Prop :=
  ∀ (s : State) (core pa : Nat) (data : List Byte) (rel : Option (Scope × Origin)), Memory.wf s.mem = true →
    let u := s.poke core pa data rel
    Memory.wf u.mem = true
    ∧ (∀ a, u.peek a 1 = if pa ≤ a ∧ a < pa + data.length then [data.getD (a - pa) 0] else s.peek a 1)
    ∧ (∀ n, n ≤ data.length → u.peek pa n = data.take n)
    ∧ ∀ g, g ∈ u.poison ↔ g ∈ s.poison ∧ ¬ (pa ≤ 32 * g ∧ 32 * g + 32 ≤ pa + data.length)

/-- Every step keeps memory in its canonical form: addresses strictly rising, and no listed byte that reads as an
unlisted one does. -/
def Obligations.StepKeepsMemory : Prop := ∀ s t, Memory.wf s.mem = true → step s = .next t → Memory.wf t.mem = true

/-- The memory that reset leaves is in canonical form. -/
def Rules.ResetMemory : Prop := Memory.wf State.reset.mem = true

/-- R111-R115, R119, R296, R336: STORE_QUEUE_DRAIN takes the oldest access of a wave's store queue, once earlier reads of the
wave and what its release or its doorbell waits for are performed and no full hold queue stalls it: a vault store is performed,
and a cached one once its die can serve it; any other access goes on its way. -/
def Rules.StoreQueueDrains : Prop :=
  ∀ (s : State) (die core slot : Nat) (w : Wave) (a : Access1) (rest : List Access1),
    ((s.waves.filter fun x => x.core = 32 * die + core && x.slot = slot).find? fun x => x.store ≠ []) = some w →
    w.store = a :: rest → w.readsBefore a.seq 0 = [] →
    let u : State := { s with waves := s.waves.map fun x => if x.id = w.id then { x with store := rest } else x }
    let e := exec (.storeQueueDrain die core slot) s
    let go : Prop := (∀ r, a.rel = some r → s.released a.wave a.lane a.seq r.scope r.mask = true)
      ∧ (s.rings a.work = true → s.released a.wave a.lane a.seq .sys 7 = true) ∧ s.stalledWave w.id = false
    (¬ go → e = .next s)
    ∧ (go →
      (∀ wg off data, a.work = .vault wg off data →
        e = .next (if a.residual then u.residualWrite wg off data else u.vaultWrite wg off data))
      ∧ (∀ pa data route, a.work = .store pa data route false →
          s.ownDram pa = true ∨ s.peerDram pa = true ∧ s.lineServes (dieOf a.core) pa true = true →
          e = .next ((u.touchLine (dieOf a.core) pa route true).poke a.core pa data (a.rel.map fun r => (r.scope, a.origin))))
      ∧ (∀ pa data route, a.work = .store pa data route false → s.peerDram pa = true → s.lineServes (dieOf a.core) pa true = false →
          e = .next (s.fetchLine (dieOf a.core) a.core pa route true))
      ∧ (∀ pa data route, a.work = .store pa data route true → ¬ (paSpace pa = 1 ∧ paPkg pa = s.system.pkgid) →
          e = .next { u with net := s.net ++ [a] })
      ∧ (∀ pa data route direct, a.work = .store pa data route direct → paSpace pa = 1 → paPkg pa = s.system.pkgid →
          let v := u.fragmentOf a.core pa data []
          e = .next { v.1 with net := s.net ++ [{ a with work := .fragment v.2 route }] })
      ∧ ((∀ wg off data, a.work ≠ .vault wg off data) → (∀ pa data route direct, a.work ≠ .store pa data route direct) →
          e = .next { u with net := s.net ++ [a] }))

/-- R105, R213: a vault write changes the bytes of its range in its allocation, and no other byte of any vault. -/
def Rules.VaultWrites : Prop :=
  ∀ (s : State) (wg off : Nat) (data : List Byte) (g : Workgroup), s.wg? wg = some g → swf 0 g.vault = true →
    ∃ x, (s.vaultWrite wg off data).wg? wg = some x ∧ swf 0 x.vault = true
      ∧ (∀ a, sget 0 x.vault a = if off ≤ a ∧ a < off + data.length then data.getD (a - off) 0 else sget 0 g.vault a)
      ∧ (∀ k, k ≠ wg → ((s.vaultWrite wg off data).wg? k).map (fun y => y.vault) = (s.wg? k).map fun y => y.vault)
      ∧ (s.vaultWrite wg off data).mem = s.mem ∧ (s.vaultWrite wg off data).waves = s.waves

/-- R30, R97, R99, R107, R125: DIRECT_ACCESS_PERFORM, SERVICE_REQUEST_ARRIVE, CACHE_FILL and DIRECTORY_RECALL. -/
def Rules.MemoryEvents : Prop :=
  (∀ (s : State) (id : Nat) (a : Access1), (s.net.find? fun x => x.id = id) = some a → a.sent = none → s.pathClear a = true → s.inTurn a = true →
    let e := exec (.directAccessPerform id) s
    (∀ pa data route direct, a.work = .store pa data route direct → paPkg pa = s.system.pkgid → paSpace pa ≠ 2 →
      e = .next ((((s.landed id).invalidate pa data.length).poke a.core pa data (a.rel.map fun r => (r.scope, a.origin))).arrivedNow a))
    ∧ (∀ r route, a.work = .svc r route → paPkg r.pa = s.system.pkgid →
        let quad := 8 * s.home r.pa + serviceQuad r.pa
        e = .next (((s.landed id).setService quad
          { s.service quad with waiting := (s.service quad).waiting ++ [{ r with origin := some a.origin }] }).arrivedNow a))
    ∧ (∀ pa len route p w t pd data v, a.work = .load pa len route p → paPkg pa = s.system.pkgid → paSpace pa ≠ 2 →
        s.wave? a.wave = some w → w.threads[a.lane]? = some t → (t.pending.find? fun x => x.id = p) = some pd →
        s.performRead w a.lane pd = .value v data →
        e = .next ((v.landed id).modThread w.id a.lane fun t => t.fill p data))
    ∧ (∀ pa x, a.work.pa = some pa → a.payload = some x → paPkg pa ≠ s.system.pkgid →
        let v := s.sendPod (paPkg pa) a.origin.part (a.work.route.getD .min) (peerPath a.core pa (minLane pa)) x
        e = .next (if s.waitsForOwn a then s
          else { v.1 with net := v.1.net.map fun y => if y.id = id then { y with sent := some v.2 } else y })))
  ∧ (∀ (s : State) (die quad : Nat) (r : SvcReq) (rs : List SvcReq), die < 8 → quad < 8 →
      (s.service (8 * die + quad)).waiting = r :: rs → (s.service (8 * die + quad)).queue.length < 256 →
      exec (.serviceRequestArrive die quad) s = .next (s.setService (8 * die + quad)
        { s.service (8 * die + quad) with queue := (s.service (8 * die + quad)).queue ++ [r], waiting := rs }))
  ∧ (∀ (s : State) (die line : Nat) (l : Line), look (s.die die).lines line = some l →
      let t := s.setDie die { s.die die with lines := drop (s.die die).lines line }
      let pa := 128 * line
      (l.asked = none → exec (.cacheFill die line) s =
        .next (s.setDie die { s.die die with lines := put (s.die die).lines line { l with filling := false } }))
      ∧ (l.asked ≠ none → exec (.cacheFill die line) s = .next s)
      ∧ (l.filling = false → s.peerDram pa = false → exec (.directoryRecall die line) s = .next t)
      ∧ (l.filling = false → s.peerDram pa = true → (∀ p ∈ t.dies, look p.2.lines line = none) →
        let v := t.sendPod (paPkg pa) (t.partOf die) l.cls (peerPath (32 * die) pa (minLane pa))
          (.writeBack pa (t.peek pa 128) (badBytes t.poison pa 128) (recordsOf t.releases (words8 pa 128)))
        exec (.directoryRecall die line) s =
          .next ((if l.dirty then v.1 else t).setLine line (List.replicate 128 0) [] []))
      ∧ (l.filling = true → exec (.directoryRecall die line) s = .next s))

/-- R129, R217: what the service wave of a quad makes of its oldest request, one read and write of the home's memory:
the operation's new value, and nothing where a CAS compares unequal. -/
def Rules.AtomicsAtomic : Prop :=
  ∀ (s : State) (quad : Nat) (r : SvcReq) (rs : List SvcReq) (w : Wave) (t : Thread) (p : Pending),
    (s.service quad).queue = r :: rs → r.reply = none → r.op < 10 →
    poisonedIn s.poison r.pa (if r.wide then 8 else 4) = false → r.operand.toNat < 2 ^ (if r.wide then 64 else 32) →
    r.compare.toNat < 2 ^ (if r.wide then 64 else 32) →
    s.wave? r.wave = some w → w.threads[r.lane]? = some t → (t.pending.find? fun x => x.id = r.id) = some p →
    let n := if r.wide then 8 else 4
    let m := s.invalidate r.pa n
    let old := leNat (m.peek r.pa n)
    let signed (x : Nat) : Int := if r.signed then (if x < 2 ^ (8 * n - 1) then (x : Int) else x - 2 ^ (8 * n)) else x
    let b := r.operand.toNat
    let new := match r.op with
      | 0 => (old + b) % 2 ^ (8 * n)
      | 1 => if signed b < signed old then b else old
      | 2 => if signed old < signed b then b else old
      | 3 => old &&& b
      | 4 => old ||| b
      | 5 => old ^^^ b
      | 6 => b
      | 7 => if old = r.compare.toNat then b else old
      | 8 => (round32 .rne ((f32 (BitVec.ofNat 32 old)).add false (f32 (BitVec.ofNat 32 b)))).toNat
      | _ =>
        let half (x : Nat) : FVal := bf16.decode (x % 65536)
        bf16.encode .rne false 0 ((half old).add false (half b))
          + 65536 * bf16.encode .rne false 0 ((half (old / 65536)).add false (half (b / 65536)))
    let u := s.serve quad
    Memory.wf s.mem = true →
    (∀ a, u.peek a 1 = if r.pa ≤ a ∧ a < r.pa + n then [BitVec.ofNat 8 (new / 2 ^ (8 * (a - r.pa)))] else m.peek a 1)
    ∧ (s.service quad).queue = r :: (u.service quad).queue
    ∧ (r.ret = true → u.thread? r.wave r.lane = some (t.fill r.id
        (if r.wide then [BitVec.ofNat 32 old, BitVec.ofNat 32 (old / 2 ^ 32)] else [BitVec.ofNat 32 old])))
    ∧ (r.ret = false → u.waves = s.waves)

/-- R206: SVCRECV parks until its quad's queue holds a request, and takes the oldest; SVCREPLY answers the request of its
tag. Both are for service waves. -/
def Rules.ServiceInstructions : Prop :=
  ∀ (f : Fields) (k : Nat),
    Completes (.svcrecv f) .sys (shapeSvcrecv f) f (fun _ w _ _ => w.kind = .service ∧ f.d = .n k ∧ k % 8 = 0)
      (fun s _ _ t => (s, t.park (.svcrecv k) f))
    ∧ FaultsOn (.svcrecv f) .sys (shapeSvcrecv f) f (fun _ w _ _ => if w.kind = .service then none else some (.illegal, 7))
    ∧ (∀ (s : State) (w : Wave) (lane : Nat) (t : Thread) (r : SvcReq) (rs : List SvcReq) (len : Nat),
        t.run = .parked (.svcrecv k) len → (s.service (quadOf w.core)).queue = r :: rs →
        let v := s.service (quadOf w.core)
        s.wakeThread w lane t = (s.setService (quadOf w.core)
          { v with queue := rs, taken := if r.ret then v.taken ++ [r] else v.taken }).setThread w.id lane
            (({ t.setRegs k ((r.words s.system.pkgid).take (t.cut - k)) with run := .running }).advance len))
    ∧ Completes (.svcreply f) .sys (shapeSvcreply f) f
        (fun s w l t => w.kind = .service ∧ ∀ r ∈ (s.service (quadOf w.core)).taken,
          r.id % 65536 ≠ (read32 s w l t f f.a).toNat % 65536)
        (fun s _ _ t => (s, t.past f))
    ∧ ∀ r, Completes (.svcreply f) .sys (shapeSvcreply f) f
        (fun s w l t => w.kind = .service ∧ ((s.service (quadOf w.core)).taken.find? fun r => r.id % 65536 =
          (read32 s w l t f f.a).toNat % 65536) = some r)
        (fun s w l t => ((s.setService (quadOf w.core) { s.service (quadOf w.core) with
            taken := (s.service (quadOf w.core)).taken.filter fun x => x.id ≠ r.id }).svcReply r (read64 s w l t f f.b) (f.m.getLsbD 0),
          t.past f))

/-! ## Declared buffers, latches, phasers, register blocks -/

/-- R87, R88, R92, R221: BUFDECL declares or undeclares a buffer, in state EMPTY, a latch buffer with its bytes zero;
BUFSET moves it; BUFQ makes a pending result. What BUFSET `.EMPTY` leaves in the vault is open (DESIGN CHOICE log 14). -/
def Obligations.Buffers : Prop :=
  ∀ (f : Fields) (g : Workgroup),
    let n (s : State) (w : Wave) (l : Nat) (t : Thread) : Nat := (read32 s w l t f f.a).toNat
    let base (s : State) (w : Wave) (l : Nat) (t : Thread) : Nat := (read32 s w l t f f.b).toNat
    let len (s : State) (w : Wave) (l : Nat) (t : Thread) : Nat := (read32 s w l t f f.c).toNat
    let latch := f.m.getLsbD 0
    let fits (s : State) (w : Wave) (l : Nat) (t : Thread) : Prop :=
      n s w l t < 64 ∧ base s w l t % 32 = 0 ∧ len s w l t % 32 = 0 ∧ s.ownGroup w = some g
      ∧ (len s w l t ≠ 0 → base s w l t + len s w l t ≤ g.vaultSize)
      ∧ (len s w l t ≠ 0 → ∀ k b, (k, b) ∈ g.buffers → k ≠ n s w l t → ¬ meets (base s w l t) (len s w l t) b.base b.len)
      ∧ ∀ b, look g.buffers (n s w l t) = some b →
          if b.latch then s.latchWaited g.id b.base b.len = false ∧ s.latchAimed g.id b.base b.len = false else b.state = .empty
    Completes (.bufdecl f) .user (shapeBufdecl f) f (fun s w l t => fits s w l t ∧ len s w l t = 0)
      (fun s w l t => (s.setWg { g with buffers := drop g.buffers (n s w l t) }, t.past f))
    ∧ Completes (.bufdecl f) .user (shapeBufdecl f) f
      (fun s w l t => fits s w l t ∧ len s w l t ≠ 0 ∧ s.loadsOut g.id (base s w l t) (len s w l t) = false
        ∧ (latch = true → s.storesOut g.id (base s w l t) (len s w l t) = false))
      (fun s w l t =>
        let b : Buffer := { base := base s w l t, len := len s w l t, latch := latch, state := .empty, fill := 0, drains := 0 }
        let x := if latch then g.zeroed b.base b.len else g
        (s.setWg { x with buffers := put g.buffers (n s w l t) b }, t.past f))
    ∧ FaultsOn (.bufdecl f) .user (shapeBufdecl f) f (fun s w l t =>
        if 63 < n s w l t ∨ base s w l t % 32 ≠ 0 ∨ len s w l t % 32 ≠ 0 then some (.illegal, 7) else none)
    ∧ (∀ b, Completes (.bufset f) .user (shapeBufset f) f
        (fun s w l t => n s w l t < 64 ∧ s.ownGroup w = some g ∧ look g.buffers (n s w l t) = some b ∧ b.latch = false
          ∧ b.state = if f.m.getLsbD 0 then .full else .empty)
        (fun s _ _ t => (s, t.past f))
      ∧ Completes (.bufset f) .user (shapeBufset f) f
        (fun s w l t => n s w l t < 64 ∧ s.ownGroup w = some g ∧ look g.buffers (n s w l t) = some b ∧ b.latch = false
          ∧ f.m.getLsbD 0 = true ∧ b.state = .empty)
        (fun s w l t => (s.setWg { g with buffers := put g.buffers (n s w l t) { b with state := .full } }, t.past f))
      ∧ Completes (.bufset f) .user (shapeBufset f) f
        (fun s w l t => n s w l t < 64 ∧ s.ownGroup w = some g ∧ look g.buffers (n s w l t) = some b ∧ b.latch = false
          ∧ f.m.getLsbD 0 = false ∧ b.state = .full ∧ s.loadsOut g.id b.base b.len = false)
        (fun s w l t =>
          let x : Workgroup := { g with
            buffers := put g.buffers (n s w l t) { b with state := .empty }
            vault := swrite g.vault b.base (openBytes s.draws (sbytes g.vault b.base b.len)) }
          ({ s.setWg x with draws := s.draws + b.len }, t.past f))
      ∧ FaultsOn (.bufset f) .user (shapeBufset f) f (fun s w l t =>
          if 63 < n s w l t then some (.illegal, 7)
          else if s.ownGroup w = some g ∧ look g.buffers (n s w l t) = some b
              ∧ (b.latch = true ∨ b.state = .filling ∨ b.state = .draining) then some (.vaultState, BitVec.ofNat 64 (2 ^ 63 + n s w l t))
          else none))
    ∧ Completes (.bufq f) .user (shapeBufq f) f
        (fun s w l t => f.m.getLsbD 0 = false ∧ n s w l t < 64 ∧ s.ownGroup w = some g ∧ t.pending.length < 8)
        (fun s w l t => (s.fresh, (t.pend s.nextId w.seq f.la.toNat 2 f.d.reg (.bufqB (n s w l t)) none).past f))
    ∧ ∀ k, Completes (.bufq f) .user (shapeBufq f) f
        (fun s w l t => f.m.getLsbD 0 = true ∧ s.latchAt w (read32 s w l t f f.a) = .ok k ∧ t.pending.length < 8 ∧ t.acquiring = false)
        (fun s w _ t => (s.fresh, (t.pend s.nextId w.seq f.la.toNat 2 f.d.reg (.bufqL k) none).past f))

/-- R93, R223: a latch applies an arrival: ARRIVED holds what EXPECT does not divide out, saturated, and PHASE counts the
completions; with EXPECT zero it only counts. No other byte of the vault changes. -/
def Rules.LatchArrives : Prop :=
  ∀ (s : State) (l : LatchRef) (g : Workgroup) (n : Nat), s.wg? l.wg = some g → swf 0 g.vault = true → n < 2 ^ 32 →
    let e := (s.latchWord l 0).toNat
    let sum := min ((s.latchWord l 1).toNat + n) (2 ^ 32 - 1)
    let u := s.arrive l n
    u.latchWord l 0 = s.latchWord l 0
    ∧ (e = 0 → (u.latchWord l 1).toNat = sum ∧ u.latchWord l 2 = s.latchWord l 2)
    ∧ (e ≠ 0 → (u.latchWord l 1).toNat = sum % e ∧ u.latchWord l 2 = s.latchWord l 2 + BitVec.ofNat 32 (sum / e))
    ∧ (∃ x, u.wg? l.wg = some x ∧ ∀ a, a < l.off ∨ l.off + 12 ≤ a → sget 0 x.vault a = sget 0 g.vault a)
    ∧ (∀ k, k ≠ l.wg → u.wg? k = s.wg? k) ∧ u.waves = s.waves ∧ u.mem = s.mem

/-- R224: the latch instructions: LTINIT, behind the wave's earlier vault stores, and LTEXP set the latch, LTARR arrives and delivers the old PHASE, LTWAIT and
LTTRY park; the end of the hint lets an LTTRY go on with its predicate false. -/
def Rules.Latches : Prop :=
  (∀ (f : Fields) (k : LatchRef),
    let at_ (s : State) (w : Wave) (l : Nat) (t : Thread) : Prop := s.latchAt w (read32 s w l t f f.a) = .ok k
    let b (s : State) (w : Wave) (l : Nat) (t : Thread) : Word := read32 s w l t f f.b
    let expect (s : State) (w : Wave) (l : Nat) (t : Thread) : Int :=
      if f.m.getLsbD 0 then (b s w l t).toNat else (s.latchWord k 0).toNat + (b s w l t).toInt
    let free (s : State) (w : Wave) (l : Nat) (t : Thread) : Prop := at_ s w l t ∧ t.acquiring = false
    let first (w : Wave) : Prop := ∀ a ∈ w.store, ∀ g o d, a.work ≠ .vault g o d
    Completes (.ltinit f) .user (shapeAB f) f
      (fun s w l t => free s w l t ∧ s.latchWaited k.wg k.off 16 = false ∧ s.latchAimed k.wg k.off 16 = false ∧ first w)
      (fun s w l t => (s.setLatch k (b s w l t).toNat 0 0, t.past f))
    ∧ Waits (.ltinit f) .user (shapeAB f) f (fun s w l t =>
        at_ s w l t ∧ (t.acquiring = true ∨
          s.latchWaited k.wg k.off 16 = false ∧ s.latchAimed k.wg k.off 16 = false ∧ ¬ first w))
    ∧ FaultsOn (.ltinit f) .user (shapeAB f) f (fun s w l t =>
        match s.latchAt w (read32 s w l t f f.a) with
        | .error e => some e
        | .ok k => if !t.acquiring && (s.latchWaited k.wg k.off 16 || s.latchAimed k.wg k.off 16) then
            some (.vaultState, (read32 s w l t f f.a).zeroExtend 64) else none)
    ∧ Completes (.ltexp f) .user (shapeLtexp f) f
      (fun s w l t => free s w l t ∧ 0 ≤ expect s w l t ∧ expect s w l t < 2 ^ 32
        ∧ (expect s w l t = 0 ∨ ((s.latchWord k 1).toNat : Int) < expect s w l t ∨ s.released w.id l w.seq .pkg 7 = true))
      (fun s w l t => (s.latchApply k (expect s w l t).toNat 0, t.past f))
    ∧ Completes (.ltarr f) .user (shapeDAB f 0) f (fun s w l t => free s w l t ∧ s.released w.id l w.seq .pkg 7 = true)
      (fun s w l t => (s.arrive k (b s w l t).toNat, (t.result f.d.reg [s.latchWord k 2]).past f))
    ∧ Waits (.ltarr f) .user (shapeDAB f 0) f (fun s w l t => at_ s w l t ∧ (t.acquiring = true ∨ s.released w.id l w.seq .pkg 7 = false))
    ∧ Completes (.ltwait f) .user (shapeAB f) f free (fun s w l t => (s, t.park (.ltwait k (b s w l t)) f))
    ∧ Completes (.lttry f) .user (shapeTry f) f free (fun s w l t =>
        let hint := min (read32 s w l t f f.c).toNat 65536
        (s, t.park (.lttry k (b s w l t) (s.clk + hint) (f.m.toNat % 8) f.d.reg) f)))
  ∧ (∀ (s : State) (w : Wave) (lane : Nat) (t : Thread) (k : LatchRef) (x : Word) (dl pred : Nat) (d : Option Nat) (len : Nat),
      (t.run = .parked (.ltwait k x) len →
        s.wakeThread w lane t = if s.latchWord k 2 ≠ x then s.setThread w.id lane (({ t with run := .running }).advance len) else s)
      ∧ (t.run = .parked (.lttry k x dl pred d) len →
        s.wakeThread w lane t = if s.latchWord k 2 ≠ x then
          s.setThread w.id lane ({ (t.setPred pred true).result (t.stillHeld d) [1] with run := .running }.advance len) else s))
  ∧ ∀ (s : State) (die core slot lane : Nat) (w : Wave) (t : Thread) (k : LatchRef) (x : Word) (dl pred : Nat) (d : Option Nat) (len : Nat),
      s.waveAt (32 * die + core) slot = some w → w.threads[lane]? = some t → t.run = .parked (.lttry k x dl pred d) len →
      exec (.lttryTimeout die core slot lane) s = .next (if dl ≤ s.clk then
        s.setThread w.id lane ({ (t.setPred pred false).result (t.stillHeld d) [0] with run := .running }.advance len) else s)

/-- R174: a thread parked by SLEEP or SLEEPTO goes on once PCC has reached its deadline, and before 64 clk more have passed. -/
def Rules.SleepEnds : Prop :=
  ∀ (s : State) (die core slot lane : Nat) (w : Wave) (t : Thread) (dl len : Nat),
    s.waveAt (32 * die + core) slot = some w → w.threads[lane]? = some t → t.run = .parked (.sleep dl) len →
    exec (.sleepWake die core slot lane) s =
      .next (if dl ≤ s.pcc.toNat then s.setThread w.id lane ({ t with run := .running }.advance len) else s)
    ∧ (dl + 63 ≤ s.pcc.toNat → s.wakeThread w lane t = s.setThread w.id lane ({ t with run := .running }.advance len))

/-- R240: the phaser itself. A phase completes when some member signals it and all of its signallers have; a member that
joins after a signal takes part from the next phase; a leaving signaller signals first. -/
def Rules.PhaserPhases : Prop :=
  ∀ (p : Phaser) (wave : Nat),
    let signers := p.members.filter fun m => m.sig && decide (m.joined = p.phase)
    (signers ≠ [] → (∀ m ∈ signers, m.next ≠ p.phase) → p.complete =
      { phase := p.phase + 1, members := p.members.map fun m => { m with joined := p.phase + 1, next := p.phase + 1 } })
    ∧ ((signers = [] ∨ ∃ m ∈ signers, m.next = p.phase) → p.complete = p)
    ∧ (∀ sig wait, (p.join wave sig wait).1 =
        if ∃ m ∈ p.members, m.joined = p.phase ∧ m.next ≠ p.phase then p.phase + 1 else p.phase)
    ∧ ((∀ m ∈ p.members, m.wave ≠ wave) → p.leave wave = p)
    ∧ ∀ m, p.members = [m] → m.wave = wave → m.sig = true → m.joined = p.phase → m.next = p.phase →
        p.leave wave = { phase := p.phase + 1, members := [] }

/-- R241: the phaser instructions, of a wave of which one thread issues. PHSIG and PHNEXT signal the open phase, or park
until theirs opens; PHWAIT and PHTRY park; the end of the hint lets a PHTRY go on with its predicate false. -/
def Rules.Phasers : Prop :=
  (∀ (f : Fields) (r : PhaserRef) (m : Member),
    let at_ (s : State) (w : Wave) (l : Nat) (t : Thread) : Prop := s.phaserAt w (read32 s w l t f f.a) = .ok r
    let mine (s : State) (w : Wave) (l : Nat) (t : Thread) : Prop :=
      at_ s w l t ∧ ((s.phaser r).members.find? fun x => x.wave = w.id) = some m
    let kind := f.m.toNat % 4
    Completes (.phreg f) .user (shapePhreg f) f
      (fun s w l t => at_ s w l t ∧ ∀ x ∈ (s.phaser r).members, x.wave ≠ w.id)
      (fun s w _ t =>
        let j := (s.phaser r).join w.id (decide (kind ≠ 1)) (decide (kind ≠ 0))
        (s.setPhaser r j.2, (t.result f.d.reg [j.1]).past f))
    ∧ Completes (.phdrop f) .user (shapeA32 f) f
      (fun s w l t => mine s w l t ∧ (m.sig = false ∨ m.joined ≠ (s.phaser r).phase ∨ m.next ≠ (s.phaser r).phase
        ∨ s.released w.id l w.seq (levelScope r.level) 7 = true))
      (fun s w _ t => (s.setPhaser r ((s.phaser r).leave w.id), t.past f))
    ∧ Completes (.phsig f) .user (shapeDA f 0) f
      (fun s w l t => mine s w l t ∧ m.sig = true ∧ s.released w.id l w.seq (levelScope r.level) 7 = true ∧ m.next = (s.phaser r).phase)
      (fun s w _ t => (s.setPhaser r ((s.phaser r).signal w.id), (t.result f.d.reg [m.next]).past f))
    ∧ Completes (.phsig f) .user (shapeDA f 0) f
      (fun s w l t => mine s w l t ∧ m.sig = true ∧ s.released w.id l w.seq (levelScope r.level) 7 = true ∧ m.next ≠ (s.phaser r).phase)
      (fun s _ _ t => (s, t.park (.phsig r m.next f.d.reg) f))
    ∧ Completes (.phnext f) .user (shapeDA f 0) f
      (fun s w l t => mine s w l t ∧ m.sig = true ∧ m.wait = true ∧ s.released w.id l w.seq (levelScope r.level) 7 = true)
      (fun s w _ t =>
        let now := decide (m.next = (s.phaser r).phase)
        (if now then s.setPhaser r ((s.phaser r).signal w.id) else s,
          t.park (.phnext r m.next now f.d.reg) f))
    ∧ Completes (.phwait f) .user (shapeAB f) f (fun s w l t => mine s w l t ∧ m.wait = true)
      (fun s w l t => (s, t.park (.phwait r (read32 s w l t f f.b)) f))
    ∧ Completes (.phtry f) .user (shapeTry f) f (fun s w l t => mine s w l t ∧ m.wait = true) (fun s w l t =>
        let hint := min (read32 s w l t f f.c).toNat 65536
        (s, t.park (.phtry r (read32 s w l t f f.b) (s.clk + hint) (f.m.toNat % 8) f.d.reg) f)))
  ∧ (∀ (s : State) (w : Wave) (lane : Nat) (t : Thread) (r : PhaserRef) (x : Word) (dl pred : Nat) (d : Option Nat) (len : Nat),
      let past : Prop := 0 < ((s.phaser r).phase - x).toInt
      (t.run = .parked (.phwait r x) len → s.wakeThread w lane t =
        if past then s.setThread w.id lane (({ t with run := .running }).advance len) else s)
      ∧ (t.run = .parked (.phnext r x true d) len → s.wakeThread w lane t =
        if past then s.setThread w.id lane ({ t.result (t.stillHeld d) [x] with run := .running }.advance len) else s)
      ∧ (t.run = .parked (.phtry r x dl pred d) len → s.wakeThread w lane t =
        if past then s.setThread w.id lane ({ (t.setPred pred true).result (t.stillHeld d) [1] with run := .running }.advance len) else s))
  ∧ ∀ (s : State) (die core slot lane : Nat) (w : Wave) (t : Thread) (r : PhaserRef) (x : Word) (dl pred : Nat) (d : Option Nat) (len : Nat),
      s.waveAt (32 * die + core) slot = some w → w.threads[lane]? = some t → t.run = .parked (.phtry r x dl pred d) len →
      exec (.phtryTimeout die core slot lane) s = .next (if dl ≤ s.clk then
        s.setThread w.id lane ({ (t.setPred pred false).result (t.stillHeld d) [0] with run := .running }.advance len) else s)

/-- R35, R52, R53, R242, R321: RGROW parks until blocks are granted, which read as zero and give its threads the new count;
another request of the wave that would now pass 31 blocks takes ILLEGAL. RSHRINK, once no access waits with its sources to read,
returns blocks, whose registers are lost, and delivers the new count, to its register where that is still held
(DESIGN CHOICE log 80). -/
def Rules.RegisterBlocks : Prop :=
  (∀ (f : Fields),
    let g (s : State) (w : Wave) (l : Nat) (t : Thread) : Nat := (read32 s w l t f f.a).toNat
    Completes (.rgrow f) .user (shapeDA f 0) f (fun s w l t => s.wave? w.id = some w ∧ w.blocks ≤ 31 ∧ g s w l t = 0)
      (fun s w _ t => (s, (t.result f.d.reg [BitVec.ofNat 32 w.blocks]).past f))
    ∧ Completes (.rgrow f) .user (shapeDA f 0) f
      (fun s w l t => s.wave? w.id = some w ∧ g s w l t ≠ 0 ∧ w.blocks + g s w l t ≤ 31)
      (fun s w l t => (s, t.park (.rgrow (g s w l t) w.seq s.clk f.d.reg) f))
    ∧ FaultsOn (.rgrow f) .user (shapeDA f 0) f (fun s w l t => if 31 < w.blocks + g s w l t then some (.illegal, 7) else none)
    ∧ FaultsOn (.rshrink f) .user (shapeDA f 0) f (fun s w l t => if w.blocks < g s w l t + 1 then some (.illegal, 7) else none)
    ∧ Waits (.rshrink f) .user (shapeDA f 0) f (fun s w l t => g s w l t < w.blocks ∧ ∃ x ∈ w.threads, x.missing = true)
    ∧ ∀ s w lane t, Issues .user (shapeDA f 0) f s w lane t → swf 0 t.regs = true → (∀ x ∈ w.threads, x.missing = false) →
        let u := t.issued s (shapeDA f 0) f
        let n := (read32 (s.counted w) w.counted lane u f f.a).toNat
        let c := w.blocks - n
        n < w.blocks → ∃ x v y, exec (.rshrink f) s = .next x ∧ x.wave? w.id = some v ∧ v.threads[lane]? = some y
          ∧ v.blocks = c ∧ y.pc = t.pc + BitVec.ofNat 64 f.form.len ∧ y.q 0 = BitVec.ofNat 32 c
          ∧ (∀ k, k < 8 * c → f.d ≠ .n k → y.reg k = t.reg k) ∧ (∀ k, f.d = .n k → k < 8 * c → y.reg k = BitVec.ofNat 32 c)
          ∧ (∀ k, 8 * c ≤ k → 0 < n → y.reg k = 0) ∧ x.mem = s.mem ∧ x.wgs = s.wgs)
  ∧ ∀ (s : State) (die core : Nat) (w : Wave) (g q clk : Nat),
      s.nextGrow (32 * die + core) = some { wave := w, g := g, seq := q, at_ := clk } →
      let c := w.blocks + g
      let v : Wave := { w with
        blocks := c
        threads := w.threads.map fun t =>
          let u := { t with regs := t.regs.filter fun p => decide (p.1 < 8 * w.blocks) }
          match t.run with
          | .parked (.rgrow h x _ d) len =>
            if x = q then { u.result (t.stillHeld d) [BitVec.ofNat 32 c] with run := .running }.advance len
            else if 31 < c + h then { u with run := .running }.fault .illegal 7 x
            else u
          | _ => u }
      (s.setWave v).nextGrow (32 * die + core) = none →
      exec (.rgrowGrant die core) s = .next (s.setWave v)

/-! ## Copies and the ring -/

/-- R225, R227, R231-R234: XCOPY, XGATH, XFILL and XDRAIN write the entry that their operands make at the next index of
the ring, count it, and deliver a promise: the copy number and a time (of the engine's choice, within R234's bounds). -/
def Obligations.CopyIssue : Prop :=
  ∀ (f : Fields),
    let ctl (kind cls : Nat) (sv dv nb : Bool) (lcore : Nat) (lat : Bool) (stride : Nat) : Word :=
      BitVec.ofNat 32 (kind + 8 * cls + 32 * sv.toNat + 64 * dv.toNat + 128 * nb.toNat + 256 * lcore + 8192 * lat.toNat + 2 ^ 19 * stride)
    let end_ (s : State) (w : Wave) (l : Nat) (t : Thread) (vault : Bool) (o : Src) : DWord :=
      if vault then (read32 s w l t f o).zeroExtend 64 else read64 s w l t f o
    let xcopy (kind : Nat) (s : State) (w : Wave) (l : Nat) (t : Thread) : RingEntry :=
      let x := f.x.toNat
      { src := end_ s w l t (f.x.getLsbD 2) f.a, dst := end_ s w l t (f.x.getLsbD 3) f.b, len := read32 s w l t f f.c,
        latch := read32 s w l t f f.e, aux := if f.m.getLsbD 0 then read32 s w l t f f.f else 0,
        ctl := ctl kind (x % 4) (f.x.getLsbD 2) (f.x.getLsbD 3) (f.m.getLsbD 0) (x / 32 % 32) (f.x.getLsbD 10) 0 }
    let xgath (s : State) (w : Wave) (l : Nat) (t : Thread) : RingEntry :=
      { src := read64 s w l t f f.a, dst := (read32 s w l t f f.b).zeroExtend 64, len := read32 s w l t f f.c,
        latch := read32 s w l t f f.e, aux := read32 s w l t f f.f,
        ctl := ctl 2 (f.x.toNat % 4) false true false 0 false (f.x.toNat / 4 % 4096) }
    let xfill (s : State) (w : Wave) (l : Nat) (t : Thread) : RingEntry :=
      { src := 0, dst := end_ s w l t (f.m.getLsbD 2) f.a, len := read32 s w l t f f.c,
        latch := if f.form = .f128 then read32 s w l t f f.e else 0xFFFFFFFF, aux := read32 s w l t f f.b,
        ctl := ctl 3 (f.m.toNat % 4) false (f.m.getLsbD 2) false (f.m.toNat / 8 % 32) (f.m.getLsbD 8) 0 }
    let issues (i : Instr) (sh : Shape) (entry : State → Wave → Nat → Thread → RingEntry) : Prop :=
      ∀ s w lane t g z c, Issues .user sh f s w lane t →
        let u := s.counted w
        let v := w.counted
        let x := t.issued s sh f
        let e := entry u v lane x
        let next := u.nextIndex v lane g
        u.ownGroup v = some g → g.ringLen ≠ 0 → (next - g.ringWord 2).toNat < g.ringLen → x.acquiring = false →
        u.checkCopy g x.level e next.toNat = .ok z c →
        let pcc := s.pcc.toNat
        let nb := if e.ctl.getLsbD 7 then auxTime pcc e.aux else 0
        ∃ time, max pcc nb ≤ time ∧ time ≤ max (max pcc nb) (pcc + 2 ^ 46) ∧
          let made := (next.toNat % 2 ^ 16, time / 16 % 2 ^ 48)
          exec i s = .next ((((z.enterBuffers c).modWg g.id fun g =>
            { g with
              vault := swrite g.vault (g.entryOff next.toNat) (bytesOf [e.src.extractLsb' 0 32, e.src.extractLsb' 32 32,
                e.dst.extractLsb' 0 32, e.dst.extractLsb' 32 32, e.len, e.latch, e.aux, e.ctl])
              pub := next + 1
              copies := g.copies ++ [{ c with wave := some w.id, lane := lane, seq := w.seq + 1 }]
              promised := made :: g.promised
              met := g.met.filter fun x => x ≠ made }).drawn).setThread w.id lane
            ((x.result f.d.reg [BitVec.ofNat 32 (next.toNat % 2 ^ 16 + 2 ^ 16 * (time / 16 % 2 ^ 16)),
              BitVec.ofNat 32 (time / 16 / 2 ^ 16 % 2 ^ 32)]).past f))
    issues (.xcopy f) (shapeXcopy f) (xcopy (if f.x.getLsbD 4 then 1 else 0)) ∧ issues (.xdrain f) (shapeXdrain f) (xcopy 4)
    ∧ issues (.xgath f) (shapeXgath f) xgath ∧ issues (.xfill f) (shapeXfill f) xfill

/-- R228, R230, R234, R237, R238, R408: the copy engine: it takes up the published entry that TAKE names, moves ranges and
counts them on the latch, ends a copy whose bytes are all there, and fails one that meets a fault, with its report. -/
def Rules.CopyEngine : Prop :=
  (∀ (s : State) (wg : Nat) (g : Workgroup) (c : Copy), s.wg? wg = some g → g.ringLen ≠ 0 → g.ringWord 1 ≠ g.ringWord 0 →
    (g.ringWord 1 - g.ringWord 2).toNat < g.ringLen →
    (g.copies.find? fun c => c.index = (g.ringWord 1).toNat && c.state = .waiting) = some c →
    let due : Prop := c.notBefore = false ∨ (s.pcc.toNat + 2 ^ 32 - c.aux.toNat) % 2 ^ 32 < 2 ^ 31
    let begin_ (u : State) (k : Option Nat) : State :=
      (u.setRingWord g 1 (g.ringWord 1 + 1)).modCopy wg c.index fun c => { c with state := .active, token := k }
    (¬ due → exec (.copyTakeup wg) s = .next s)
    ∧ (due → c.len ≤ 2 ^ 20 → exec (.copyTakeup wg) s = .next (begin_ s none))
    ∧ (due → 2 ^ 20 < c.len → c.kind = .drain → g.drain ≠ 0 →
        exec (.copyTakeup wg) s = .next (begin_ (s.modWg wg fun g => { g with drain := g.drain - 1 }) (some 1)))
    ∧ (due → 2 ^ 20 < c.len → c.kind ≠ .drain ∨ g.drain = 0 → g.bulk ≠ 0 →
        exec (.copyTakeup wg) s = .next (begin_ (s.modWg wg fun g => { g with bulk := g.bulk - 1 }) (some 0)))
    ∧ (due → 2 ^ 20 < c.len → c.kind ≠ .drain ∨ g.drain = 0 → g.bulk = 0 → exec (.copyTakeup wg) s = .next s))
  ∧ ∀ (s : State) (wg index off n : Nat) (g : Workgroup) (c : Copy), s.wg? wg = some g → s.soft = [] →
    (g.copies.find? fun c => c.index = index && c.state = .active) = some c →
    let moves (n : Nat) : Prop := 0 < n ∧ off + n ≤ c.len ∧ (off = 0 ∨ (c.base + off) % c.grain = 0)
      ∧ (off + n = c.len ∨ (c.base + off + n) % c.grain = 0) ∧ ∀ r ∈ c.moved, ¬ meets off n r.1 r.2
    let retired (u : State) (st : CopyState) : State :=
      State.retireCopies wg 256 ((u.returnToken c).modCopy wg index fun c => { c with state := st })
    (∀ dwg doff y data, moves n → c.dst = .vault dwg doff → s.wg? dwg = some y → y.copyBuffer (doff + off) n = some none →
      ((c.kind = .fill ∧ data = (List.range n).map fun i => c.aux.extractLsb' (8 * ((off + i) % 4)) 8)
        ∨ ((c.kind = .copy ∨ c.kind = .drain) ∧ ∃ swg soff x, c.src = .vault swg soff ∧ s.wg? swg = some x
            ∧ soff + off + n ≤ x.vaultSize ∧ (∀ b ∈ x.touched (soff + off) n, b.latch = false)
            ∧ poisonedIn x.poison (soff + off) n = false ∧ data = sbytes x.vault (soff + off) n)) →
      let u := (s.vaultWrite dwg (doff + off) data).modCopy wg index fun c => { c with moved := c.moved ++ [(off, n)] }
      exec (.copyArrival wg index off n) s = .next (match c.latch with | some l => u.arrive l n | none => u))
    ∧ (¬ moves n → exec (.copyArrival wg index off n) s = .next s)
    ∧ ((c.moved.map fun r => r.2).sum = c.len → c.owed = [] →
        exec (.copyComplete wg index) s = .next (retired s .complete))
    ∧ ((c.moved.map fun r => r.2).sum ≠ c.len ∨ c.owed ≠ [] → exec (.copyComplete wg index) s = .next s)
    ∧ ∀ va dwg doff x u, c.kind = .copy → c.src = .global va → c.dst = .vault dwg doff →
        moves (min (c.len - off) (8 - (doff + off) % 8)) →
        s.wgVa g index c.level .r (va + BitVec.ofNat 64 off) = (u, .fault x) →
        exec (.copyFail wg index off) s = .next (((retired u (.failed x.code)).modCopy wg index fun c =>
            { c with owed := c.owed.map fun o => { o with count := 0 } }).modWg wg fun g =>
          if g.reports.length < 4 then
            { g with reports := g.reports ++ [{ cause := x, number := index % 65536, descent := false, wave := c.wave }] }
          else { g with impOvf := true })

/-- R33, R235, R236: XSTAT makes a pending result; XWAIT answers an ended copy, or a promise from before a restore, at once
and parks for another; the promised time
ends a park with COPY_LATE, or with 0 under `.NT`. -/
def Rules.CopyStatus : Prop :=
  (∀ (f : Fields) (g : Workgroup),
    let before (s : State) (w : Wave) (l : Nat) (t : Thread) (g : Workgroup) : Prop :=
      let a := (read64 s w l t f f.a).toNat
      (a % 65536, a / 65536) ∈ g.met
    Completes (.xstat f) .user (shapeXstat f) f
      (fun s w l t => s.ownGroup w = some g ∧ g.ringLen ≠ 0 ∧ (read32 s w l t f f.a).toNat < 65536 ∧ t.pending.length < 8)
      (fun s w l t => (s.fresh,
        (t.pend s.nextId w.seq f.la.toNat 1 f.d.reg (.xstat (read32 s w l t f f.a).toNat) none).past f))
    ∧ (∀ v, Completes (.xwait f) .user (shapeXwait f) f
      (fun s w l t => s.ownGroup w = some g ∧ g.ringLen ≠ 0 ∧
        match g.numberState ((read64 s w l t f f.a).toNat % 65536) with
        | .status (.failed _) => v = 2
        | .status .complete | .past => v = 1
        | _ => v = 1 ∧ before s w l t g)
      (fun s _ _ t => (s, (t.result f.d.reg [v]).past f)))
    ∧ Completes (.xwait f) .user (shapeXwait f) f
      (fun s w l t => s.ownGroup w = some g ∧ g.ringLen ≠ 0 ∧
        (g.numberState ((read64 s w l t f f.a).toNat % 65536) = .unpublished
          ∨ g.numberState ((read64 s w l t f f.a).toNat % 65536) = .status .waiting
          ∨ g.numberState ((read64 s w l t f f.a).toNat % 65536) = .status .active) ∧ ¬ before s w l t g)
      (fun s w l t =>
        let a := (read64 s w l t f f.a).toNat
        (s, t.park (.xwait (a % 65536) (a / 65536) (f.m.getLsbD 0) f.d.reg) f)))
  ∧ ∀ (s : State) (die core slot lane : Nat) (w : Wave) (t : Thread) (n time : Nat) (nt : Bool) (d : Option Nat) (len : Nat),
      s.waveAt (32 * die + core) slot = some w → w.threads[lane]? = some t → t.run = .parked (.xwait n time nt d) len →
      let passed : Prop := (s.pcc.toNat / 16 % 2 ^ 48 + 2 ^ 48 - time) % 2 ^ 48 < 2 ^ 47
      exec (.xwaitTimeout die core slot lane) s = .next (
        if ¬ passed then s
        else if nt then s.setThread w.id lane ({ t.result (t.stillHeld d) [0] with run := .running }.advance len)
        else s.setThread w.id lane ({ t with run := .running }.fault .copyLate (BitVec.ofNat 64 n) w.seq))

/-- R245, R249-R252: a ring instruction enters its core's capture table and parks, or for a posted one goes on; it waits
while 32 operations stand there. RDFENCE waits for the posted ones and RDCANCEL withdraws them. -/
def Rules.RingIssue : Prop :=
  ∀ f,
    let op (s : State) (w : Wave) (l : Nat) (t : Thread) (kind : RingKind) (word : Nat) (ord : Bool) (d : Option Nat) : RingOp :=
      { id := s.nextId, part := s.partOfWave w, core := w.core, wave := w.id, lane := l, seq := w.seq,
        tag := read32 s w l t f f.a, word := word, kind := kind, ord := ord, d := d, issuedAt := s.clk, eligible := none,
        probing := match kind with | .board _ u => u | _ => false }
    let may (s : State) (w : Wave) (l : Nat) (t : Thread) : Prop :=
      read32 s w l t f f.a ≠ 0 ∧ (s.ringOps.filter fun o => o.core = w.core).length < 32 ∧ t.acquiring = false
    let issues (i : Instr) (sh : Shape) (q : State → Wave → Nat → Thread → Prop) (parks : Bool)
        (o : State → Wave → Nat → Thread → RingOp) : Prop :=
      Completes i .user sh f (fun s w l t => may s w l t ∧ q s w l t) (fun s w l t =>
        ({ s.fresh with ringOps := s.ringOps ++ [o s w l t] },
          if parks then t.park (.ring s.nextId) f else t.past f))
      ∧ FaultsOn i .user sh f (fun s w l t => if read32 s w l t f f.a = 0 then some (.illegal, 7) else none)
      ∧ Waits i .user sh f (fun s w l t => read32 s w l t f f.a ≠ 0 ∧ q s w l t ∧ ¬ may s w l t)
    let m := f.m.toNat
    let mask (s : State) (w : Wave) (l : Nat) (t : Thread) : Word := if f.form = .f128 then read32 s w l t f f.e else 0xFFFF
    issues (.rdcap f) (shapeRdcap f) (fun _ _ _ _ => True) true (fun s w l t =>
      op s w l t (.cap (f.m.getLsbD 3) (f.m.getLsbD 4)) (m % 8) (f.m.getLsbD 5) f.d.reg)
    ∧ issues (.rdboard f) (shapeRdboard f) (fun _ _ _ _ => True) true (fun s w l t =>
      op s w l t (.board (readRun t f.b 16) (f.m.getLsbD 0)) 0 (f.m.getLsbD 1) none)
    ∧ issues (.rdalight f) (shapeRdalight f) (fun _ _ _ _ => True) true (fun s w l t =>
      op s w l t (.alight (f.m.getLsbD 0)) 0 (f.m.getLsbD 1) f.d.reg)
    ∧ issues (.rdrmw f) (shapeRdrmw f) (fun s w l t => (mask s w l t).toNat < 65536) (f.m.getLsbD 7) (fun s w l t =>
      op s w l t (.rmw (m / 8 % 8) (f.m.getLsbD 6) (f.m.getLsbD 7) (f.m.getLsbD 8)
        (if m / 8 % 8 = 7 then 0 else read64 s w l t f f.b) (if m / 8 % 8 = 4 then read64 s w l t f f.c else 0)
        (if m / 8 % 8 = 7 then readRun t f.b 16 else []) ((mask s w l t).extractLsb' 0 16)) (m % 8) (f.m.getLsbD 9) f.d.reg)
    ∧ Completes (.rdfence f) .user (shapeDOnly f) f (fun s w l _ => s.postedOps w.id l = []) (fun s _ _ t =>
        (s, ({ t with failAlighted := false, failMissing := false }.result f.d.reg
          [(if t.failAlighted then 2 else 0) + (if t.failMissing then 4 else 0)]).past f))
    ∧ Completes (.rdfence f) .user (shapeDOnly f) f (fun s w l _ => s.postedOps w.id l ≠ []) (fun s _ _ t =>
        (s, t.park (.rdfence f.d.reg) f))
    ∧ Completes (.rdcancel f) .user (shapeDOnly f) f
        (fun s w l _ => (∀ o ∈ s.ringOps, o.eligible ≠ none) ∧ s.thread? w.id l ≠ none
          ∧ s.stationOf (s.partOfWave w) w.core ∈ (s.partition (s.partOfWave w)).ring.passed)
        (fun s w l t =>
          let posted (o : RingOp) : Bool := o.wave = w.id && o.lane = l && o.kind.posted
          ({ s with ringOps := s.ringOps.filter fun o => !posted o },
            (({ t with
                failAlighted := ((s.thread? w.id l).map fun (x : Thread) => x.failAlighted).getD false
                failMissing := ((s.thread? w.id l).map fun (x : Thread) => x.failMissing).getD false }).result f.d.reg
              [BitVec.ofNat 32 (s.ringOps.filter posted).length]).past f))

/-- R243-R251: a slot passes a station: the operations of its core that are eligible, in issue order, meet it. One that
captures or changes a slot of its tag ends DONE with the revolution; a boarder takes an empty slot; RING_OP_ELIGIBLE makes
an operation eligible; RING_OP_MISSING ends one after a revolution; RING_FULL faults a boarder after four. -/
def Rules.RingMoves : Prop :=
  (∀ (s : State) (id : Nat), exec (.ringOpEligible id) s = .next { s with ringOps := s.ringOps.map fun o =>
      if o.id = id ∧ o.eligible = none ∧ o.issuedAt + 8 ≤ s.clk ∧ (o.kind.rel = true → s.released o.wave o.lane o.seq .pkg 7 = true)
          ∧ (o.ord = true → ∀ p ∈ s.ringOps, p.wave = o.wave → p.lane = o.lane → o.id ≤ p.id) then
          { o with eligible := some (if s.stationOf o.part o.core ∈ (s.partition o.part).ring.passed then s.clk + 1 else s.clk) }
      else o })
  ∧ (∀ (s : State) (part j : Nat) (o : RingOp) (sl : Slot) (k : Nat) (w : Wave) (t : Thread) (len at_ : Nat),
      s.exists_ part = true → j < 32 * (s.dieSet part).length → j ∉ (s.partition part).ring.passed →
      s.stationOps part (s.stationCore part j) = [o] → o.eligible = some at_ →
      s.slotAt part (stationPos j) = k →
      let u := s.setPartition part { s.partition part with ring := { (s.partition part).ring with
        passed := (s.partition part).ring.passed ++ [j] } }
      u.slot part k = sl → s.wave? o.wave = some w → w.threads[o.lane]? = some t → t.run = .parked (.ring o.id) len →
      let status : Word := BitVec.ofNat 32 (u.revolution part k % 65536 * 65536)
      let ends (v : State) (pushes regs : List Word) : State :=
        ({ v with ringOps := s.ringOps.filter fun x => x.id ≠ o.id }).setThread o.wave o.lane
          (({ (t.pushAll pushes).writeD o.d (match o.d with | some k => regs.take (t.cut - k) | none => regs) with
              run := .running }).advance len)
      let run := ((List.range 16).map fun i => sl.payload.getD (15 - i) 0) ++ [status]
      let e := exec (.ringSlotPass part j) s
      (∀ acq, o.kind = .cap false acq → sl.tag = o.tag → e = .next (ends u run sl.payload))
      ∧ (∀ acq, o.kind = .cap true acq → sl.tag = o.tag →
          e = .next (ends u [status] [sl.payload.getD (2 * o.word) 0, sl.payload.getD (2 * o.word + 1) 0]))
      ∧ (∀ acq, o.kind = .alight acq → sl.tag = o.tag → e = .next (ends (u.setSlot part k
          { tag := 0, payload := sl.payload, ghost := some (sl.tag, u.revolution part k) }) run sl.payload))
      ∧ (∀ payload uniq, o.kind = .board payload uniq → o.probing = false → o.d = none → sl.tag = 0 →
          e = .next (ends (u.setSlot part k { tag := o.tag, payload := payload, ghost := none }) [status] []))
      ∧ (∀ unsigned rel b c run mask, o.kind = .rmw 0 unsigned true rel b c run mask → sl.tag = o.tag →
          let old : DWord := sl.payload.getD (2 * o.word + 1) 0 ++ sl.payload.getD (2 * o.word) 0
          let new := old + b
          let payload := setAt (setAt sl.payload (2 * o.word) (new.extractLsb' 0 32)) (2 * o.word + 1) (new.extractLsb' 32 32)
          e = .next (ends (u.setSlot part k { sl with payload := payload })
            [old.extractLsb' 32 32, old.extractLsb' 0 32, status] [old.extractLsb' 0 32, old.extractLsb' 32 32]))
      ∧ (∀ acq, o.kind = .alight acq → sl.tag ≠ o.tag → (sl.ghost.map fun g => g.1) ≠ some o.tag → e = .next u))
  ∧ ∀ (s : State) (o : RingOp) (w : Wave) (t : Thread) (len at_ : Nat),
      (s.ringOps.find? fun x => x.id = o.id) = some o → o.eligible = some at_ → s.wave? o.wave = some w →
      w.threads[o.lane]? = some t → t.run = .parked (.ring o.id) len →
      let gone : State := { s with ringOps := s.ringOps.filter fun x => x.id ≠ o.id }
      (∀ acq, o.kind = .alight acq → exec (.ringOpMissing o.id) s = .next (
        if 520 * (s.dieSet o.part).length ≤ s.clk - at_ then
          gone.setThread o.wave o.lane (({ t.pushAll (List.replicate 16 0 ++ [2]) with run := .running }).advance len) else s))
      ∧ (∀ payload uniq, o.kind = .board payload uniq → o.probing = false → exec (.ringFull o.id) s = .next (
          if 4 * (520 * (s.dieSet o.part).length) ≤ s.clk - at_ then
            gone.setThread o.wave o.lane ({ t with run := .running }.fault .ringFull (o.tag.zeroExtend 64) o.seq) else s))

/-! ## Operand slots, tickets, tiles -/

/-- R254, R261-R264: OCLAIM parks until its slots are granted, all at once; ORELEASE frees slots that no operation reads;
LAYSET sets a layout record; OLOAD is on its way once its chunks pass, and writes its slot when it completes (here from
sources that nothing has written since its issue, R131); OFENCE waits for the wave's loads and delivers the conflicts. -/
def Rules.OperandSlots : Prop :=
  (∀ (f : Fields) (g : Workgroup),
    let mask (s : State) (w : Wave) (l : Nat) (t : Thread) : DWord := read64 s w l t f f.a
    let named (m : DWord) : Prop := m ≠ 0 ∧ ∀ k, m.getLsbD k = true → k < g.nslots
    Completes (.oclaim f) .user (shapeA64 f) f (fun s w l t => s.ownGroup w = some g ∧ named (mask s w l t))
      (fun s w l t => (s.fresh, t.park (.oclaim (mask s w l t) s.nextId) f))
    ∧ FaultsOn (.oclaim f) .user (shapeA64 f) f (fun s w l t =>
        if s.ownGroup w = some g ∧ mask s w l t = 0 then some (.illegal, 7) else none)
    ∧ (∀ k, Completes (.orelease f) .user (shapeA64 f) f
        (fun s w l t => s.ownGroup w = some g ∧ mask s w l t = BitVec.twoPow 64 k ∧ k < g.nslots ∧ k < 64
          ∧ (g.slot k).held = true ∧ (g.slot k).marked = false ∧ g.ops = [])
        (fun s _ _ t => (s.setWg ({ g.setSlot k { g.slot k with marked := true, markTicket := g.issued } with
            slots := (g.setSlot k { g.slot k with marked := true, markTicket := g.issued }).slots.map fun p =>
              if p.2.marked then (p.1, { p.2 with held := false, marked := false }) else p }), t.past f)))
    ∧ Completes (.layset f) .user (shapeLayset f) f
        (fun s w l t => s.ownGroup w = some g ∧ (read32 s w l t f f.a).toNat < 8 ∧ (readRun t f.b 8).getD 7 0 < 4)
        (fun s w l t => (s.setWg { g with layouts := put g.layouts (read32 s w l t f f.a).toNat (readRun t f.b 8) }, t.past f))
    ∧ (∀ ly from_, Completes (.oload f) .user (shapeOload f) f
        (fun s w l t =>
          let a := (read32 s w l t f f.a).toNat
          let c := (read32 s w l t f f.c).toNat
          let fs := formatSlot s w (f.m.toNat % 8)
          let code := if f.m.getLsbD 3 then fsB fs else fsA fs
          let ch := 8 * 2 ^ ((word ly 7).toNat % 4)
          s.ownGroup w = some g ∧ a < g.nslots ∧ c < 8 ∧ matFormat code = true ∧ (g.slot a).held = true
          ∧ lookD (List.replicate 8 0) g.layouts c = ly
          ∧ (word ly 5).toNat % 2 ^ 16 * ((word ly 5).toNat / 2 ^ 16) * ((word ly 6).toNat % 2 ^ 16) * ((word ly 6).toNat / 2 ^ 16) * ch
            = tileBytes code (f.m.getLsbD 3)
          ∧ s.chunks g ch (chunkAddrs ly (word ly 0 + read32 s w l t f f.b)) = .ok from_ ∧ t.acquiring = false)
        (fun s w l t => (s.fresh.modWg g.id fun g => { g with oloads := g.oloads ++ [
          { id := s.nextId, wave := w.id, slot := (read32 s w l t f f.a).toNat, chunk := 8 * 2 ^ ((word ly 7).toNat % 4),
            code := if f.m.getLsbD 3 then fsB (formatSlot s w (f.m.toNat % 8)) else fsA (formatSlot s w (f.m.toNat % 8)),
            from_ := from_, before := s.gangVaults g w.store }] }, t.past f)))
    ∧ Completes (.ofence f) .user (shapeDOnly f) f
        (fun s w _ _ => s.ownGroup w = some g ∧ ∀ o ∈ g.oloads, o.wave ≠ w.id)
        (fun s _ _ t => (s.setWg { g with conflicts := 0 }, (t.result f.d.reg [BitVec.ofNat 32 g.conflicts]).past f))
    ∧ ∀ o, Completes (.ofence f) .user (shapeDOnly f) f
        (fun s w _ _ => s.ownGroup w = some g ∧ (g.oloads.filter fun o => o.wave = w.id) = [o])
        (fun s _ _ t => (s.fresh, t.park (.ofence o.id s.nextId f.d.reg) f)))
  ∧ (∀ (s : State) (wg : Nat) (g : Workgroup) (o : Nat) (m : DWord), s.wg? wg = some g → s.claims wg = [(o, m)] →
      (∀ k, k < 64 → m.getLsbD k = true → (g.slot k).held = false) →
      let x := (maskSlots m).foldl (fun g k => g.setSlot k { g.slot k with held := true, marked := false }) g
      let u : State := { s.setWg x with waves := s.waves.map fun w =>
        if w.wg = wg then { w with threads := w.threads.map fun t => match t.run with
          | .parked (.oclaim _ y) len => if y = o then { t with run := .running }.advance len else t
          | _ => t } else w }
      State.grantClaims wg 1 s = u ∧ ∀ k, k < 64 → (x.slot k).held = (m.getLsbD k || (g.slot k).held))
  ∧ ∀ (s : State) (wg id : Nat) (g : Workgroup) (o : Oload), s.wg? wg = some g → (g.oloads.find? fun o => o.id = id) = some o →
      s.oloadReady o = true → (∀ c ∈ o.from_, ∃ x, s.wg? c.1 = some x ∧ poisonedIn x.poison c.2 o.chunk = false
        ∧ (∃ p ∈ o.before, p.1 = c.1) ∧ ∀ p ∈ o.before, p.1 = c.1 → sbytes p.2 c.2 o.chunk = sbytes x.vault c.2 o.chunk) →
      let data := o.from_.flatMap fun c => ((s.wg? c.1).map fun x => sbytes x.vault c.2 o.chunk).getD []
      exec (.oloadComplete wg id) s = .next (State.modWg { s with draws := s.draws + 8 * data.length } wg fun g =>
        let x := g.slot o.slot
        { ({ g with ops := g.ops.map fun (p : TicketOp) => p.keeps false o.slot x.bytes }).setSlot o.slot
            { x with bytes := swrite x.bytes 0 data, poison := clearPoison x.poison 0 data.length } with
          oloads := g.oloads.filter fun p => p.id ≠ id
          conflicts := min (g.conflicts + s.conflictsOf o.chunk o.from_.length o.from_) (2 ^ 32 - 1) })

/-- R118, R256, R257, R265-R269, R275, R277, R282, R285, R288: an operation that is ticketed waits at issue while 64 are open,
its pane has no token, or an earlier acquire of its thread is not performed; it delivers the next ticket and joins the queue with the values it read. -/
def Rules.TicketIssue : Prop :=
  ∀ (f : Fields) (g : Workgroup),
    let a (s : State) (w : Wave) (l : Nat) (t : Thread) : Word := read32 s w l t f f.a
    let b (s : State) (w : Wave) (l : Nat) (t : Thread) : Word := read32 s w l t f f.b
    let c (s : State) (w : Wave) (l : Nat) (t : Thread) : Word := read32 s w l t f f.c
    let fs (s : State) (w : Wave) : Word := formatSlot s w (f.m.toNat % 8)
    let joins (s : State) (w : Wave) (l : Nat) (pane : Option Nat) (kind : TicketKind) : State :=
      s.modWg g.id fun x => { x with
        issued := g.issued + 1
        ops := x.ops ++ [
          { ticket := g.issued + 1, wave := w.id, core := w.core, pane := pane, level := s.levelAt w [l],
            tileSeq := (s.core w.core).tileSeq, kind := kind, before := s.sources g kind, others := [] }] }
    let ticket (t : Thread) : Thread := (t.result f.d.reg [(g.issued + 1).zeroExtend 32]).past f
    -- one that needs no token
    let plain (i : Instr) (sh : Shape) (q : State → Wave → Nat → Thread → Prop) (kind : State → Wave → Nat → Thread → TicketKind) : Prop :=
      Completes i .user sh f (fun s w l t => s.ownGroup w = some g ∧ g.ops.length < 64 ∧ t.acquiring = false ∧ q s w l t)
        (fun s w l t => (joins s w l none (kind s w l t), ticket t))
      ∧ ∀ s w lane t, Issues .user sh f s w lane t →
          (s.counted w).ownGroup w.counted = some g → 64 ≤ g.ops.length ∨ t.acquiring = true → q (s.counted w) w.counted lane (t.issued s sh f) →
          exec i s = .next (s.counted w)
    -- one that takes a token of its pane
    let token (i : Instr) (sh : Shape) (tile : Bool) (q : State → Wave → Nat → Thread → Prop)
        (kind : State → Wave → Nat → Thread → TicketKind) : Prop :=
      Completes i .user sh f
        (fun s w l t => s.ownGroup w = some g ∧ g.ops.length < 64 ∧ s.paneTokens w.core (w.slot % 4) ≠ 0 ∧ t.acquiring = false ∧ q s w l t)
        (fun s w l t =>
          let u := joins (s.takeToken w.core (w.slot % 4)) w l (some (w.slot % 4)) (kind s w l t)
          (if tile then u.setCore w.core { u.core w.core with tileSeq := (u.core w.core).tileSeq + 1 } else u, ticket t))
      ∧ ∀ s w lane t, Issues .user sh f s w lane t →
          (s.counted w).ownGroup w.counted = some g → 64 ≤ g.ops.length ∨ s.paneTokens w.core (w.slot % 4) = 0 ∨ t.acquiring = true →
          q (s.counted w) w.counted lane (t.issued s sh f) → exec i s = .next (s.counted w)
    let slot (k : Nat) (code : Nat) (roleB : Bool) : Prop :=
      k < g.nslots ∧ (g.slot k).held = true ∧ matFormat code = true ∧ poisonedIn (g.slot k).poison 0 (tileBytes code roleB) = false
    let check (s : State) (w : Wave) : Option Nat := s.replayOf w.core g false none
    let rot (s : State) (w : Wave) (l : Nat) (t : Thread) : Option Nat :=
      if f.form = .f128 then some (read32 s w l t f f.e).toNat else none
    (f.m.getLsbD 4 = false → token (.mma f) (shapeMma f) true
      (fun s w l t => (a s w l t).toNat < g.nslots ∧ (b s w l t).toNat < g.nslots ∧ (c s w l t).toNat < g.ntiles
        ∧ matPair (fsA (fs s w)) (fsB (fs s w)) = true ∧ (g.slot (a s w l t).toNat).held = true ∧ (g.slot (b s w l t).toNat).held = true
        ∧ poisonedIn (g.slot (a s w l t).toNat).poison 0 (tileBytes (fsA (fs s w)) false) = false
        ∧ poisonedIn (g.slot (b s w l t).toNat).poison 0 (tileBytes (fsB (fs s w)) true) = false
        ∧ ∀ r, rot s w l t = some r → 1 ≤ r ∧ r ≤ 127)
      (fun s w l t => .mma (a s w l t).toNat (b s w l t).toNat (c s w l t).toNat (fs s w) (f.m.getLsbD 3)
        (s.replayOf w.core g (f.m.getLsbD 9) (rot s w l t))))
    ∧ token (.mtrans f) (shapeMtrans f) true
        (fun s w l t => slot (a s w l t).toNat (fsB (fs s w)) true ∧ (c s w l t).toNat < g.ntiles)
        (fun s w l t => .mtrans (a s w l t).toNat (c s w l t).toNat (fs s w) (check s w))
    ∧ token (.mperm f) (shapeDABC f 7) true
        (fun s w l t => slot (a s w l t).toNat (fsB (fs s w)) true ∧ (c s w l t).toNat < g.ntiles
          ∧ (b s w l t).toNat % 256 < matK (fsB (fs s w)) ∧ (b s w l t).toNat / 256 < matK (fsB (fs s w)))
        (fun s w l t => .mperm (a s w l t).toNat (c s w l t).toNat (fs s w) (b s w l t) (check s w))
    ∧ token (.mrsum f) (shapeMrsum f) true
        (fun s w l t => slot (a s w l t).toNat (if f.m.getLsbD 3 then fsB (fs s w) else fsA (fs s w)) (f.m.getLsbD 3)
          ∧ (c s w l t).toNat < g.ntiles)
        (fun s w l t => .mrsum (a s w l t).toNat (c s w l t).toNat (fs s w) (f.m.getLsbD 3) (check s w))
    ∧ plain (.aclr f) (shapeDA f 0)
        (fun s w l t => 0 < (a s w l t).toNat ∧ (a s w l t).toNat < 2 ^ g.ntiles ∧ (a s w l t).toNat < 65536)
        (fun s w l t => .aclr ((a s w l t).extractLsb' 0 16))
    ∧ (let code (s : State) (w : Wave) : Nat := fsO (fs s w)
       let row (s : State) (w : Wave) : Nat := fmtRowBytes (code s w) 96
       let pitch (s : State) (w : Wave) (l : Nat) (t : Thread) : Nat :=
         if (a s w l t).toNat / 65536 = 0 then row s w else (a s w l t).toNat / 65536
       plain (.adrain f) (shapeAdrain f)
        (fun s w l t => (a s w l t).toNat % 65536 < min 16 g.ntiles ∧ row s w ≤ pitch s w l t ∧ pitch s w l t % drainAlign (code s w) = 0
          ∧ (fsMode (fs s w) = 0 ↔ f.c = .none)
          ∧ (fsMode (fs s w) = 1 ∨ fsMode (fs s w) = 3 → ∃ x, s.engineLoad g (c s w l t) 128 1 = .ok x)
          ∧ (fsMode (fs s w) = 2 ∨ fsMode (fs s w) = 3 → ∃ x, s.engineLoad g (c s w l t + 128) 96 1 = .ok x)
          ∧ ∀ i, i < 128 → ∃ x, s.engineStore g (b s w l t + BitVec.ofNat 32 (i * pitch s w l t)) (row s w) (drainAlign (code s w)) = .ok x)
        (fun s w l t => .adrain ((a s w l t).toNat % 16) (pitch s w l t) (b s w l t)
          (if fsMode (fs s w) = 0 then none else some (c s w l t)) (fs s w) (f.m.getLsbD 3)))
    ∧ plain (.pgroup f) (shapeDABC f 0)
        (fun s w l t =>
          let d := (c s w l t).toNat
          g.hasPaths = true ∧ 0 < d ∧ d ≤ 16 ∧ (∃ x, s.engineStore g (a s w l t) 256 2 = .ok x)
          ∧ ∃ x, s.engineStore g (b s w l t) (4 * (2 ^ d + 1)) 4 = .ok x)
        (fun s w l t => .pgroup (a s w l t) (b s w l t) (c s w l t).toNat)
    ∧ (∀ tree, plain (.dgrad f) (shapeDgrad f)
        (fun s w l t => g.hasPaths = true ∧ s.treeAt w g (a s w l t) (fun t => 4 * t.h + 4) = .ok tree)
        (fun s w l t =>
          let e := if f.form = .f128 then (read32 s w l t f f.e).toNat else 0
          .dgrad (a s w l t) tree (b s w l t) e (c s w l t)))
    ∧ ∀ tree, token (.desc f) (shapeDesc f) false
        (fun s w l t =>
          let n := (c s w l t).toNat
          let e := (read32 s w l t f f.e).toNat
          let stride := if e = 0 then fmtRowBytes (fsA tree.fs) tree.h else e
          g.hasPaths = true ∧ 0 < n ∧ n ≤ 128 ∧ s.treeAt w g (a s w l t) (fun t => fmtRowBytes (fsB t.fs) t.h + 4) = .ok tree
          ∧ (∀ i, i < n → ∃ x, s.engineLoad g (b s w l t + BitVec.ofNat 32 (i * stride)) (fmtRowBytes (fsA tree.fs) tree.h)
              (if fsA tree.fs = 1 then 2 else 1) = .ok x)
          ∧ (f.f ≠ .none → ∃ x, s.engineStore g (read32 s w l t f f.f) (8 * n) 4 = .ok x))
        (fun s w l t =>
          let e := (read32 s w l t f f.e).toNat
          .desc (a s w l t) tree (b s w l t) e (c s w l t).toNat
            (if f.f = .none then none else some (read32 s w l t f f.f)))

/-- R267, R268: MSIGN opens a convergence register; a signature before the last is counted and parks, the last one issues
the MMA, closes the register, and gives every signer the ticket; one that differs takes MSIGN_MISMATCH. -/
def Rules.Signatures : Prop :=
  ∀ (f : Fields) (g : Workgroup),
    Completes (.msign f) .user (shapeMsign f) f
      (fun s w l t => s.ownGroup w = some g ∧ 0 < (read32 s w l t f f.a).toNat ∧ (read32 s w l t f f.a).toNat ≤ 1024
        ∧ look g.cvs (f.m.toNat % 16) = none)
      (fun s w l t => (s.setWg { g with
        cvs := put g.cvs (f.m.toNat % 16) { n := (read32 s w l t f f.a).toNat, count := 0, fields := none } }, t.past f))
    ∧ (f.m.getLsbD 4 = true → ∀ (v : Convergence),
      let cv := f.m.toNat / 32 % 16
      let fields (s : State) (w : Wave) (l : Nat) (t : Thread) : SignFields :=
        { a := read32 s w l t f f.a, b := read32 s w l t f f.b, c := read32 s w l t f f.c, m := f.m &&& 0x20F,
          e := if f.form = .f128 then some (read32 s w l t f f.e) else none }
      let at_ (s : State) (w : Wave) (l : Nat) (t : Thread) : Prop :=
        s.ownGroup w = some g ∧ mmaIllegal (formatSlot s w (f.m.toNat % 8)) g (fields s w l t) = false ∧ look g.cvs cv = some v
      Completes (.mma f) .user (shapeMma f) f
        (fun s w l t => at_ s w l t ∧ (v.fields = none ∨ v.fields = some (fields s w l t)) ∧ v.count + 1 < v.n)
        (fun s w l t => (s.setWg { g with cvs := put g.cvs cv { v with count := v.count + 1, fields := some (fields s w l t) } },
          t.park (.sign cv f.d.reg) f))
      ∧ FaultsOn (.mma f) .user (shapeMma f) f (fun s w l t =>
          if s.ownGroup w = some g ∧ mmaIllegal (formatSlot s w (f.m.toNat % 8)) g (fields s w l t) = false
              ∧ look g.cvs cv = some v ∧ v.fields ≠ none ∧ v.fields ≠ some (fields s w l t)
          then some (.msignMismatch, BitVec.ofNat 64 cv) else none)
      ∧ Completes (.mma f) .user (shapeMma f) f
        (fun s w l t => at_ s w l t ∧ (v.fields = none ∨ v.fields = some (fields s w l t)) ∧ v.n ≤ v.count + 1
          ∧ mmaSlots (formatSlot s w (f.m.toNat % 8)) g (fields s w l t) = none ∧ g.ops.length < 64
          ∧ s.paneTokens w.core (w.slot % 4) ≠ 0 ∧ t.acquiring = false)
        (fun s w l t =>
          let x := fields s w l t
          let u := s.issueTile w g t.level (f.m.getLsbD 9) (x.e.map fun e => e.toNat)
            (.mma x.a.toNat x.b.toNat x.c.toNat (formatSlot s w (f.m.toNat % 8)) (f.m.getLsbD 3))
          ((u.1.modWg g.id fun g => { g with cvs := drop g.cvs cv }).leaveSign g.id cv ((g.issued + 1).zeroExtend 32),
            (t.result f.d.reg [(g.issued + 1).zeroExtend 32]).past f)))

/-- R257, R273: MWAIT goes on for a ticket that is done, parks for one that is issued, and is ILLEGAL for one that is not. -/
def Rules.TicketWaits : Prop :=
  ∀ (f : Fields) (g : Workgroup),
    let a (s : State) (w : Wave) (l : Nat) (t : Thread) : Word := read32 s w l t f f.a
    let tk (s : State) (w : Wave) (l : Nat) (t : Thread) : BitVec 16 := (a s w l t).extractLsb' 0 16
    let known (s : State) (w : Wave) (l : Nat) (t : Thread) : Prop :=
      s.ownGroup w = some g ∧ (a s w l t).toNat < 65536 ∧ (tk s w l t - g.issued).toInt ≤ 0
    Completes (.mwait f) .user (shapeDA f 0) f
      (fun s w l t => known s w l t ∧ 0 ≤ (g.done - tk s w l t).toInt ∧ g.mismatched = [])
      (fun s _ _ t => (s, (t.result f.d.reg [1]).past f))
    ∧ Completes (.mwait f) .user (shapeDA f 0) f (fun s w l t => known s w l t ∧ (g.done - tk s w l t).toInt < 0)
      (fun s w l t => (s, t.park (.mwait (tk s w l t) f.d.reg) f))
    ∧ FaultsOn (.mwait f) .user (shapeDA f 0) f (fun s w l t =>
        if s.ownGroup w = some g ∧ (65536 ≤ (a s w l t).toNat ∨ 0 < (tk s w l t - g.issued).toInt) then some (.illegal, 7) else none)

/-- R72-R74, R256, R265, R266, R275: TICKET_COMPLETE runs the oldest operation, whose ticket is then done, and gives back its
token. What it makes of a tile, from slots that nothing has written since its issue (R131): exact sums of exact products,
rounded once; a cleared tile reads +0. An operation that has run completes once nothing that it sent is on its way (R288). -/
def Obligations.TileOperations : Prop :=
  ∀ (s : State) (wg : Nat) (g : Workgroup) (o : TicketOp) (rest : List TicketOp), s.wg? wg = some g → g.ops = o :: rest →
    let old (c i j : Nat) : Word := sget 0 (g.tile c) (96 * i + j)
    let sum (l : List FVal) : FVal := match l with
      | [] => .fin false 0 0
      | x :: l => l.foldl (fun x y => x.add false y) x
    let add (o : Word) (x : FVal) : Word := rne32 ((f32 o).add false x)
    let elem (slot code rows r k : Nat) : FVal :=
      fmtDecode code (rowElem code (sbytes (g.slot slot).bytes 0 (rows * fmtRowBytes code (matK code))).toArray (r * fmtRowBytes code (matK code)) k)
    let kept (slot : Nat) : Prop := ∀ p ∈ o.before, p.1 = slot → p.2 = (g.slot slot).bytes
    let completes (tile : Workgroup → Prop) : Prop :=
      ∃ t x, exec (.ticketComplete wg) s = .next t ∧ t.wg? wg = some x ∧ x.ops = rest ∧ x.done = o.ticket ∧ tile x
    (o.ran = none →
      (∀ a b c fs zero, o.kind = .mma a b c fs zero none → kept a → kept b → matPair (fsA fs) (fsB fs) = true → swf 0 (g.tile c) = true →
        completes fun x => ∀ i j, i < 128 → j < 96 →
          let dot := sum ((List.range (matK (fsA fs))).map fun k => (elem a (fsA fs) 128 i k).mul (elem b (fsB fs) 96 j k))
          sget 0 (x.tile c) (96 * i + j) = if zero then rne32 dot else add (old c i j) dot)
      ∧ (∀ a c fs, o.kind = .mtrans a c fs none → kept a → matFormat (fsB fs) = true → swf 0 (g.tile c) = true →
        completes fun x => ∀ i j, i < 128 → j < 96 → sget 0 (x.tile c) (96 * i + j) =
          add (old c i j) (if i < 96 ∧ j < matK (fsB fs) then elem a (fsB fs) 96 i j else .fin false 0 0))
      ∧ (∀ a c fs p, o.kind = .mperm a c fs p none → kept a → matFormat (fsB fs) = true → swf 0 (g.tile c) = true →
        completes fun x => ∀ i j, i < 128 → j < 96 → sget 0 (x.tile c) (96 * i + j) =
          add (old c i j) (if i < matK (fsB fs) then
            elem a (fsB fs) 96 j (((i ^^^ (p.toNat % 64)) + p.toNat / 256 % 64) % matK (fsB fs)) else .fin false 0 0))
      ∧ (∀ a c fs col, o.kind = .mrsum a c fs col none → kept a → matFormat (if col then fsB fs else fsA fs) = true → swf 0 (g.tile c) = true →
        completes fun x => ∀ i j, i < 128 → j < 96 →
          let code := if col then fsB fs else fsA fs
          sget 0 (x.tile c) (96 * i + j) = add (old c i j) (sum ((List.range (matK code)).map fun k =>
            elem a code (if col then 96 else 128) (if col then j else i) k)))
      ∧ ∀ m, o.kind = .aclr m → completes fun x => ∀ c n, c < 16 →
          sget 0 (x.tile c) n = if m.getLsbD c then 0 else sget 0 (g.tile c) n)
    ∧ (∀ fl, o.ran = some fl → (∀ f ∈ fl, s.flying f.1 = false) → completes fun x => ∀ c n, sget 0 (x.tile c) n = sget 0 (g.tile c) n)
    ∧ ∀ fl, o.ran = some fl → (∃ f ∈ fl, s.flying f.1 = true) → exec (.ticketComplete wg) s = .next s

/-- R131: bytes of 6-, 8- and 16-bit elements of which some were written between issue and completion are read element by
element, each the one now or one of those before. Which of them is open (DESIGN CHOICE log 4). -/
def Rules.OperandsInFlight : Prop :=
  ∀ (w draw : Nat) (olds : List (List Byte)) (new : List Byte), (∀ o ∈ olds, o.length = new.length) →
    (w = 6 ∧ new.length % 3 = 0) ∨ w = 8 ∨ (w = 16 ∧ new.length % 2 = 0) →
    (mixBytes w draw olds new).length = new.length
    ∧ ∀ i, let elem (l : List Byte) : Nat := leNat l / 2 ^ (w * i) % 2 ^ w
        elem (mixBytes w draw olds new) = elem new ∨ ∃ o ∈ olds, elem (mixBytes w draw olds new) = elem o

/-- R131, R276, R286, R320: AREAD and PTREAD make a pending result of the value at issue, found when it arrives where an open
operation writes there, or another thread has changed what one reads; AWRITE sets tile words, to values left open where one writes there
(DESIGN CHOICE log 4). -/
def Obligations.TileWords : Prop :=
  ∀ (f : Fields) (g : Workgroup),
    let n := if f.m.toNat % 4 = 0 then 1 else if f.m.toNat % 4 = 1 then 4 else 8
    let a (s : State) (w : Wave) (l : Nat) (t : Thread) : Nat := (read32 s w l t f f.a).toNat
    let tile (s : State) (w : Wave) (l : Nat) (t : Thread) : Nat := a s w l t / 65536
    let row (s : State) (w : Wave) (l : Nat) (t : Thread) : Nat := a s w l t % 256
    let col (s : State) (w : Wave) (l : Nat) (t : Thread) : Nat := a s w l t / 256 % 256
    let ok (s : State) (w : Wave) (l : Nat) (t : Thread) : Prop :=
      s.ownGroup w = some g ∧ row s w l t < 128 ∧ col s w l t < 96 ∧ tile s w l t < g.ntiles ∧ col s w l t % n = 0
    let at_ (s : State) (w : Wave) (l : Nat) (t : Thread) : Nat := 96 * row s w l t + col s w l t
    let words (s : State) (w : Wave) (l : Nat) (t : Thread) : List Word :=
      (List.range n).map fun k => sget 0 (g.tile (tile s w l t)) (at_ s w l t + k)
    -- an open operation writes the tile, or reads an element of the position that another thread has changed
    let open_ (o : TicketOp) (s : State) (w : Wave) (l : Nat) (t : Thread) : Prop :=
      o.kind.writesTile (tile s w l t) = true ∨ (o.kind.usesTile (tile s w l t) = true
        ∧ ∃ x ∈ o.tileOld, at_ s w l t ≤ x.at_ ∧ x.at_ < at_ s w l t + n ∧ (x.wave ≠ w.id ∨ x.lane ≠ l))
    let reads (value : Option (List Word)) (s : State) (w : Wave) (l : Nat) (t : Thread) : State × Thread :=
      (s.fresh, (t.pend s.nextId w.seq f.la.toNat n f.d.reg (.aread (tile s w l t) (row s w l t) (col s w l t) (words s w l t)) value).past f)
    let writes (s : State) (w : Wave) (l : Nat) (t : Thread) (ws : List Word) : Workgroup :=
      ({ g with ops := g.ops.map fun (o : TicketOp) => o.tileChanges w.id l (tile s w l t) (at_ s w l t) (words s w l t) }).setTile (tile s w l t)
        (((List.range n).zip ws).foldl (fun (x : Sparse Word) (p : Nat × Word) => sset 0 x (at_ s w l t + p.1) p.2) (g.tile (tile s w l t)))
    let given (s : State) (w : Wave) (l : Nat) (t : Thread) : List Word := if n = 1 then [read32 s w l t f f.b] else readRun t f.b n
    Completes (.aread f) .user (shapeAread f) f
      (fun s w l t => ok s w l t ∧ t.pending.length < 8 ∧ ∀ o ∈ g.ops, ¬open_ o s w l t)
      (fun s w l t => reads (some (words s w l t)) s w l t)
    ∧ Completes (.aread f) .user (shapeAread f) f
      (fun s w l t => ok s w l t ∧ t.pending.length < 8 ∧ ∃ o ∈ g.ops, open_ o s w l t)
      (fun s w l t => reads none s w l t)
    ∧ Completes (.awrite f) .user (shapeAwrite f) f
      (fun s w l t => ok s w l t ∧ ∀ o ∈ g.ops, o.kind.writesTile (tile s w l t) = false)
      (fun s w l t => (s.setWg (writes s w l t (given s w l t)), t.past f))
    ∧ Completes (.awrite f) .user (shapeAwrite f) f
      (fun s w l t => ok s w l t ∧ ∃ o ∈ g.ops, o.kind.writesTile (tile s w l t) = true)
      (fun s w l t => (State.setWg { s with draws := s.draws + n }
        (writes s w l t (openWords s.draws (given s w l t) (words s w l t))), t.past f))
    ∧ Completes (.ptread f) .user (shapePtread f) f
      (fun s w l t => s.ownGroup w = some g ∧ g.hasPaths = true ∧ a s w l t < 128 ∧ t.pending.length < 8)
      (fun s w l t =>
        let v := sget 0 g.traces (a s w l t)
        (s.fresh, (t.pend s.nextId w.seq f.la.toNat 1 f.d.reg (.ptread (a s w l t) v)
          (if g.ops.any fun o => o.kind.writesPaths then none else some [v])).past f))

/-- R270, R271, R349, R350: KNOCK gives heavy tokens back at once and asks for them by a park, which KNOCK_GRANT ends; TOKEN_GRANT
gives a pane a MAT token, and TOKEN_IDLE_RETURN takes back one that was idle for 1,024 clk. -/
def Obligations.Tokens : Prop :=
  (∀ (f : Fields) (g : Workgroup) (cls k : Nat), cls < 3 →
    let asks (s : State) (w : Wave) (l : Nat) (t : Thread) : Prop :=
      s.ownGroup w = some g ∧ (read32 s w l t f f.a).toNat = cls ∧ (read32 s w l t f f.b).toNat = k ∧ 0 < k ∧ k ≤ 8
    Completes (.knock f) .user (shapeDAB f 1) f (fun s w l t => asks s w l t ∧ f.m.getLsbD 0 = true ∧ k ≤ g.tokens cls)
      (fun s _ _ t => ({ s.setWg (g.setTokens cls (g.tokens cls - k)) with power := s.power.setOut cls (s.power.out cls - k) },
        (t.result f.d.reg [BitVec.ofNat 32 (g.tokens cls - k)]).past f))
    ∧ Completes (.knock f) .user (shapeDAB f 1) f (fun s w l t => asks s w l t ∧ f.m.getLsbD 0 = false ∧ g.tokens cls + k ≤ 8)
      (fun s _ _ t => (s.fresh, t.park (.knock cls k s.nextId f.d.reg) f)))
  ∧ (∀ (s : State) (die core slot lane : Nat) (w : Wave) (g : Workgroup) (t : Thread) (cls b o : Nat) (d : Option Nat) (len : Nat),
      s.waveAt (32 * die + core) slot = some w → s.wg? w.wg = some g → w.threads[lane]? = some t →
      t.run = .parked (.knock cls b o d) len →
      let granted : State := { s.setWg (g.setTokens cls (g.tokens cls + b)) with power := s.power.setOut cls (s.power.out cls + b) }
      (g.tokens cls + b ≤ 8 → s.power.stopped = false → s.power.out cls + b ≤ s.power.limit cls →
        exec (.knockGrant die core slot lane) s = .next (granted.setWave { w with threads := w.threads.map fun t => match t.run with
          | .parked (.knock _ _ x d) len => if x = o then
              { t.result (t.stillHeld d) [BitVec.ofNat 32 (g.tokens cls + b)] with run := .running }.advance len else t
          | _ => t }))
      ∧ (g.tokens cls + b ≤ 8 → s.power.stopped = true ∨ s.power.limit cls < s.power.out cls + b →
        exec (.knockGrant die core slot lane) s = .next s)
      ∧ (8 < g.tokens cls + b →
        exec (.knockGrant die core slot lane) s = .next (s.setWave { w with threads := w.threads.map fun t => match t.run with
          | .parked (.knock _ _ x _) _ => if x = o then { t with run := .running }.fault .illegal 7 w.seq else t
          | _ => t })))
  ∧ (∀ (s : State) (die core pane : Nat),
      let c := 32 * die + core
      let served : Prop := s.power.stopped = false ∧ s.power.matOut < s.power.matLimit ∧ s.requestsToken c pane = true
        ∧ ∀ x ∈ s.tokenCores, (c + 256 - s.power.nextCore) % 256 ≤ (x + 256 - s.power.nextCore) % 256
      (served → exec (.tokenGrant die core pane) s = .next
        { s.setCore c ((s.core c).setStock pane { since := [s.clk] }) with
          power := { s.power with matOut := s.power.matOut + 1, nextCore := (c + 1) % 256 } })
      ∧ (¬served → exec (.tokenGrant die core pane) s = .next s))
  ∧ ∀ (s : State) (die core pane x : Nat) (xs : List Nat), ((s.core (32 * die + core)).stock pane).since = x :: xs →
      (x + 1024 ≤ s.clk → exec (.tokenIdleReturn die core pane) s = .next
        { s.setCore (32 * die + core) ((s.core (32 * die + core)).setStock pane { since := xs }) with
          power := { s.power with matOut := s.power.matOut - 1 } })
      ∧ (s.clk < x + 1024 → exec (.tokenIdleReturn die core pane) s = .next s)

/-! ## Conversions through format slots, quantisation, node addresses -/

/-- R196, R197: CVT converts one element and CVTP a pair through a format slot, and both raise ILLEGAL where the slot or
an index does not allow it; an element replaced in a word leaves the other bits. -/
def Rules.SlotConversions : Prop :=
  let slot (f : Fields) (s : State) (w : Wave) : Word := formatSlot s w (f.m.toNat % 8)
  let src (f : Fields) (s : State) (w : Wave) : Nat := (slot f s w).toNat % 16
  let dst (f : Fields) (s : State) (w : Wave) : Nat := (slot f s w).toNat / 256 % 16
  let rnd (f : Fields) (s : State) (w : Wave) : Nat := (slot f s w).toNat / 4096 % 8
  let sat (f : Fields) (s : State) (w : Wave) : Bool := (slot f s w).getLsbD 15
  let es (f : Fields) : Nat := f.m.toNat / 8 % 4
  let ed (f : Fields) : Nat := f.m.toNat / 32 % 4
  let inside (f : Fields) (s : State) (w : Wave) : Prop :=
    es f * fmtBits (src f s w) + fmtBits (src f s w) ≤ 32 ∧ ed f * fmtBits (dst f s w) + fmtBits (dst f s w) ≤ 32
  let pair (f : Fields) (s : State) (w : Wave) : Prop :=
    src f s w = 0 ∧ rnd f s w < 4 ∧ dst f s w ≠ 0
      ∧ (fmtBits (dst f s w) = 16 → f.c = Src.none ∧ f.m.getLsbD 3 = false) ∧ (fmtBits (dst f s w) ≠ 16 → f.c ≠ Src.none)
  let code (f : Fields) (s : State) (w : Wave) (x : Word) : Nat :=
    fmtEncode (dst f s w) (Mode.ofCode (rnd f s w)) (sat f s w) 0 (f32 x)
  ∀ f,
    Completes (.cvt f) .user (shapeCvt f) f (fun s w _ _ => inside f s w) (fun s w l t =>
      let n := fmtBits (src f s w)
      let x := fmtDecode (src f s w) ((read32 s w l t f f.a).toNat / 2 ^ (es f * n) % 2 ^ n)
      let salt := (read32 s w l t f f.b).toNat * 2 ^ 32
        + (((s.wg? w.wg).map s.linearWg).getD 0 * 2048 + w.index * 32 + l) * 4 + ed f
      (s, (t.result f.d.reg [withElement (dst f s w) (ed f)
        (fmtEncode (dst f s w) (Mode.ofCode (rnd f s w)) (sat f s w) (rsrBits (seedOf s w) salt) x)
        (read32 s w l t f f.c)]).past f))
    ∧ (∀ s w lane t, Issues .user (shapeCvt f) f s w lane t → ¬ inside f s w →
        exec (.cvt f) s = .next ((s.counted w).setThread w.id lane (t.fault .illegal 7 (w.seq + 1))))
    ∧ Completes (.cvtp f) .user (shapeCvtp f) f (fun s w _ _ => pair f s w) (fun s w l t =>
        let ea := code f s w (read32 s w l t f f.a)
        let eb := code f s w (read32 s w l t f f.b)
        let h := if f.m.getLsbD 3 then 2 else 0
        let v : Word :=
          if fmtBits (dst f s w) = 16 then BitVec.ofNat 32 (ea + 65536 * eb)
          else withElement (dst f s w) (h + 1) eb (withElement (dst f s w) h ea (read32 s w l t f f.c))
        (s, (t.result f.d.reg [v]).past f))
    ∧ (∀ s w lane t, Issues .user (shapeCvtp f) f s w lane t → ¬ pair f s w →
        exec (.cvtp f) s = .next ((s.counted w).setThread w.id lane (t.fault .illegal 7 (w.seq + 1))))
    ∧ ∀ (fmt i v : Nat) (x : Word) (k : Nat), k < 32 →
        (withElement fmt i v x).getLsbD k =
          if i * fmtBits fmt ≤ k ∧ k < i * fmtBits fmt + fmtBits fmt then v.testBit (k - i * fmtBits fmt) else x.getLsbD k

/-- R77: the scale of a block: 0xFF with every code NaR where an element is NaN; otherwise 127 more than the exponent E of
its largest finite magnitude, kept within -127 and 127, and 127 where nothing finite is nonzero. -/
def Rules.BlockScales : Prop :=
  ∀ xs : List Word,
    let mag (x : Word) : FVal := f32 (x &&& 0x7FFFFFFF)
    let finite (x : Word) : Prop := (x &&& 0x7FFFFFFF).toNat < 0x7F800000
    let nan (x : Word) : Prop := 0x7F800000 < (x &&& 0x7FFFFFFF).toNat
    let e : Int := (blockScale xs : Int) - 127
    ((∃ x ∈ xs, nan x) → blockScale xs = 255 ∧ ∀ fs u x, blockCode fs 255 u x = 2 ^ (if fs.toNat / 256 % 16 = 3 then 7 else 5))
    ∧ ((∀ x ∈ xs, ¬ nan x) →
      blockScale xs ≤ 254
      ∧ (∀ x ∈ xs, finite x → (mag x).lt ((FVal.fin false 1 0).scale (e + 1)) = true)
      ∧ ((∃ x ∈ xs, finite x ∧ (FVal.fin false 0 0).lt (mag x) = true) → e = -127 ∨ ∃ x ∈ xs, finite x ∧ (mag x).lt ((FVal.fin false 1 0).scale e) = false)
      ∧ ((∀ x ∈ xs, finite x → (FVal.fin false 0 0).lt (mag x) = false) → e = 0))

/-- R278, R279: QBLK quantises the values of its participating threads as one block and gives each thread its codes and
the scale; QRES of one thread, with no earlier read of its wave outstanding (R115), adds its residuals first and queues the new ones as a
store of its wave, where no other wave has written those elements (R79). -/
def Rules.Quantisation : Prop :=
  let slotOk (f : Fields) (s : State) (w : Wave) : Prop :=
    let fs := formatSlot s w (f.m.toNat % 8)
    fs.toNat % 16 = 0 ∧ (fs.toNat / 256 % 16 = 3 ∨ fs.toNat / 256 % 16 = 4)
  let out (f : Fields) (s : State) (w : Wave) (l : Nat) (t : Thread) (scale : Nat) (xs : List Word) : Thread :=
    t.result f.d.reg [BitVec.ofNat 32 (leNat ((threadCodes f s w l t scale xs).map (BitVec.ofNat 8))), BitVec.ofNat 32 scale]
  (∀ f s w lanes, Group .user (shapeQuant f .none) f s w lanes → slotOk f s w →
    let sh := shapeQuant f .none
    let v := w.issued s sh f
    let on := w.clearLanes sh f lanes
    let values (l : Nat) : List Word := ((v.threads[l]?).map (quantValues f s v l)).getD []
    exec (.qblk f) s = .next (s.setWave (w.mapLanes lanes (laneAfter sh f s w (fun t => t.off sh f)
      fun l t => (out f s v l t (blockScale (on.flatMap values)) (values l)).past f))))
  ∧ (∀ f s w lanes, Group .user (shapeQuant f .none) f s w lanes → ¬ slotOk f s w →
    exec (.qblk f) s = .next (s.setWave (w.mapLanes lanes (laneAfter (shapeQuant f .none) f s w
      (fun t => t.off (shapeQuant f .none) f) fun l t =>
        match w.threads[l]? with
        | some x => x.fault .illegal 7 (w.seq + 1)
        | none => t))))
  ∧ (∀ f s w lane t g off, Issues .user (shapeQuant f .s32) f s w lane t → slotOk f s w → t.acquiring = false → t.due = none →
    w.readsBefore (w.seq + 1) 0 = [] →
    let v := (w.issued s (shapeQuant f .s32) f).counted
    let i := t.issued s (shapeQuant f .s32) f
    residualAt f s v lane i = .ok (g, off) → s.wg? g.id = some g →
    (∀ k, k < (if f.m.getLsbD 3 then 4 else 1) → sget 0 g.residuals (off / 4 + k) = 0 ∨ sget 0 g.residuals (off / 4 + k) = w.id + 2) →
    let fs := formatSlot s w (f.m.toNat % 8)
    let xs := residualValues f s v lane i
    let scale := blockScale xs
    let cs := threadCodes f s v lane i scale xs
    let u := s.counted w
    let a := u.accessOf w.counted lane none none (.vault g.id off (bytesOf ((xs.zip cs).map fun p => newResidual fs scale p.2 p.1)))
    exec (.qres f) s = .next (((u.queueTo w.id { a with residual := true }).modWg g.id fun g =>
      g.markResiduals w.id (off / 4) xs.length).setThread w.id lane ((out f s v lane i scale xs).past f)))

/-- R255, R287: NODEA gives the address of a node record, and raises ILLEGAL for a zero pitch, its reserved bits, a node
that its level does not have, or in a workgroup without path traces. -/
def Rules.NodeAddresses : Prop :=
  ∀ f,
    let sd (s : State) (w : Wave) (l : Nat) (t : Thread) : Nat := (read32 s w l t f f.b).toNat / 256 * 64
    let lv (s : State) (w : Wave) (l : Nat) (t : Thread) : Nat := (read32 s w l t f f.b).toNat % 32
    let c (s : State) (w : Wave) (l : Nat) (t : Thread) : Nat := (read32 s w l t f f.c).toNat
    let good (s : State) (w : Wave) (l : Nat) (t : Thread) : Prop :=
      (∃ g, s.ownGroup w = some g ∧ g.hasPaths = true) ∧ (read32 s w l t f f.b).toNat / 32 % 8 = 0 ∧ sd s w l t ≠ 0 ∧ (f.m.getLsbD 0 = false → lv s w l t ≤ 16 ∧ c s w l t < 2 ^ lv s w l t)
    Completes (.nodea f) .user (shapeNodea f) f good (fun s w l t =>
      let n := if f.m.getLsbD 0 then c s w l t else 2 ^ lv s w l t - 1 + c s w l t
      let v : DWord := read64 s w l t f f.a + BitVec.ofNat 64 (n * sd s w l t)
      (s, (t.result f.d.reg [v.extractLsb' 0 32, v.extractLsb' 32 32]).past f))
    ∧ ∀ s w lane t, Issues .user (shapeNodea f) f s w lane t →
        ¬ good (s.counted w) w.counted lane (t.issued s (shapeNodea f) f) →
        exec (.nodea f) s = .next ((s.counted w).setThread w.id lane (t.fault .illegal 7 (w.seq + 1)))

/-! ## Launches and messages -/

/-- R178, R335: LAUNCH of a record that its thread may read to a queue that its grid may feed: the record enters the
queue's ring and TAIL advances, with the entry's number as the status; a full queue answers 0 with nothing queued. -/
def Rules.Launches : Prop :=
  ∀ (f : Fields) (u : State) (pa : Nat) (leaf : DWord),
    let va (s : State) (w : Wave) (l : Nat) (t : Thread) : DWord := read64 s w l t f f.a
    let q (s : State) (w : Wave) (l : Nat) (t : Thread) : Nat := (read32 s w l t f f.b).toNat
    let may (s : State) (w : Wave) (l : Nat) (t : Thread) : Prop :=
      (va s w l t).toNat % 256 = 0 ∧ q s w l t < 64 ∧ t.acquiring = false
      ∧ s.translate w l t .r (va s w l t) = (u, .ok pa leaf) ∧ u.ownDram pa = true
      ∧ u.released w.id l w.seq .pkg 7 = true ∧ u.launchTurn (s.partOfWave w) (q s w l t) w l = true ∧ poisonSeen u.poison pa 256 [] = none
    let room (w : Wave) (k : Queue) : Prop :=
      k.ufeed = true ∧ k.en = true ∧ (k.tail - k.head).toNat < 2 ^ k.depth ∧ u.changing (u.partOfWave w) = false
    let nb (s : State) (w : Wave) (l : Nat) (t : Thread) : Option DWord :=
      if f.form = .f128 then some (read64 s w l t f f.e) else none
    Completes (.launch f) .user (shapeLaunch f) f
      (fun s w l t => may s w l t ∧ room w (u.queue (u.partOfWave w) (q s w l t))
        ∧ s.queue (s.partOfWave w) (q s w l t) = u.queue (u.partOfWave w) (q s w l t) ∧ s.partOfWave w = u.partOfWave w)
      (fun s w l t =>
        let part := u.partOfWave w
        let k := u.queue part (q s w l t)
        let v := State.poke { u.readDone pa 256 with
            launched := u.launched ++ [
              { part := part, queue := q s w l t, place := (w.core * 64 + w.slot) * 32 + l, d := f.d.reg, pc := (t.past f).pc }] } 0 (k.ring.toNat + 256 * (k.tail.toNat % 2 ^ k.depth)) (u.peek pa 256) none
        (v.setQueue part (q s w l t) { k with
            tail := k.tail + 1
            appended := k.appended ++ [
              { level := .user, launcher := if w.kind = .user then some w.wg else none, notBefore := nb s w l t,
                latchLast := none, killed := false }] },
          (t.result f.d.reg [0x80000000 + k.tail.zeroExtend 32]).past f))
    ∧ Completes (.launch f) .user (shapeLaunch f) f
      (fun s w l t => may s w l t ∧ (u.queue (u.partOfWave w) (q s w l t)).full = true ∧ s.partOfWave w = u.partOfWave w
        ∧ (t.level = .user → (s.queue (s.partOfWave w) (q s w l t)).ufeed = true))
      (fun _ _ _ t => (u, (t.result f.d.reg [0]).past f))
    ∧ FaultsOn (.launch f) .user (shapeLaunch f) f (fun s w l t =>
        if (va s w l t).toNat % 256 ≠ 0 then some (.illegal, 7)
        else if 64 ≤ q s w l t ∨ (t.level = .user ∧ (s.queue (s.partOfWave w) (q s w l t)).ufeed = false) then some (.permission, 0)
        else none)

/-- R179: AMSEND queues its message in its wave's store queue; it raises PERMISSION for a core that it may not name and
ILLEGAL in a handler (R31). -/
def Rules.MessagesSent : Prop :=
  ∀ f,
    let a (s : State) (w : Wave) (l : Nat) (t : Thread) : Nat := (read32 s w l t f f.a).toNat
    let pkg (s : State) (w : Wave) (l : Nat) (t : Thread) : Nat := a s w l t / 256 % 32
    let named (s : State) (w : Wave) (l : Nat) (t : Thread) : Prop :=
      a s w l t < 8192 ∧ (pkg s w l t = s.system.pkgid → a s w l t / 32 % 8 ∈ s.dieSet (s.partOfWave w))
      ∧ (pkg s w l t ≠ s.system.pkgid → ∃ j, (s.partition (s.partOfWave w)).job = some j ∧ pkg s w l t ∈ j.packages)
    let handler (w : Wave) : Prop := ∃ e p, w.kind = .handler e p
    Completes (.amsend f) .user (shapeAmsend f) f (fun s w l t => ¬ handler w ∧ named s w l t ∧ t.acquiring = false)
      (fun s w l t =>
        let entry := (s.entryOfWave w).map fun e => e.id
        let msg : Message :=
          { id := s.nextId, pkg := pkg s w l t, core := a s w l t % 256, handler := read64 s w l t f f.b,
            payload := readRun t f.c (f.m.toNat / 8 % 64 + 1)
            notBefore := if f.form = .f128 then some (read64 s w l t f f.e) else none
            entry := entry, srcPkg := s.system.pkgid, part := s.partOfWave w, wave := w.id, lane := l }
        let u := match entry with
          | some e => if pkg s w l t = s.system.pkgid then s.modEntry e fun x => { x with messages := x.messages + 1 } else s
          | none => s
        (u.fresh.enqueue w l (if f.m.getLsbD 2 then some { scope := .pkg, mask := 1#3 <<< (f.m.toNat % 4) } else none) none
          (.message msg (Route.ofCode (f.m.toNat % 4))), t.past f))
    ∧ (∀ s w lane t, Issues .user (shapeAmsend f) f s w lane t →
        (handler w → exec (.amsend f) s = .next ((s.counted w).setThread w.id lane (t.fault .illegal 7 (w.seq + 1))))
        ∧ (¬ handler w → ¬ named (s.counted w) w.counted lane (t.issued s (shapeAmsend f) f) →
          exec (.amsend f) s = .next ((s.counted w).setThread w.id lane (t.fault .permission 0 (w.seq + 1)))))

/-- R31, R179, R180: ACTIVE_MESSAGE_ARRIVE puts a message into its core's queue of 16, or stalls its sender at a full one;
HANDLER_START starts the oldest as a one-wave workgroup in slot 63 with 8 blocks, its payload in every thread. -/
def Rules.Handlers : Prop :=
  (∀ (s : State) (id : Nat) (a : Access1) (m : Message) (route : Route),
    (s.net.find? fun x => x.id = id) = some a → a.work = .message m route → a.sent = none → s.pathClear a = true →
    m.pkg = s.system.pkgid → m.srcPkg = s.system.pkgid →
    let c := s.core m.core
    let e := exec (.activeMessageArrive id) s
    (c.messages.length < 16 → e = .next ((((s.setCore m.core { c with messages := c.messages ++ [m] }).landed id)).modThread
      m.wave m.lane fun t => match t.run with
        | .parked (.amsend k) _ => if k = m.id then { t with run := .running } else t
        | _ => t))
    ∧ (16 ≤ c.messages.length → e = .next (s.modThread m.wave m.lane fun t => match t.run with
        | .running => { t with run := .parked (.amsend m.id) 0 }
        | _ => t)))
  ∧ (∀ (s : State) (die core : Nat) (m : Message) (ms : List Message), die < 8 → core < 32 →
    (s.core (32 * die + core)).messages = m :: ms → m.srcPkg = s.system.pkgid → m.payload.length ≤ 64 →
    (∀ w ∈ s.waves, ¬ (w.core = 32 * die + core ∧ w.slot = 63)) → (m.notBefore.getD 0).toNat ≤ s.pcc.toNat →
    ∃ w, exec (.handlerStart die core) s = .next { (s.setCore (32 * die + core) { s.core (32 * die + core) with messages := ms }).fresh with
        waves := s.waves ++ [w] }
      ∧ w.core = 32 * die + core ∧ w.slot = 63 ∧ w.kind = .handler m.entry m.part ∧ w.blocks = 8 ∧ w.threads.length = 32
      ∧ ∀ (l : Nat) (t : Thread), w.threads[l]? = some t → t.pc = m.handler ∧ t.level = .user ∧ t.run = .running
        ∧ ∀ j, j < 64 → t.reg j = m.payload.getD j 0)

/-! ## Control registers -/

/-- R202: the level at which each register number is reached; a number that no map assigns has none. -/
def Rules.RegisterLevels : Prop :=
  let among (l : List (Nat × Nat)) (n : Nat) : Prop := ∃ r ∈ l, r.1 ≤ n ∧ n ≤ r.2
  ∀ n, (csrLevel n = some .super ↔ among [(0x300, 0x30A), (0x320, 0x323), (0x354, 0x355), (0x3C0, 0x3C2), (0x3D0, 0x3D2),
        (0x3E0, 0x3E8), (0x3ED, 0x3F5)] n)
    ∧ (csrLevel n = some .sys ↔ among [(0x310, 0x31A), (0x324, 0x324), (0x330, 0x33A), (0x340, 0x344), (0x350, 0x353),
        (0x356, 0x359), (0x360, 0x365), (0x3E9, 0x3EC)] n)
    ∧ csrLevel n ≠ some .user

/-- R202, R373: CSRR pushes a register's value and CSRW the value it replaces, writing b, o | b or o & ~b; both check the
number and the level. The registers of a trap set are the executing thread's own. -/
def Rules.ControlRegisters : Prop :=
  let a (f : Fields) (s : State) (w : Wave) (l : Nat) (t : Thread) : Nat := (read32 s w l t f f.a).toNat
  let bad (f : Fields) (s : State) (w : Wave) (l : Nat) (t : Thread) : Option (Cause × DWord) :=
    if 4096 ≤ a f s w l t then some (.illegal, 7)
    else match csrLevel (a f s w l t) with
      | none => some (.illegal, 7)
      | some v => if t.level.code < v.code then some (.priv, 0) else none
  let new (f : Fields) (o b : Word) : Word :=
    match f.m.toNat % 4 with
    | 0 => b
    | 1 => o ||| b
    | _ => o &&& ~~~b
  (∀ f,
    let out (s : State) (w : Wave) (l : Nat) (t : Thread) : Thread := t.result f.d.reg [csrValue s w t (a f s w l t)]
    let v (s : State) (w : Wave) (l : Nat) (t : Thread) : Word := new f (csrValue s w t (a f s w l t)) (read32 s w l t f f.b)
    let site (s : State) (w : Wave) (t : Thread) : Site :=
      { level := t.level, die := w.core / 32, core := w.core % 32, part := s.partOfWave w }
    let own (n : Nat) : Prop := (0x302 ≤ n ∧ n ≤ 0x30A) ∨ (0x312 ≤ n ∧ n ≤ 0x31A)
    Completes (.csrr f) .super (shapeDA f 0) f (fun s w l t => bad f s w l t = none) (fun s w l t => (s, (out s w l t).past f))
    ∧ FaultsOn (.csrr f) .super (shapeDA f 0) f (bad f)
    ∧ FaultsOn (.csrw f) .super (shapeCsrw f) f (bad f)
    ∧ Completes (.csrw f) .super (shapeCsrw f) f (fun s w l t => bad f s w l t = none ∧ own (a f s w l t)) (fun s w l t =>
        (s, ((out s w l t).past f).csrWrite (a f s w l t) (v s w l t)))
    ∧ Completes (.csrw f) .super (shapeCsrw f) f
        (fun s w l t => bad f s w l t = none ∧ ¬ own (a f s w l t) ∧ a f s w l t ≠ 0x320 ∧ a f s w l t ≠ 0x321
          ∧ (a f s w l t = 0x3E4 → t.acquiring = false ∧ s.released w.id l w.seq .sys 7 = true))
        (fun s w l t => (s.csrWrite (site s w t) (some (s.partOfWave w)) (a f s w l t) (v s w l t), (out s w l t).past f))
    ∧ Completes (.csrw f) .super (shapeCsrw f) f
        (fun s w l t => bad f s w l t = none ∧ (a f s w l t = 0x320 ∨ a f s w l t = 0x321) ∧ (s.ownGroup w).isSome) (fun s w l t =>
        (s.modWg w.wg fun g =>
            if a f s w l t = 0x321 then { g with dbgHalt := (v s w l t).getLsbD 0 }
            else
              { g with
                impOvf := g.impOvf && !(v s w l t).getLsbD 7, matrixCheck := g.matrixCheck && !(v s w l t).getLsbD 1,
                scopeMiss := g.scopeMiss && !(v s w l t).getLsbD 0 },
          (out s w l t).past f)))
  ∧ (∀ (s : State) (w : Wave) (t : Thread) (k : Bool) (x : TrapSet) (i : Nat), x = (if k then t.sys else t.super) →
      let base := if k then 0x310 else 0x300
      csrValue s w t (base + 2) = x.epc.extractLsb' 0 32 ∧ csrValue s w t (base + 3) = x.epc.extractLsb' 32 32
      ∧ csrValue s w t (base + 4) = BitVec.ofNat 32 (x.inTrap.toNat * 2 ^ 31 + x.plev.toNat * 2 ^ 10 + x.imp.toNat * 2 ^ 8 + x.code.toNat)
      ∧ csrValue s w t (base + 5) = x.eval.extractLsb' 0 32 ∧ csrValue s w t (base + 6) = x.eval.extractLsb' 32 32
      ∧ (i < 4 → csrValue s w t (base + 7 + i) = x.esav.getD i 0))
  ∧ ∀ (t : Thread) (k : Bool) (v : Word), 
      let base := if k then 0x310 else 0x300
      let x (t : Thread) : TrapSet := if k then t.sys else t.super
      let y (n : Nat) : TrapSet := x (t.csrWrite (base + n) v)
      (y 2).epc = (x t).epc.extractLsb' 32 32 ++ v ∧ (y 3).epc = v ++ (x t).epc.extractLsb' 0 32
      ∧ (y 5).eval = (x t).eval.extractLsb' 32 32 ++ v ∧ (y 6).eval = v ++ (x t).eval.extractLsb' 0 32
      ∧ y 4 = { x t with inTrap := v.getLsbD 31, plev := v.extractLsb' 10 2, imp := v.getLsbD 8, code := v.extractLsb' 0 8 }
      ∧ ∀ n, (t.csrWrite (base + n) v).regs = t.regs ∧ (t.csrWrite (base + n) v).pc = t.pc
        ∧ (t.csrWrite (base + n) v).queue = t.queue ∧ (t.csrWrite (base + n) v).level = t.level

/-- R4, R202, R337, R351, R373, R378, R411, R423, R424: a write of a register whose level the writer has: the fields that
each register takes, or the event that its write makes. -/
def Obligations.RegisterWrites : Prop :=
  ∀ (s : State) (v : Word) (x : Site), x.die < 8 → x.core < 32 → s.exists_ x.part = true → x.level = .sys →
    let e (n : Nat) := exec (.registerWrite n v x) s
    let p := s.partition x.part
    let d := s.die x.die
    let k := 32 * x.die + x.core
    let c := s.core k
    let pw := s.power
    let part (q : Partition) : Host.Outcome State Fault Refusal := .next (s.setPartition x.part q)
    let die (q : Die) : Host.Outcome State Fault Refusal := .next (s.setDie x.die q)
    let core (q : Core) : Host.Outcome State Fault Refusal := .next (s.setCore k q)
    let reserved : DWord := ~~~0x1E#64
    e 0x300 = part { p with tvec := (p.tvec.extractLsb' 32 32 ++ v) &&& reserved }
    ∧ e 0x301 = part { p with tvec := (v ++ p.tvec.extractLsb' 0 32) &&& reserved }
    ∧ e 0x310 = .next { s with tvec := (s.tvec.extractLsb' 32 32 ++ v) &&& reserved }
    ∧ e 0x311 = .next { s with tvec := (v ++ s.tvec.extractLsb' 0 32) &&& reserved }
    ∧ e 0x331 = die { d with mcsel := v.toNat % 256 } ∧ e 0x33A = die { d with cecnt := v }
    ∧ e 0x342 = die { d with rslpEn := v.getLsbD 31, rslpIdle := max 64 (v.toNat % 65536) }
    ∧ e 0x343 = .next { s with system := { s.system with drshare := max 1 (min 16 (v.toNat % 64)) } }
    ∧ e 0x359 = .next { s with power := { pw with throt := min 110 (v.toNat / 65536 % 256) } }
    ∧ e 0x360 = .next { s with system := { s.system with snapPod := v.getLsbD 1, snapExt := v.getLsbD 0 } }
    ∧ e 0x363 = die { d with snapsel := v &&& 0x1FFF }
    ∧ e 0x3C0 = core { c with mchkctl := v &&& 0xF06 } ∧ e 0x3C1 = core { c with mchkcnt := v } ∧ e 0x3C2 = core { c with mchkmis := v }
    ∧ e 0x3D0 = die { d with xrloc := v } ∧ e 0x3D1 = die { d with xrrem := v } ∧ e 0x3F5 = die { d with walkcnt := v }
    ∧ e 0x3E0 = part { p with qsel := v.toNat % 64 }
    ∧ e 0x3EB = .next { s with power := { pw with cap := min 4800 (v.toNat % 8192) } }
    ∧ (∃ q : Power, e 0x3E9 = .next { s with power := q } ∧ q.matSize = min 1024 (v.toNat % 2048) ∧ q.matLimit = min pw.matLimit q.matSize)
    ∧ e 0x340 = exec (.slcfgWrite x.die v) s ∧ e 0x341 = exec (.slmapWrite x.die v) s ∧ e 0x350 = exec (.partctlGo v none) s
    ∧ e 0x355 = exec (.fptsetSelect v) s ∧ e 0x354 = exec (.fptsetWrite v .sys) s
    ∧ (∀ n, n = 0x356 ∨ n = 0x357 → e n = exec (.pphalWrite x.part n v) s)
    ∧ e 0x3E1 = exec (.qcfgWrite x.part p.qsel v) s ∧ e 0x3E4 = exec (.qdoorWrite x.part p.qsel v .sys) s
    ∧ (∀ n, 0x3E5 ≤ n → n ≤ 0x3E8 → e n = exec (.qringWrite x.part p.qsel n v) s)
    ∧ (∀ n, n = 0x3EE ∨ n = 0x3EF → e n = exec (.qphalWrite x.part p.qsel n v) s)
    ∧ (∀ n, n = 0x3F0 ∨ n = 0x3F1 → e n = exec (.qrootWrite x.part p.qsel n v) s)
    ∧ (∀ n, n = 0x3F2 ∨ n = 0x3F3 → e n = exec (.srootWrite x.part n v) s)
    ∧ e 0x3ED = (if v.getLsbD 31 then exec (.preqKill x.part (v.toNat / 65536 % 64) (v.toNat % 65536)) s
        else exec (.preqSave x.part (v.toNat / 65536 % 64) (v.toNat % 65536)) s)
    ∧ (∀ n, n ∈ [0x330, 0x344, 0x351, 0x352, 0x358, 0x361, 0x362, 0x364, 0x365, 0x3D2, 0x3EC, 0x3F4] → e n = .next s)

/-! ## Translation -/

/-- R81, R83, R357, R360, R361, R362: what a thread's access through its TLBs gives: the canonical and upper-half checks
before any entry is looked at, then the grants of the leaf and the frame that a large leaf maps (DEDUCED log 23), then its
PSN bit. -/
def Rules.TranslationChecks : Prop :=
  ∀ (s : State) (core tag : Nat) (level : Level) (n : Need) (va : DWord),
    let top := va.toNat / 2 ^ 54
    let out := s.lookupVa core tag level n va
    (top ≠ 0 → top ≠ 1023 → out = .fault .translation)
    ∧ (top = 1023 → level = .user → out = .fault .permission)
    ∧ ((top = 0 ∨ (top = 1023 ∧ level ≠ .user)) → (s.core core).tlb = [] → (s.die (core / 32)).tlb = [] → out = .miss)
    ∧ ((top = 0 ∨ (top = 1023 ∧ level ≠ .user)) → ∀ x, (s.core core).tlb = [x] → x.va = va.toNat / 2 ^ (42 - 13 * x.level) →
        (x.tag = none ∨ (top = 0 ∧ x.tag = some tag)) →
        let span := 2 ^ (42 - 13 * x.level)
        let pa := x.leaf.toNat / 65536 % 2 ^ 36 * 65536 / span * span + va.toNat % span
        let space := pa / 2 ^ 44 % 8
        let grant := match n with
          | .r | .window => x.leaf.getLsbD 2
          | .w => x.leaf.getLsbD 3
          | .rw => x.leaf.getLsbD 2 && x.leaf.getLsbD 3
          | .x => x.leaf.getLsbD 4
        let bad : Prop := 4 ≤ space ∨ (space = 0 ∧ 576 * 2 ^ 30 ≤ pa % 2 ^ 44)
        let shut : Prop := grant = false ∨ (level = .user ∧ x.leaf.getLsbD 5 = false) ∨ (level = .user ∧ space = 2)
          ∨ (n = .window ∧ space ≠ 1)
          ∨ (x.level < 2 ∧ x.leaf.toNat / 65536 % 2 ^ 36 * 65536 / 2 ^ 47 = s.system.pkgid
            ∧ x.leaf.toNat / 65536 % 2 ^ 36 * 65536 / 2 ^ 44 % 8 = 0
            ∧ ((sget 0 s.frames (pa % 2 ^ 44 / 65536)).getLsbD 0 = false
              ∨ (sget 0 s.frames (pa % 2 ^ 44 / 65536)).toNat / 64 ≠ s.partOf (core / 32)))
        (bad → out = .fault .translation) ∧ (¬ bad → shut → out = .fault .permission)
        ∧ (¬ bad → ¬ shut → x.leaf.getLsbD 13 = true → out = .psn pa)
        ∧ (¬ bad → ¬ shut → x.leaf.getLsbD 13 = false → out = .ok pa x.leaf))

/-- R362, R365, R367: WALK_COMPLETE ends a walk: its leaf enters the TLB of the die and of the cores that asked, its fault
reaches them and is installed nowhere, and a walk that a shoot-down met installs nothing. Its reads of the tables are those of its die
(R363). -/
def Rules.WalksComplete : Prop :=
  ∀ (s : State) (die tag page : Nat) (k : Walk),
    ((s.die die).walks.find? fun x => x.busy && x.tag = tag && x.page = page) = some k →
    let va : DWord := BitVec.ofNat 64 (page * 65536)
    let d := s.die die
    let ended := s.setDie die { d with walks := d.walks.filter fun x => x ≠ k, walkcnt := d.walkcnt + 1 }
    let e := exec (.walkComplete die tag page) s
    (k.stale = true → (∀ x ∈ k.waiters, x.fill = none) → e = .next ended)
    ∧ (k.stale = false → ∀ c read, s.walk die tag k.root va = .fault c read →
        e = .next ((ended.walkReads die read).walkFault die k c none fun va => va))
    ∧ (k.stale = false → ∀ pa read, s.walk die tag k.root va = .poison pa read →
        e = .next (((ended.walkReads die read).logCheck die k.core 5 0 0 0 pa).walkFault die k .poison (some pa) fun va => va &&& ~~~31#64))
    ∧ (k.stale = false → ∀ lv leaf path read, s.walk die tag k.root va = .leaf lv leaf path read →
        ∃ t, e = .next t ∧ t.waves = s.waves
          ∧ (s.lent = [] → d.lines.length < 20000 → (∀ x ∈ k.waiters, x.fill = none) → t.mem = s.mem)
          ∧ (t.die die).tlb.head? = some {
              tag := if leaf.getLsbD 6 ∨ va.getLsbD 54 then none else some tag, level := lv,
              va := va.toNat / 2 ^ (42 - 13 * lv), leaf := leaf }
          ∧ (∀ x ∈ k.waiters, x.engine = false → (t.core x.core).tlb.head? = (t.die die).tlb.head?)
          ∧ (t.die die).walks = d.walks.filter fun x => x ≠ k)

/-- R203, R366, R367: TLBINV starts a shoot-down, and waits at issue until its release is performed; each die that receives
it drops the entries it names, and acknowledges once their accesses are performed; the arrival is made after the last. -/
def Rules.ShootDowns : Prop :=
  (∀ f l,
    let fresh (s : State) (w : Wave) (lane : Nat) (t : Thread) : Prop :=
      s.latchAt w (read32 s w lane t f f.c) = .ok l ∧ t.acquiring = false ∧ s.shootdownsOf w.id lane < 8
    Completes (.tlbinv f) .super (shapeTlbinv f) f (fun s w lane t => fresh s w lane t ∧ s.released w.id lane w.seq .pkg 7 = true)
      (fun s w lane t =>
        let part := s.partOfWave w
        let p := s.partition part
        let d : Shootdown :=
          { id := s.nextId, kind := f.m.toNat % 4, va := read64 s w lane t f f.a, tag := (read32 s w lane t f f.b).toNat,
            latch := l, wave := w.id, lane := lane, toDeliver := s.dieSet part, toAck := [] }
        (s.fresh.setPartition part { p with shootdowns := p.shootdowns ++ [d] }, t.past f))
    ∧ Waits (.tlbinv f) .super (shapeTlbinv f) f (fun s w lane t => fresh s w lane t ∧ s.released w.id lane w.seq .pkg 7 = false))
  ∧ (∀ (s : State) (part die : Nat) (d : Shootdown), s.exists_ part = true → die ∈ s.dieSet part →
      ((s.partition part).shootdowns.find? fun d => d.toDeliver.contains die) = some d →
      let names (e : TlbEntry) : Prop :=
        (d.kind = 0 ∧ (e.tag = none ∨ e.tag = some d.tag) ∧ e.va = d.va.toNat / 2 ^ (42 - 13 * e.level))
        ∨ (d.kind = 1 ∧ e.tag = some d.tag) ∨ 2 ≤ d.kind
      ∃ t, exec (.shootdownDeliver part die) s = .next t ∧ t.mem = s.mem ∧ t.waves = s.waves
        ∧ (∀ e, e ∈ (t.die die).tlb ↔ e ∈ (s.die die).tlb ∧ ¬ names e)
        ∧ (∀ c, c / 32 = die → ∀ e, e ∈ (t.core c).tlb ↔ e ∈ (s.core c).tlb ∧ ¬ names e)
        ∧ (∀ c, c / 32 ≠ die → t.core c = s.core c) ∧ (∀ k, k ≠ die → t.die k = s.die k)
        ∧ ∀ x ∈ (t.partition part).shootdowns, x.id = d.id → die ∉ x.toDeliver ∧ (die, s.throughOn die d) ∈ x.toAck)
  ∧ ∀ (s : State) (part die : Nat) (d : Shootdown) (waits : List Nat), s.exists_ part = true →
      (s.partition part).shootdowns = [d] → d.toDeliver = [] → d.toAck = [(die, waits)] →
      (∀ k ∈ (s.die die).walks, k.stale = false) → (∀ i ∈ waits, s.unperformed i = false) → s.latchSaved d.latch = false →
      s.latchStands d.latch = true →
      exec (.shootdownAck part die) s =
        .next ((s.setPartition part { s.partition part with shootdowns := [] }).arrive d.latch 1)

/-! ## The shutter -/

/-- R205, R424, R425: SNAP and the triggers schedule the smallest multiple of 1,024 above PCC, or join a pending tick; the
tick latches and stands in SNAPTICK. -/
def Rules.Shutter : Prop :=
  let next (s : State) : Nat := (s.pcc.toNat / 1024 + 1) * 1024
  let at_ (s : State) (t : Nat) : State := { s with system := { s.system with snapAt := some t } }
  let pending (s : State) (t : Nat) : Prop := s.system.snapAt = some t ∧ s.pcc.toNat < t
  let clear (s : State) : Prop := ∀ t, s.system.snapAt = some t → t ≤ s.pcc.toNat
  let push (f : Fields) (t : Thread) (n : Nat) : Thread :=
    (t.result f.d.reg [BitVec.ofNat 32 n, BitVec.ofNat 32 (n / 2 ^ 32)]).past f
  (∀ f, Completes (.snap f) .sys (shapeSnap f) f (fun s _ _ _ => clear s ∧ next s < 2 ^ 64)
      (fun s _ _ t => (at_ s (next s), push f t (next s)))
    ∧ ∀ n, Completes (.snap f) .sys (shapeSnap f) f (fun s _ _ _ => pending s n ∧ n < 2 ^ 64) (fun s _ _ t => (s, push f t n)))
  ∧ (∀ s : State, s.system.snapExt = true → next s < 2 ^ 64 →
      (clear s → exec .shutterInput s = .next (at_ s (next s)) ∧
        ∀ tick : DWord, s.pcc.toNat < tick.toNat → exec (.shutterFramingTrigger tick) s = .next (at_ s tick.toNat))
      ∧ ∀ t, pending s t → exec .shutterInput s = .next s ∧ ∀ tick : DWord, exec (.shutterFramingTrigger tick) s = .next s)
  ∧ (∀ s : State, s.system.snapExt = false →
      exec .shutterInput s = .next s ∧ ∀ tick : DWord, exec (.shutterFramingTrigger tick) s = .next s)
  ∧ ∀ (s : State) (n : Nat), s.system.snapAt = some n → n ≤ s.pcc.toNat →
      ∃ t, exec .shutterTick s = .next t ∧ t.system.snapAt = none ∧ t.system.snapTick = BitVec.ofNat 64 n
        ∧ t.mem = s.mem ∧ t.waves = s.waves
        ∧ ∀ die core, die < 8 → core < 32 → s.system.leftOut die = false →
          let item (k : Nat) : DWord := { t.die die with snapsel := BitVec.ofNat 32 (256 * core + k) }.snapdat
          item 0 = BitVec.ofNat 64 (s.core (32 * die + core)).issued ∧ item 1 = BitVec.ofNat 64 (s.core (32 * die + core)).tileSeq
          ∧ item 2 = BitVec.ofNat 64 (s.core (32 * die + core)).tokenStall
          ∧ item 3 = (s.die die).xrloc.zeroExtend 64 ∧ item 4 = (s.die die).xrrem.zeroExtend 64
          ∧ item 7 = (s.die die).walkcnt.zeroExtend 64 ∧ item 8 = BitVec.ofNat 64 s.power.avg ∧ item 10 = 0

/-! ## Windows -/

/-- R299, R300: CWARM parks and CWSTAT makes a pending result; WINDOW_ARM answers a parked CWARM: PERMISSION, BUSY, NOTOKEN,
or the next phase with its state cleared. -/
def Rules.WindowPhases : Prop :=
  (∀ (f : Fields) (u : State) (pa : Nat) (leaf : DWord) (l : LatchRef),
    Completes (.cwarm f) .user (shapeCwarm f) f
      (fun s w lane t => s.translate w lane t .window (read64 s w lane t f f.a) = (u, .ok pa leaf)
        ∧ u.latchAt w (read32 u w lane t f f.b) = .ok l ∧ paPkg pa = u.system.pkgid ∧ t.acquiring = false)
      (fun s w lane t =>
        (u.fresh, t.park (.cwarm (read64 s w lane t f f.a) (paOffset pa / 2 ^ 32) l u.nextId (u.viaOf w (read64 s w lane t f f.a)) f.d.reg) f))
    ∧ Completes (.cwstat f) .user (shapeCwstat f) f
      (fun s w lane t => s.translate w lane t .window (read64 s w lane t f f.a) = (u, .ok pa leaf) ∧ t.pending.length < 8
        ∧ paPkg pa = u.system.pkgid ∧ t.acquiring = false)
      (fun s w lane t => (u.fresh,
        (t.pend u.nextId w.seq f.la.toNat 2 f.d.reg (.cwstat (paOffset pa / 2 ^ 32) (read64 s w lane t f f.a)
          (u.viaOf w (read64 s w lane t f f.a))) none).past f)))
  ∧ (∀ k : Window, k.status = [
      BitVec.ofNat 32 ((match k.state with | .idle => 0 | .armed => 1 | .done => 2 | .failed => 3)
        + (if k.hold = [] then 0 else 4) + k.failCode % 256 * 256 + (if k.kind = 1 then min 65535 k.complete else 0) * 65536),
      BitVec.ofNat 32 k.phi])
  ∧ ∀ (s : State) (n : Nat) (w : Wave) (lane : Nat) (t : Thread) (g : Workgroup) (va : DWord) (l : LatchRef) (d : Option Nat) (len : Nat),
      s.armings n = [{ wave := w, lane := lane, thread := t, va := va, latch := l, d := d, len := len }] →
      s.waveSaving w = false → s.wg? w.wg = some g → n < 4096 → (∀ k, d = some k → k + 2 ≤ t.cut) →
      let k := s.window n
      let answer (u : State) (x : Word) (phi : Nat) : State :=
        u.setThread w.id lane (({ t.result d [x, BitVec.ofNat 32 phi] with run := .running }).advance len)
      let e := exec (.windowArm n) s
      (s.changing k.owner = false → s.mayArm (s.partOfWave w) k = false →
        e = .next (s.setThread w.id lane ({ t with run := .running }.fault .permission va w.seq)))
      ∧ (s.changing k.owner = false → s.mayArm (s.partOfWave w) k = true →
        (k.state = .armed → e = .next (answer s 1 k.phi))
        ∧ (k.state ≠ .armed → k.settled = true → k.burst = true → g.coll = 0 → e = .next (answer s 2 k.phi))
        ∧ (k.state ≠ .armed → k.settled = true → k.hold = [] → k.burst = false →
            e = .next (answer (s.setWindow n { k with
              phi := k.phi + 1, state := .armed, queue := [], running := none, suspended := [], seen := [], counters := [],
              raw := [], rawPoison := [], nodes := [], present := [], blkOps := [], latch := some l, armEntry := g.entry,
              armWg := w.wg, timer := none, sigs := [], failCode := 0, failSignal := false, stalled := [] }) 0 (k.phi + 1))))

/-! ## Imprecise reports -/

/-- R376: IMPRECISE_FAULT_TAKE gives the oldest report to the issuing wave's lowest thread that has not exited and is at
USER, at its next boundary. -/
def Rules.ImpreciseReports : Prop :=
  ∀ (s : State) (wg lane : Nat) (g : Workgroup) (r : Report) (rs : List Report) (w : Wave) (t : Thread),
    s.wg? wg = some g → g.reports = r :: rs → g.id = wg → w ∈ s.waves → (∀ x ∈ s.waves, x.id = w.id → x = w) →
    w.kind = .user → w.wg = wg → r.wave = some w.id → w.exited = false →
    w.threads[lane]? = some t → t.level = .user → t.run = .running → t.due = none → s.waveSaving w = false →
    (∀ l x, l < lane → w.threads[l]? = some x → x.run = .exited ∨ x.level ≠ .user) →
    exec (.impreciseFaultTake wg) s = .next ((s.modWg wg fun g => { g with reports := rs }).setThread w.id lane
      { t with due := some {
          cause := r.cause, epc := t.pc, eval := BitVec.ofNat 64 (r.number % 65536 + if r.descent then 65536 else 0), imp := true,
          toSys := false, seq := w.seq } })

/-! ## The collective executor -/

/-- R302, R304, R306, R307: the collective instructions of control and arithmetic. -/
def Rules.CollectiveArithmetic : Prop :=
  let values : List ((CFields → Instr) × (CFields → State → Window → Invocation → DWord)) :=
    [(.cmov, fun c s w v => collA c s w v), (.cldi, fun c _ _ _ => c.imm.signExtend 64),
      (.cadd, fun c s w v => collA c s w v + collB c v), (.csub, fun c s w v => collA c s w v - collB c v),
      (.cand, fun c s w v => collA c s w v &&& collB c v), (.cor, fun c s w v => collA c s w v ||| collB c v),
      (.cshr, fun c s w v => BitVec.ofNat 64 ((collA c s w v).toNat / 2 ^ ((collB c v).toNat % 64))),
      (.cshl, fun c s w v => BitVec.ofNat 64 ((collA c s w v).toNat * 2 ^ ((collB c v).toNat % 64))),
      (.ccmp, fun c s w v =>
        let a : DWord := collA c s w v
        let b : DWord := collB c v
        BitVec.ofNat 64 (Bool.toNat (match c.op.toNat % 8 with
          | 0 => decide (a = b)
          | 1 => decide (a ≠ b)
          | 2 => decide (a.toInt < b.toInt)
          | 3 => decide (a.toNat < b.toNat)
          | 4 => decide (b.toInt ≤ a.toInt)
          | _ => decide (b.toNat ≤ a.toNat))))]
  ∀ c : CFields,
    let target := c.imm.toNat % 256
    (∀ x ∈ values, Invokes (x.1 c) (fun _ _ _ => True) (fun s w v => (s, w, v.gives c (x.2 c s w v))))
    ∧ Invokes (.cnop c) (fun _ _ _ => True) (fun s w v => (s, w, v))
    ∧ Invokes (.cjmp c) (fun _ _ _ => True) (fun s w v => (s, w, { v with pc := target }))
    ∧ Invokes (.cbr c) (fun s w v => (collA c s w v ≠ 0) ≠ (c.op.getLsbD 0 = true)) (fun s w v => (s, w, { v with pc := target }))
    ∧ Invokes (.cbr c) (fun s w v => (collA c s w v ≠ 0) = (c.op.getLsbD 0 = true)) (fun s w v => (s, w, v))

/-- R305, R307, R315: how an invocation ends, yields or fails, and the 256 steps that it may run: the oldest suspended
invocation resumes as one ends, and the others with each that ends after it; a failed phase drops what it had accepted. -/
def Rules.InvocationEnds : Prop :=
  (∀ (c : CFields) (s : State) (n : Nat) (v : Invocation), s.cur = .executor n → (s.window n).running = some v →
    let w := s.window n
    let resumed : Window := match w.suspended with
      | [] => { w with running := none }
      | x :: xs => { w with running := some { x with due := false }, suspended := xs.map fun y => { y with due := true } }
    let yielded : Invocation := { v with pc := c.imm.toNat % 256, steps := v.steps + 1 }
    exec (.cend c) s = .next (s.setWindow n resumed)
    ∧ (c.op.getLsbD 0 = false → exec (.cdropf c) s = .next (s.setWindow n resumed))
    ∧ (c.op.getLsbD 0 = true → exec (.cdropf c) s = .next (s.failPhase n 4))
    ∧ (v.steps < 255 → w.state = .armed → v.due = false → (∀ x ∈ w.suspended, x.due = false) →
        exec (.cyield c) s = .next (s.setWindow n { w with running := none, suspended := w.suspended ++ [yielded] }))
    ∧ (∀ x xs, v.steps < 255 → w.state = .armed → w.suspended = x :: xs → x.due = true →
        exec (.cyield c) s = .next (s.setWindow n { w with running := some { x with due := false }, suspended := xs ++ [yielded] }))
    ∧ (255 ≤ v.steps → exec (.cnop c) s = .next (s.failPhase n 2) ∧ exec (.cyield c) s = .next (s.failPhase n 2)))
  ∧ ∀ (s : State) (n code : Nat), (s.window n).state = .armed → (s.window n).burst = false →
      s.failPhase n code = s.setWindow n { s.window n with
        state := .failed, failCode := code, failSignal := true, sigs := [], queue := [], running := none, suspended := [],
        late := min 65535 ((s.window n).late + (s.window n).queue.length) }

/-- R303, R304: the fragment fields, as an invocation and a timer invocation read them. -/
def Rules.FragmentFields : Prop :=
  ∀ (s : State) (w : Window) (v : Invocation),
    (v.timer = true → s.fragField w v 0 = 65535 ∧ s.fragField w v 1 = 0 ∧ s.fragField w v 2 = 0 ∧ s.fragField w v 3 = 0
      ∧ s.fragField w v 4 = 255 ∧ s.fragField w v 5 = v.phase)
    ∧ (v.timer = false → s.fragField w v 1 = v.frag.off ∧ s.fragField w v 2 = v.frag.data.length
      ∧ s.fragField w v 3 = v.frag.seq ∧ s.fragField w v 4 = v.frag.port ∧ s.fragField w v 5 = v.phase
      ∧ ∀ i, i < w.ncontrib → (∀ j, j < w.ncontrib → w.contrib j = w.contrib i → j = i) →
        w.contrib i = s.senderEntry v.frag → s.fragField w v 0 = i)

/-- R305, R308, R314: the bookkeeping instructions and CSIG, with the failures of their checks. -/
def Rules.CollectiveBookkeeping : Prop :=
  ∀ c : CFields,
    let a (s : State) (w : Window) (v : Invocation) : Nat := (collA c s w v).toNat
    let b (v : Invocation) : Nat := (collB c v).toNat
    let bit (w : Window) (a b : Nat) : Nat := a * w.nblk + b
    let all := c.op.getLsbD 0
    Invokes (.cstage c) (fun s w v => a s w v + v.frag.data.length ≤ 4096) (fun s w v =>
      (s, { w with raw := swrite w.raw (a s w v) v.frag.data, rawPoison := markRaw w.rawPoison (a s w v) v.frag.data.length v.frag.bad }, v))
    ∧ FailsPhase (.cstage c) (fun s w v => 4096 < a s w v + v.frag.data.length) 5
    ∧ Invokes (.cseen c) (fun s w v => a s w v < w.ncontrib ∧ b v < w.nblk ∧ bit w (a s w v) (b v) ∈ w.seen) (fun s w v =>
        (s, w, v.gives c 1))
    ∧ Invokes (.cseen c) (fun s w v => a s w v < w.ncontrib ∧ b v < w.nblk ∧ bit w (a s w v) (b v) ∉ w.seen) (fun s w v =>
        (s, { w with seen := bit w (a s w v) (b v) :: w.seen }, v.gives c 0))
    ∧ FailsPhase (.cseen c) (fun s w v => w.ncontrib ≤ a s w v ∨ w.nblk ≤ b v) 1
    ∧ Invokes (.cready c) (fun s w v => all = false ∧ a s w v < w.nblk) (fun s w v =>
        (s, w, v.gives c (if w.nodes.any fun x => x.blk = a s w v && x.lo = 0 && x.hi = w.ncontrib then 1 else 0)))
    ∧ Invokes (.cready c) (fun _ _ _ => all = true) (fun s w v => (s, w, v.gives c (BitVec.ofNat 64 w.complete)))
    ∧ FailsPhase (.cready c) (fun s w v => all = false ∧ w.nblk ≤ a s w v) 1
    ∧ Invokes (.ccnt c) (fun s w v => a s w v ≤ 7) (fun s w v =>
        let x := (sget 0 w.counters (a s w v) + b v) % 2 ^ 64
        (s, { w with counters := sset 0 w.counters (a s w v) x }, v.gives c (BitVec.ofNat 64 x)))
    ∧ FailsPhase (.ccnt c) (fun s w v => 7 < a s w v) 1
    ∧ Invokes (.ctime c) (fun _ _ _ => all = false) (fun s w v => (s, w, v.gives c s.pcc))
    ∧ Invokes (.ctime c) (fun _ _ _ => all = true) (fun s w v => (s, { w with timer := some (a s w v) }, v))
    ∧ Invokes (.csig c) (fun _ _ _ => True) (fun s w v => (s, { w with sigs := w.sigs ++ [(b v, all)] }, v))

/-- R309: CCOMB checks its fragment, answers 2 for a leaf that is present, and otherwise folds the contribution into its
block's tree. Two halves make their range: the left half is the largest power of two that is below its length, and the
lower range is the left operand. -/
def Obligations.CombineTree : Prop :=
  (∀ c : CFields,
    let a (s : State) (w : Window) (v : Invocation) : Nat := (collA c s w v).toNat
    let b (v : Invocation) : Nat := (collB c v).toNat
    let op := c.op.toNat % 4
    let size (w : Window) : Nat := if op = 1 then 2 * 2 ^ w.blkLog else 4 * 2 ^ w.blkLog
    let good (s : State) (w : Window) (v : Invocation) : Prop :=
      a s w v < w.ncontrib ∧ b v < w.nblk ∧ v.frag.data.length = size w ∧ ∀ o, look w.blkOps (b v) = some o → o = op
    let leaf (s : State) (w : Window) (v : Invocation) : TreeNode :=
      { blk := b v, lo := a s w v, hi := a s w v + 1, bad := badElems op v.frag.bad
        value := (List.range (2 ^ w.blkLog)).map fun i =>
          if op = 1 then BitVec.ofNat 32 (leNat ((v.frag.data.drop (2 * i)).take 2) * 65536)
          else BitVec.ofNat 32 (leNat ((v.frag.data.drop (4 * i)).take 4)) }
    FailsPhase (.ccomb c) (fun s w v => ¬ good s w v) 1
    ∧ Invokes (.ccomb c) (fun s w v => good s w v ∧ (b v, a s w v) ∈ w.present) (fun s w v => (s, w, v.gives c 2))
    ∧ Invokes (.ccomb c) (fun s w v => good s w v ∧ (b v, a s w v) ∉ w.present) (fun s w v =>
        let r := foldNode w.ncontrib op 10 w.nodes (leaf s w v)
        (s, { w with nodes := r.1, present := w.present ++ [(b v, a s w v)], blkOps := put w.blkOps (b v) op },
          v.gives c (if r.2 then 1 else 0))))
  ∧ (∀ (op n fuel : Nat) (ns : List TreeNode) (x : TreeNode), x.lo = 0 → x.hi = n → foldNode n op (fuel + 1) ns x = (ns ++ [x], true))
  ∧ (∀ (op n fuel : Nat) (ns : List TreeNode) (x y : TreeNode) (m : Nat), 1 < n → 0 < m → m < n → n ≤ 2 * m →
      (∃ k, m = 2 ^ k) → ns = [y] → y.blk = x.blk →
      (x.lo = 0 → x.hi = m → y.lo = m → y.hi = n → foldNode n op (fuel + 2) ns x =
        ([{ blk := x.blk, lo := 0, hi := n, bad := addPoison x.bad y.bad,
            value := (x.value.zip y.value).map fun e => combineElem op e.1 e.2 }], true))
      ∧ (x.lo = m → x.hi = n → y.lo = 0 → y.hi = m → foldNode n op (fuel + 2) ns x =
        ([{ blk := x.blk, lo := 0, hi := n, bad := addPoison x.bad y.bad,
            value := (y.value.zip x.value).map fun e => combineElem op e.1 e.2 }], true)))
  ∧ ∀ l r : Word, combineElem 0 l r = round32 .rne ((f32 l).add false (f32 r)) ∧ combineElem 1 l r = combineElem 0 l r
      ∧ combineElem 2 l r = fmax32 l r ∧ combineElem 3 l r = fmin32 l r

/-- R312: the output instructions: what they send, to which entries, and the failures DEST, STAGE and BADFRAG. -/
def Rules.CollectiveOutput : Prop :=
  ∀ c : CFields,
    let a (s : State) (w : Window) (v : Invocation) : Nat := (collA c s w v).toNat
    let b (v : Invocation) : Nat := (collB c v).toNat
    let i := c.imm.toNat % 8
    let src := c.op.toNat % 4
    let len := c.imm.toNat / 256 % 1024 + 1
    let root (w : Window) (b : Nat) : Option TreeNode := w.nodes.find? fun x => x.blk = b && x.lo = 0 && x.hi = w.ncontrib
    let frag (v : Invocation) : Payload := (v.frag.data, v.frag.bad)
    let staged (w : Window) (v : Invocation) : Payload := (sbytes w.raw (b v) len, badBytes w.rawPoison (b v) len)
    let ack (s : State) (w : Window) (v : Invocation) : Payload :=
      (leBytes 4 (s.fragField w v 3 % 2 ^ 32) ++ leBytes 4 (a s w v % 2 ^ 32), [])
    let full (x : TreeNode) : Payload := (bytesOf x.value, x.bad.flatMap fun e => (List.range 4).map fun i => 4 * e + i)
    let half (x : TreeNode) : Payload :=
      (x.value.flatMap fun v => leBytes 2 (bf16.encode .rne false 0 (f32 v)), x.bad.flatMap fun e => (List.range 2).map fun i => 2 * e + i)
    let fits (w : Window) (i : Nat) (kinds : List Nat) (at_ : Nat) (x : Payload) : Prop :=
      (w.dest i).kind ∈ kinds ∧ at_ + x.1.length ≤ (w.dest i).limit
    let sends (j : Instr) (kinds : List Nat) (P : State → Window → Invocation → Prop) (at_ : State → Window → Invocation → Nat)
        (x : State → Window → Invocation → Payload) : Prop :=
      Invokes j (fun s w v => P s w v ∧ fits w i kinds (at_ s w v) (x s w v)) (fun s w v =>
          let r := sendTo (match s.cur with | .executor n => n | _ => 0) i (at_ s w v) (x s w v) s w v
          (r.1, r.2, v))
      ∧ FailsPhase j (fun s w v => P s w v ∧ ¬ fits w i kinds (at_ s w v) (x s w v)) 3
    sends (.cplace c) [1, 2] (fun _ _ _ => src = 0) a (fun _ _ v => frag v)
    ∧ sends (.cplace c) [1, 2] (fun _ _ v => src = 1 ∧ b v + len ≤ 4096) a (fun _ w v => staged w v)
    ∧ FailsPhase (.cplace c) (fun _ _ v => src = 1 ∧ 4096 < b v + len) 5
    ∧ (∀ x, sends (.cplace c) [1, 2] (fun _ w v => src = 2 ∧ root w (b v) = some x) a (fun _ _ _ => full x))
    ∧ (∀ x, sends (.cplace c) [1, 2] (fun _ w v => src = 3 ∧ root w (b v) = some x) a (fun _ _ _ => half x))
    ∧ FailsPhase (.cplace c) (fun _ w v => 2 ≤ src ∧ root w (b v) = none) 1
    ∧ sends (.cfwd c) [3] (fun _ _ _ => src = 0) a (fun _ _ v => frag v)
    ∧ (∀ x, sends (.cfwd c) [3] (fun _ w v => src ≠ 0 ∧ root w (b v) = some x) a (fun _ _ _ => full x))
    ∧ FailsPhase (.cfwd c) (fun _ w v => src ≠ 0 ∧ root w (b v) = none) 1
    ∧ sends (.cack c) [3] (fun _ _ _ => True) (fun _ _ v => b v) ack
    ∧ Invokes (.cmcast c) (fun s w v => ∀ k, k < 8 → c.imm.getLsbD k = true → fits w k [1, 2, 3] (a s w v) (frag v)) (fun s w v =>
        let n := match s.cur with | .executor n => n | _ => 0
        let r := ((List.range 8).filter fun k => c.imm.getLsbD k).foldl (fun p k => sendTo n k (a s w v) (frag v) p.1 p.2 v) (s, w)
        (r.1, r.2, v))
    ∧ FailsPhase (.cmcast c) (fun s w v => ∃ k, k < 8 ∧ c.imm.getLsbD k = true ∧ ¬ fits w k [1, 2, 3] (a s w v) (frag v)) 3

/-- R291, R312, R313: what one send begins at an entry of each KIND on PATH 0: a placement in a vault with its latch, a
write of global memory, or a fragment numbered by its entry that carries the phase. -/
def Rules.PlacementsBegin : Prop :=
  ∀ (n i at_ : Nat) (x : Payload) (s : State) (w : Window) (v : Invocation), x.1 ≠ [] → (w.dest i).path = 0 →
    let d := w.dest i
    let begun (what : Placed) : State :=
      { s with nextId := s.nextId + 1, placements := s.placements ++ [
          { id := s.nextId, window := n, phase := v.phase, bad := x.2, what := what }] }
    (d.kind = 1 → sendTo n i at_ x s w v = (begun (.vault w.armEntry d.wg (d.addr + at_)
        (if d.latch = 0xFFFFFFFF then none else some d.latch) x.1), w))
    ∧ (d.kind = 2 → sendTo n i at_ x s w v = (begun (.global (d.addr + at_) x.1), w))
    ∧ (d.kind = 3 → sendTo n i at_ x s w v =
        (begun (.window (d.addr / 2 ^ 47 % 32) (d.addr % 2 ^ 44 / 2 ^ 32) at_ (sget 0 w.destSeq i) v.phase x.1),
          { w with destSeq := sset 0 w.destSeq i (sget 0 w.destSeq i + 1) }))

/-- R295, R296, R297, R301, R302, R308, R328: fragments as they arrive at windows, and the invocations that they and timers
start. -/
def Rules.FragmentsArrive : Prop :=
  (∀ (s : State) (g : Fragment), 
    let w := s.window g.window
    let out := s.reachWindow g
    let late : Window := { w with late := min 65535 (w.late + 1) }
    let taken : Window := { w with queue := w.queue ++ [{ g with phase := some w.phi }] }
    let held : Window := { w with hold := w.hold ++ [g] }
    -- an armed window notes what reached it last in this clk
    let noted (k : Window) : Window := { k with took := if w.state = .armed then (s.clk, g.port, s.fragSrc g) else w.took }
    let named : Prop := w.bound = true ∧ ∃ i, i < w.ncontrib ∧ w.contrib i = s.senderEntry g
    (¬ named → out = some (s.setWindow g.window late, true))
    ∧ (named → g.phase = none → w.state = .armed → out = some (s.setWindow g.window (noted taken), false))
    ∧ (named → ∀ p, g.phase = some p → p = w.phi → w.state = .armed → out = some (s.setWindow g.window (noted taken), false))
    ∧ (named → ∀ p, g.phase = some p → (p < w.phi ∨ (p = w.phi ∧ (w.state = .done ∨ w.state = .failed))) →
        out = some (s.setWindow g.window (noted late), true))
    ∧ (named → (∀ p, g.phase = some p → w.phi < p ∨ (p = w.phi ∧ w.state = .idle)) → (g.phase = none → w.state ≠ .armed) →
        (w.hold.length + w.suspended.length < 64 → out = some (s.setWindow g.window (noted held), false))
        ∧ (64 ≤ w.hold.length + w.suspended.length → out = none)))
  ∧ (∀ (s : State) (id : Nat) (a : Access1) (g : Fragment) (route : Route) (u : State) (dropped : Bool),
      (s.net.find? fun x => x.id = id) = some a → a.work = .fragment g route → s.pathClear a = true →
      (s.window g.window).stalled = [] → s.portStopped id g.port = false → s.fragmentTurn g = true → (s.reachWindow g = some (u, dropped) →
        (∀ k : Window, u = s.setWindow g.window k → k.stalled = [] → exec (.fragmentArrive id) s = .next (u.landed id)))
      ∧ (s.reachWindow g = none → exec (.fragmentArrive id) s =
          .next (s.setWindow g.window { s.window g.window with stalled := [id] })))
  ∧ (∀ (s : State) (g : RemoteFragment), 16 ≤ g.port → g.port < 32 → g.window < 4096 →
      let f : Fragment :=
        { window := g.window, off := g.off, data := g.data, bad := g.bad, seq := g.seq, port := g.port, from_ := g.src,
          phase := some g.phase }
      s.fragmentTurn f = true →
      (g.data = [] → exec (.ueFragmentArrive g) s = .next (s.signal (.ueAck g.port g.src g.seq false)))
      ∧ (g.data ≠ [] → (∀ u, s.reachWindow f = some (u, true) → exec (.ueFragmentArrive g) s = .next u)
        ∧ (∀ u, s.reachWindow f = some (u, false) → exec (.ueFragmentArrive g) s = .next (u.signal (.ueAck g.port g.src g.seq true)))
        ∧ (s.reachWindow f = none → exec (.ueFragmentArrive g) s = .next s)))
  ∧ (∀ (s : State) (n : Nat) (g : Fragment) (gs : List Fragment) (phase : Nat),
      (s.window n).running = none → (s.window n).queue = g :: gs → g.phase = some phase →
      (s.windows.filter fun p => p.2.running.isSome).length < 16 →
      let w := s.window n
      exec (.invocationStart n) s = .next (s.setWindow n { w with queue := gs, running := some {
          frag := g, timer := g.port = 255, phase := phase, pc := 0, steps := 0
          k := List.replicate 8 0 ++ (List.range 8).map fun i => BitVec.ofNat 64 (w.param i) } }))
  ∧ ∀ (s : State) (n t : Nat), (s.window n).timer = some t → t ≤ s.pcc.toNat →
      let w := s.window n
      let tick : Fragment :=
        { window := n, off := 0, data := [], seq := 0, port := 255, from_ := 0, phase := some w.phi }
      (w.state = .armed → exec (.timerInvocation n) s = .next (s.setWindow n { w with timer := none, queue := w.queue ++ [tick] }))
      ∧ (w.state ≠ .armed → exec (.timerInvocation n) s = .next (s.setWindow n { w with timer := none }))

/-- R305, R313, R314, R328: placements as they are delivered, and the completion of a phase once they are performed. -/
def Rules.PlacementsDeliver : Prop :=
  (∀ (s : State) (id : Nat) (p : Placement), (s.placements.find? fun x => x.id = id) = some p → p.sent = [] →
    let ended : State := { s with placements := s.placements.filter fun x => x.id ≠ id }
    let e := exec (.placementDeliver id) s
    (∀ entry wg off latch data, p.what = .vault entry wg off latch data →
      (∀ g, s.seat entry wg = .here g → off + data.length ≤ g.vaultSize → g.copyBuffer off data.length = some none →
        latch = none → e = .next { s.writeVaultEnd g.id off (data.mapIdx fun i b => (b, p.bad.contains i)) with
          placements := s.placements.filter fun x => x.id ≠ id })
      ∧ (s.seat entry wg = .away → e = .next s)
      ∧ (s.seat entry wg = .gone → (s.window p.window).phi = p.phase → e = .next (ended.failPhase p.window 3)))
    ∧ (∀ pa data, p.what = .global pa data →
        let r := s.engineWrite 0 (s.window p.window).owner .user none pa .adp data p.bad
        (r.2 = [] → e = .next { r.1 with placements := r.1.placements.filter fun x => x.id ≠ id })
        ∧ (r.2 ≠ [] → e = .next (r.1.placeSent p r.2)))
    ∧ (∀ window off seq phase data, p.what = .window s.system.pkgid window off seq phase data →
        let f : Fragment :=
          { window := window, off := off, data := data, bad := p.bad, seq := seq, port := 33, from_ := s.system.pkgid, phase := some phase }
        ((s.window window).bound = false → (s.window p.window).phi = p.phase → e = .next (ended.failPhase p.window 3))
        ∧ ((s.window window).bound = true → s.fragmentTurn f = true →
          (∀ u dropped, s.reachWindow f = some (u, dropped) → e = .next { u with placements := u.placements.filter fun x => x.id ≠ id })
          ∧ (s.reachWindow f = none → e = .next s)))
    ∧ (∀ pkg window off seq phase data, p.what = .window pkg window off seq phase data → pkg ≠ s.system.pkgid →
        let r := s.sendPod pkg (s.window p.window).owner .adp { core := 0, home := 0, lane := 0 } (.fragment
          { window := window, port := 32, src := s.system.pkgid, seq := seq, phase := phase, off := off, data := data, bad := p.bad })
        e = .next (r.1.placeSent p [r.2]))
    ∧ (∀ uep mode window off seq phase isWindow data sends, p.what = .ue uep mode window off seq phase isWindow data sends →
        let again (x : Placement) : Option Placement :=
          if x.id = p.id then
            match x.what with
            | .ue uep mode window off seq phase isWindow data sends =>
              if mode = 2 then none
              else some { x with port := s.uePort uep mode, what := .ue uep mode window off seq phase isWindow data (sends + 1) }
            | _ => some x
          else some x
        let more : State := { s with draws := s.draws + 1, placements := s.placements.filterMap again }
        (sends = 0 → Config.ueRequires uep = false → e = .next more)
        ∧ (sends = 0 → Config.ueRequires uep = true → (s.window p.window).phi = p.phase → e = .next (ended.failPhase p.window 3))
        ∧ (sends ≠ 0 → exec (.ueRetransmit id) s = .next more)
        ∧ (sends ≠ 0 → mode ≠ 1 → exec (.ueTransportAck id) s = .next ended)))
  ∧ ∀ (s : State) (n : Nat) (l : LatchRef), (s.window n).latch = some l → s.latchSaved l = false →
      let w := s.window n
      let e := exec (.csigArrival n) s
      ((∃ p ∈ s.placements, p.window = n ∧ p.waited = true) → e = .next s)
      ∧ ((∀ p ∈ s.placements, p.window = n → p.waited = false) →
        (∀ b rest, w.failSignal = false → w.sigs = (b, false) :: rest → s.latchStands l = true →
          e = .next ((s.arrive l b).setWindow n { w with sigs := rest }))
        ∧ (∀ b rest, w.failSignal = false → w.sigs = (b, true) :: rest → s.latchStands l = true → w.state = .armed → w.burst = false →
          e = .next ((s.arrive l b).setWindow n { w with sigs := rest, state := .done, suspended := [] }))
        ∧ (w.failSignal = true → s.latchStands l = true → s.latchWord l 0 ≠ 0 →
          e = .next ((s.arrive l ((s.latchWord l 0).toNat - (s.latchWord l 1).toNat)).setWindow n { w with failSignal := false }))
        ∧ (w.failSignal = true → s.latchStands l = true → s.latchWord l 0 = 0 →
          e = .next ((s.setLatch l 0 0 (s.latchPhase l + 1)).setWindow n { w with failSignal := false }))
        ∧ (w.failSignal = true → s.latchStands l = false → e = .next (s.setWindow n { w with failSignal := false })))

/-- R291, R294, R295, R297, R305, R403, R417: bindings, programs and the endpoint table. -/
def Obligations.Bindings : Prop :=
  (∀ (s : State) (n part : Nat), n < 4096 → (s.window n).bound = false →
    let new : Window := { Window.reset with
      record := s.tableRecord n, latch := (s.window n).latch, failSignal := (s.window n).failSignal }
    (s.bindReason part (s.window n) new = 0 →
      ∃ t, exec (.windowBind n (.super part)) s = .next t ∧ t.window n = { new with bound := true, owner := part } ∧ t.mem = s.mem
        ∧ (∀ k, k ≠ n → t.window k = s.window k) ∧ ∀ c, sget 0 (t.core c).fragSeq n = 0)
    ∧ (∀ r, s.bindReason part (s.window n) new = r + 1 →
      exec (.windowBind n (.super part)) s = .next (s.setWindow n { s.window n with refused := true, reason := r + 1 })))
  ∧ (∀ (s : State) (n : Nat), (s.window n).bound = true →
      let w := s.window n
      (w.state = .armed → exec (.windowUnbind n (.super w.owner)) s = .next (s.setWindow n { w with reason := 5 }))
      ∧ (w.state ≠ .armed → (∀ k ∈ s.fabric.ingress, waitsAtWindow n k = false) →
        exec (.windowUnbind n (.super w.owner)) s = .next (({
          s with net := s.net.filter fun a => !(s.stoppedAt n).contains a.id } : State).setWindow n {
            Window.reset with
            late := min 65535 (w.late + w.hold.length + (s.stoppedAt n).length), latch := w.latch, failSignal := w.failSignal })))
  ∧ (∀ (s : State) (g : Nat) (v : Word), g < 256 → v.getLsbD 0 = true → s.programHeld g = false →
      let n := v.toNat / 256 % 256 + 1
      let p := s.program g
      let words : List DWord := (List.range n).map fun i => sget 0 p.words i
      let ends : Instr → Prop
        | .cjmp _ | .cend _ | .cdropf _ | .cyield _ => True
        | _ => False
      let within_ : Instr → Prop
        | .cjmp c | .cbr c | .cyield c => c.imm.toNat % 256 < n
        | _ => True
      (∀ is, words.map decodeCollective = is.map some → (∀ i ∈ is, within_ i) → (∀ i, is.getLast? = some i → ends i) →
        exec (.programLoad g v) s = .next {
          s.setProgram g { p with loaded := is, status := 1 } with
          system := s.system.extend 6 (words.flatMap fun x => leBytes 8 x.toNat) })
      ∧ ((∃ w ∈ words, decodeCollective w = none) → exec (.programLoad g v) s = .next (s.setProgram g { p with status := 2 })))
  ∧ ∀ (s : State) (e i : Nat) (v : DWord), e < 1024 → i < 8 →
      exec (.endpointWrite e i v .sys) s = .next { s with endpoints := sset 0 s.endpoints (8 * e + i) (v &&&
        (if i < 2 then ~~~0#64 else if i = 2 then 0xFFFF033FFFFFFFFF else 0)) }

/-! ## Queues -/

/-- R335, R336, R337, R369: writes of a queue's registers: QDOOR appends, QCFG takes its fields (a LAUNCH of
the clk that clears EN finds it clear, R355, DEDUCED log 85), and QRING, QDONE, QROOT and SROOT take their halves; a queue that
is busy keeps its ring, its root and its depth. -/
def Rules.QueueRegisters : Prop :=
  ∀ (s : State) (part queue : Nat) (v : Word), s.exists_ part = true → queue < 64 →
    let q := s.queue part queue
    let set (x : Queue) : Host.Outcome State Fault Refusal := .next (s.setQueue part queue x)
    let half (high : Bool) (old : DWord) : DWord := if high then v ++ old.extractLsb' 0 32 else old.extractLsb' 32 32 ++ v
    (∀ (level writer : Level) (n : Nat), q.ufeed = false → q.en = true → s.changing part = false →
      v.toNat / 65536 % 4 = level.code → (v.extractLsb' 0 16 - q.head).toNat = (q.tail - q.head).toNat + n →
      (q.tail - q.head).toNat + n ≤ 2 ^ q.depth →
      exec (.qdoorWrite part queue v writer) s = set { q with
        tail := v.extractLsb' 0 16
        appended := q.appended ++ List.replicate n
          { level := if level.code ≤ writer.code then level else writer, launcher := none, notBefore := none, latchLast := none, killed := false } })
    ∧ (∀ writer : Level, q.ufeed = true ∨ q.en = false ∨ v.toNat / 65536 % 4 = 2 ∨
        2 ^ q.depth < (v.extractLsb' 0 16 - q.head).toNat → exec (.qdoorWrite part queue v writer) s = .next s)
    ∧ (v.getLsbD 31 = true ∨ (∀ x ∈ s.launched, x.part = part → x.queue ≠ queue) → exec (.qcfgWrite part queue v) s = .next { s.setQueue part queue { q with
        en := v.getLsbD 31, ufeed := v.getLsbD 30, npok := v.getLsbD 29, maxPri := v.toNat / 2 ^ 27 % 4, slice := v.extractLsb' 0 16
        depth := if q.tail = q.head ∧ 4 ≤ v.toNat / 65536 % 16 ∧ v.toNat / 65536 % 16 ≤ 10 then v.toNat / 65536 % 16 else q.depth } with
          launched := if v.getLsbD 31 = true then s.launched else s.launched.filter fun x => ¬ (x.part = part ∧ x.queue = queue) })
    ∧ (∀ (x : Launched) (w : Wave), v.getLsbD 31 = false → s.launched.filter (fun x => x.part = part ∧ x.queue = queue) = [x] →
        s.waveAt (x.place / 2048) (x.place / 32 % 64) = some w →
        ∃ t, exec (.qcfgWrite part queue v) s = .next t ∧ (t.queue part queue).en = false ∧ (t.queue part queue).tail = q.tail - 1
          ∧ (t.queue part queue).appended = q.appended.dropLast ∧ t.mem = s.mem
          ∧ t.launched = s.launched.filter (fun x => ¬ (x.part = part ∧ x.queue = queue))
          ∧ t.waves = (s.modThread w.id (x.place % 32) fun h =>
              if h.pc = x.pc then { h with queue := .val 0 :: h.queue.drop 1 }.writeD x.d [0] else h).waves)
    ∧ (q.tail = q.head →
        exec (.qringWrite part queue 0x3E5 v) s = set { q with ring := half false q.ring &&& 0x000FFFFFFFFFFF00 }
        ∧ exec (.qringWrite part queue 0x3E6 v) s = set { q with ring := half true q.ring &&& 0x000FFFFFFFFFFF00 }
        ∧ exec (.qringWrite part queue 0x3E7 v) s = set { q with done := half false q.done &&& 0x000FFFFFFFFFFF00 }
        ∧ exec (.qringWrite part queue 0x3E8 v) s = set { q with done := half true q.done &&& 0x000FFFFFFFFFFF00 }
        ∧ exec (.qrootWrite part queue 0x3F0 v) s = set { q with root := half false q.root &&& 0x03EFFFFFFFFFFFFF }
        ∧ exec (.qrootWrite part queue 0x3F1 v) s = set { q with root := half true q.root &&& 0x03EFFFFFFFFFFFFF })
    ∧ (q.tail ≠ q.head → ∀ n, exec (.qringWrite part queue n v) s = .next s ∧ exec (.qrootWrite part queue n v) s = .next s
        ∧ exec (.qphalWrite part queue n v) s = .next s)
    ∧ exec (.srootWrite part 0x3F2 v) s = .next (s.setPartition part { s.partition part with
        sroot := half false (s.partition part).sroot &&& 0x03EFFFFFFFFF0000 })
    ∧ exec (.srootWrite part 0x3F3 v) s = .next (s.setPartition part { s.partition part with
        sroot := half true (s.partition part).sroot &&& 0x03EFFFFFFFFF0000 })

/-- R21, R429, R430: QPHAL and PPHAL take a value whose ranges lie below the phaser counts, within the partition's share
and apart from the other shares, and keep the old value otherwise; a phaser newly allotted to a queue starts at phase 0
(R240, DEDUCED log 35). -/
def Rules.PhaserShares : Prop :=
  ∀ (s : State) (part queue : Nat) (v : Word), s.exists_ part = true → queue < 64 →
    let q := s.queue part queue
    let p := s.partition part
    let lo : DWord := (q.phal.extractLsb' 32 32 ++ v : DWord) &&& 0xFFFF01FFFFFF00FF
    let share : DWord := (v ++ p.pphal.extractLsb' 0 32 : DWord) &&& 0xFFFF01FFFF000000
    let f (x : DWord) (i n : Nat) : Nat := x.toNat / 2 ^ i % 2 ^ n
    let below (x : DWord) : Prop :=
      (f x 56 8 = 0 ∨ f x 48 8 + f x 56 8 ≤ 64) ∧ (f x 32 9 = 0 ∨ f x 24 8 + f x 32 9 ≤ 256) ∧ (f x 16 8 = 0 ∨ f x 0 8 + f x 16 8 ≤ 128)
    let within_ (x y : DWord) : Prop :=
      (f x 56 8 = 0 ∨ (f y 48 8 ≤ f x 48 8 ∧ f x 48 8 + f x 56 8 ≤ f y 48 8 + f y 56 8))
      ∧ (f x 32 9 = 0 ∨ (f y 24 8 ≤ f x 24 8 ∧ f x 24 8 + f x 32 9 ≤ f y 24 8 + f y 32 9))
    let apart (x y : DWord) : Prop :=
      (f x 56 8 = 0 ∨ f y 56 8 = 0 ∨ f x 48 8 + f x 56 8 ≤ f y 48 8 ∨ f y 48 8 + f y 56 8 ≤ f x 48 8)
      ∧ (f x 32 9 = 0 ∨ f y 32 9 = 0 ∨ f x 24 8 + f x 32 9 ≤ f y 24 8 ∨ f y 24 8 + f y 32 9 ≤ f x 24 8)
    let fits : Prop := below share ∧ (∀ o ∈ s.partsNow, o ≠ part → apart share (s.partition o).pphal)
      ∧ ∀ x ∈ p.queues, x.2.tail ≠ x.2.head → within_ x.2.phal share
    let has (x : DWord) (i n j m k : Nat) : Bool := decide (f x i n ≤ k ∧ k < f x i n + f x j m)
    let new (i n j m k : Nat) : Bool :=
      has lo i n j m k && !has q.phal i n j m k && !p.queues.any fun y => y.1 ≠ queue && has y.2.phal i n j m k
    (q.tail = q.head → below lo → within_ lo p.pphal →
      exec (.qphalWrite part queue 0x3EE v) s = .next { s.setQueue part queue { q with phal := lo } with
        diePh := s.diePh.filter fun k => !((s.dieSet part).contains (k.1 / 128) && new 0 8 16 8 (k.1 % 128))
        pkgPh := s.pkgPh.filter fun k => !new 24 8 32 9 k.1
        podPh := s.podPh.filter fun k => !new 48 8 56 8 k.1 })
    ∧ (¬ below lo ∨ ¬ within_ lo p.pphal → exec (.qphalWrite part queue 0x3EE v) s = .next s)
    ∧ (fits → exec (.pphalWrite part 0x357 v) s = .next (s.setPartition part { p with pphal := share }))
    ∧ (¬ fits → exec (.pphalWrite part 0x357 v) s = .next s)

/-- R354, R355: PREQ answers NOENTRY for a number that is not appended or that has completed, and NOTPRE for an entry that may
not be pre-empted; else it asks for the entry's gangs, or kills it, unless its last gang retires in the same clk. -/
def Rules.PreemptRequests : Prop :=
  ∀ (s : State) (part queue number : Nat), s.exists_ part = true → queue < 64 → number < 65536 →
    let q := s.queue part queue
    let n : BitVec 16 := BitVec.ofNat 16 number
    let busy : Prop := (n - q.head).toNat < (q.tail - q.head).toNat
      ∧ ((n - (q.tail - BitVec.ofNat 16 q.appended.length)).toNat < q.appended.length ∨ ∃ e ∈ s.entriesOf part queue, e.number = number)
    let result (n : Nat) : State := s.setPartition part { s.partition part with preqResult := n }
    (¬ busy → exec (.preqSave part queue number) s = .next (result 3) ∧ exec (.preqKill part queue number) s = .next (result 3))
    ∧ (busy → ∀ e, ((s.entriesOf part queue).find? fun e => e.number = number) = some e →
      (e.record.preemptible = false → exec (.preqSave part queue number) s = .next (result 2))
      ∧ (e.record.preemptible = true → exec (.preqSave part queue number) s = .next {
          result 1 with gangs := s.gangs.map fun g =>
            if g.entry = e.id ∧ g.saving = false ∧ g.killed = false then { g with asked := true } else g })
      ∧ (e.status = none → (result 1).lastRetires e = false →
          ∃ t, exec (.preqKill part queue number) s = .next t ∧ (t.partition part).preqResult = 1 ∧ t.mem = s.mem
            ∧ (∀ x, x ∈ t.entries → x.id = e.id → x.status = some .killed ∧ x.messages = 0)
            ∧ (∀ g ∈ t.gangs, g.entry = e.id → g.killed = true) ∧ (∀ x ∈ t.saved, x.gang.entry ≠ e.id)
            ∧ ∀ w ∈ t.waves, w.kind = .user → ∀ g ∈ s.wgs, g.entry = e.id → w.wg ≠ g.id))

/-- R378: DBGCTL resumes the threads of a halted wave at the PCs that their halts give, and kills the entry of the wave that
it selects; a wave that is not halted stays as it is. -/
def Rules.DebugControl : Prop :=
  ∀ (s : State) (die core slot : Nat) (w : Wave), core < 32 → slot < 64 →
    s.waveAt (32 * die + core) slot = some w →
    let chosen := s.setDie die { s.die die with dbgCore := core, dbgSlot := slot }
    (w.halted = true → exec (.dbgctlGo die core slot) s = .next (chosen.setWave { w with
        haltLogged := false
        threads := w.threads.map fun t => match t.run with
          | .halted _ pc => { t with run := .running, pc := pc }
          | _ => t }))
    ∧ (w.halted = false → exec (.dbgctlGo die core slot) s = .next chosen)
    ∧ (∀ e, s.entryOfWave w = some e → e.status = none → chosen.lastRetires e = false →
        ((s.entriesOf e.part e.queue).find? fun x => x.number = e.number) = some e →
        exec (.dbgctlKill die core slot) s = .next (chosen.killEntry e.id .killed))
    ∧ (s.entryOfWave w = none → exec (.dbgctlKill die core slot) s = .next chosen)

/-! ## Entries and gangs -/

/-- R333, R335, R338, R339, R340, R342, R355: RECORD_CHECK copies the next record of a queue, in a clk after that of its LAUNCH,
and checks it; ENTRY_ELIGIBLE follows its dependences; ENTRY_COMPLETE ends it with its status, settles the dependences on it,
moves HEAD to the oldest entry left, and signals MSI-X. -/
def Rules.EntryLife : Prop :=
  (∀ (s : State) (part queue : Nat) (a : Appended) (rest : List Appended),
    let q := s.queue part queue
    let number := q.tail - BitVec.ofNat 16 q.appended.length
    let pa := q.ring.toNat + 256 * (number.toNat % 2 ^ q.depth)
    let r : Record := { words := wordsOf 64 (s.peek pa 256) }
    let u := s.readDone pa 256
    let e : Entry :=
      { id := u.nextId, part := part, queue := queue, number := number.toNat, record := r, level := a.level, launcher := a.launcher,
        root := some q.root, gangs := if r.indirect then none else some (r.word 8).toNat, eligibleAt := none, waitingSince := none,
        placed := 0, retired := 0, messages := 0, notBefore := a.notBefore, latchLast := a.latchLast, starved := false, status := none
        settled := u.settledNow part r }
    let read (st : Option Status) : State :=
      let v := u.fresh.setQueue part queue { u.queue part queue with appended := rest }
      { v with entries := v.entries ++ [{ e with status := st }] }
    let bad := u.recordBad part q r a.launcher.isSome
    let out := exec (.recordCheck part queue) s
    (s.launched.filter fun x => x.part = part && x.queue = queue).length < q.appended.length →
    q.appended = a :: rest → a.killed = false → (∀ x ∈ s.entriesOf part queue, x.allPlaced = true) → s.ownDram pa = true →
    poisonedIn s.poison pa 256 = false →
      (bad = true → out = .next (read (some .launchBad)))
      ∧ (bad = false → u.fitsEmpty e = false → out = .next (read (some .noFit)))
      ∧ (bad = false → u.fitsEmpty e = true → out = .next (read none)))
  ∧ (∀ (s : State) (part queue number : Nat) (e : Entry),
      ((s.entriesOf part queue).find? fun x => x.number = number) = some e → e.status = none → e.eligibleAt = none →
      let deps := (List.range 4).map fun i => s.depState e (e.record.dep i)
      let set (x : Entry) : State := { s with entries := s.entries.map fun y => if y.id = e.id then x else y }
      let out := exec (.entryEligible part queue number) s
      (∀ x y, x ∈ s.entries → y ∈ s.entries → x.id = y.id → x = y) →
      (Dep.failed ∈ deps → out = .next (set { e with status := some .depFail }))
      ∧ (Dep.failed ∉ deps → s.reached e = true → Dep.pending ∉ deps → e.record.nb.toNat ≤ s.pcc.toNat →
          (e.notBefore.getD 0).toNat ≤ s.pcc.toNat → e.record.indirect = false → ∀ n, e.gangs = some (n + 1) →
          out = .next (set { e with eligibleAt := some s.clk })))
  ∧ ∀ (s : State) (part queue number : Nat) (e : Entry) (st : Status),
      ((s.entriesOf part queue).find? fun x => x.number = number) = some e → s.completion e = some st → st = .done →
      (s.queue part queue).done = 0 →
      ∃ t, exec (.entryComplete part queue number) s = .next t ∧ t.mem = s.mem ∧ t.waves = s.waves
        ∧ t.entries.map (fun x : Entry => { x with settled := [] })
            = (s.entries.filter fun x => x.id ≠ e.id).map (fun x : Entry => { x with settled := [] })
        ∧ (∀ x ∈ t.entries, x.part = part → ∀ i < 4,
            (x.record.dep i).toNat / 2 ^ 29 % 8 = 1 → (x.record.dep i).toNat / 65536 % 64 = queue → (x.record.dep i).toNat % 65536 = number →
            ∃ ok, (x.record.dep i, ok) ∈ x.settled)
        ∧ (t.queue part queue).tail = (s.queue part queue).tail
        ∧ (∀ x xs, t.entriesOf part queue = x :: xs → (t.queue part queue).head = BitVec.ofNat 16 x.number)
        ∧ (t.entriesOf part queue = [] → (t.queue part queue).head =
            (s.queue part queue).tail - BitVec.ofNat 16 (s.queue part queue).appended.length)
        ∧ (s.system.ready = true → t.system.msix = s.system.msix ++ [64 * part + queue])

/-- R17, R18, R23, R27, R339, R343: GANG_PLACE places one gang of the arbiter's choice, in the clk after its entry became
eligible or later and at most once in 4 clk, on a core set where it fits, each wave in a
free user slot of its core, and each thread at the record's entry with nothing in its registers. -/
def Rules.GangsPlaced : Prop :=
  (∀ (s : State) (part b : Nat) (e : Entry), s.arbitrate part = some e → s.savedOf e.id = [] → e.placed < e.gangs.getD 0 →
    e.record.cosched = false → s.chooseSet e .fresh = some b → exec (.gangPlace part) s = .next (s.placeGang e b))
  ∧ (∀ (s : State) (e : Entry) (b : Nat), s.chooseSet e .fresh = some b → s.fitsAt b e.record.demand = true
      ∧ (∃ die ∈ s.dieSet e.part, ∃ i, b = 32 * die + e.record.gsize * i ∧ e.record.gsize * (i + 1) ≤ 32))
  ∧ (∀ (s : State) (part : Nat) (e : Entry), s.arbitrate part = some e →
      e ∈ s.entries ∧ e.part = part ∧ s.candidate e = true ∧ s.entryFits e = true
      ∧ (∃ c, e.eligibleAt = some c ∧ c < s.clk) ∧ (∀ c, (s.partition part).lastPlaced = some c → c + 4 ≤ s.clk)
      ∧ ∀ x ∈ s.entries, x.part = part → s.candidate x = true → s.entryFits x = true →
        (∀ h ∈ s.entries, h.part = part → s.candidate h = true → h.starved = false ∧ s.overdue h = false) → x.before e = false)
  ∧ (∀ (s : State) (e : Entry) (gang m core : Nat), s.fitsCore core
        { waves := e.record.nwaves, blocks := e.record.nwaves * e.record.blocks, vault := e.record.vault, slots := e.record.nslots,
          tiles := e.record.ntiles, paths := e.record.paths, phasers := e.record.corePh } = true →
      let t := s.placeMember e gang m core
      ∃ g ws, t.wgs = s.wgs ++ [g] ∧ t.waves = s.waves ++ ws ∧ ws.length = e.record.nwaves ∧ t.mem = s.mem
        ∧ (t.core core).code = []
        ∧ g.core = core ∧ g.gang = gang ∧ g.member = m ∧ g.entry = e.id ∧ g.vaultSize = e.record.vault ∧ g.vault = []
        ∧ (∀ w ∈ ws, w.core = core ∧ w.wg = g.id ∧ w.kind = .user ∧ w.blocks = e.record.blocks ∧ w.slot < 63
          ∧ (w.slot ≠ 0 ∨ core % 4 ≠ 0) ∧ (∀ v ∈ s.waves, v.exited = false → ¬ (v.core = core ∧ v.slot = w.slot))
          ∧ w.threads.length = 32 ∧ ∀ (l : Nat) (x : Thread), w.threads[l]? = some x →
            x.pc = e.record.entryPc ∧ x.level = e.level ∧ x.run = .running ∧ (∀ r, x.reg r = 0) ∧ x.pending = []))
  ∧ ∀ (s : State) (part queue number : Nat), exec (.placementStarvation part queue number) s = .next { s with
      entries := s.entries.map fun e =>
        if e.part = part ∧ e.queue = queue ∧ e.number = number ∧ s.candidate e = true ∧ s.overdue e = true ∧ s.entryFits e = false
        then { e with starved := true } else e }

/-- R32, R174, R337, R352, R353, R355, R381, R384: a slice that has run out marks its gang; a chosen gang begins to be saved, with
its frame reserved, or marks its pool full; one that may retire is not saved; a drained one leaves its cores for its frame in a
later clk, and comes back on the core set that the arbiter finds, its threads awake whose deadlines have passed. -/
def Rules.GangsSaved : Prop :=
  (∀ (s : State) (gang : Nat) (g : Gang), s.gang? gang = some g →
    (s.sliceOf g ≠ 0 → s.sliceOf g ≤ s.clk - g.placedAt →
      exec (.sliceExpiry gang) s = .next (s.setGang { g with expired := true }))
    ∧ (s.sliceOf g = 0 ∨ s.clk - g.placedAt < s.sliceOf g → exec (.sliceExpiry gang) s = .next s)
    ∧ (g.killed = false → g.saving = false → s.chosen g = true → s.savedWith g = [g] →
      (∀ f, s.gangDone gang = false → s.framesFor g = some [f] → exec (.gangSave gang) s = .next { s with
          gangs := s.gangs.map fun x => if x.id = g.id then { x with saving := true, savingAt := s.clk, reserved := some f } else x })
      ∧ (∀ p q, s.gangDone gang = false → s.framesFor g = none → s.queueOf g.entry = some (p, q) →
          exec (.gangSave gang) s = .next (s.setQueue p q { s.queue p q with ctxFull := true })))
    ∧ (g.killed = false → s.gangDone gang = true → (g.saving = true → g.savingAt = s.clk) → exec (.gangSave gang) s = .next s)
    ∧ (g.killed = false → g.saving = true → g.savingAt ≠ s.clk → s.savedWith g = [g] → s.drained g = true → ∀ f, g.reserved = some f →
      ∃ t x, exec (.gangSave gang) s = .next t ∧ t.saved = s.saved ++ [x] ∧ x.gang.id = g.id ∧ x.gang.saving = false ∧ x.frame = f.1
        ∧ x.wgs = s.wgs.filter (fun y => y.gang = g.id)
        ∧ x.waves = s.waves.filter (fun w => w.kind = .user ∧ ∃ y ∈ s.wgs, y.gang = g.id ∧ y.id = w.wg)
        ∧ t.wgs = s.wgs.filter (fun y => y.gang ≠ g.id) ∧ (∀ y ∈ t.gangs, y.id ≠ g.id)
        ∧ ∀ w ∈ t.waves, w ∈ s.waves))
  ∧ ∀ (s : State) (part b : Nat) (e : Entry) (x : SavedGang) (xs : List SavedGang),
      (∀ g ∈ s.gangs, g.owing = false) → s.arbitrate part = some e → s.savedOf e.id = x :: xs → e.record.cosched = false →
      s.chooseSet e (.saved x) = some b →
      exec (.gangRestore part) s = .next (s.restoreGang x b)
      ∧ (s.restoreGang x b).saved = s.saved.filter (fun y => y.gang.id ≠ x.gang.id)
      ∧ ∀ g ∈ x.wgs, ∀ w ∈ x.waves, w.wg = g.id → w.exited = false →
        ∃ v ∈ (s.restoreGang x b).waves, v.id = w.id ∧ v.core = b + g.member ∧ v.threads = w.threads.map (fun h => h.awake s.pcc.toNat) ∧ v.blocks = w.blocks
          ∧ v.interval = w.interval ∧ v.seq = w.seq

/-- R20, R27, R172: WORKGROUP_RETIRE removes the workgroups of a gang together, once the waves of each have exited, its accesses are
performed and its engines have completed; JOB_BINDING gives a partition its job. -/
def Rules.WorkgroupsRetire : Prop :=
  (∀ (s : State) (wg : Nat) (g : Workgroup) (x : Gang), s.wg? wg = some g → s.gang? g.gang = some x → x.saving = false →
    x.killed = false → s.quietIds x.dropped = true →
    (∀ y ∈ s.wgs, y.gang = g.gang → (∀ w ∈ s.wavesOf y.id, w.exited = true) ∧ s.quiet (s.wavesOf y.id) = true ∧ y.copiesDone = true
      ∧ s.copiesAt y.id = false ∧ y.ops = [] ∧ y.oloads = []) →
    ∃ t, exec (.workgroupRetire wg) s = .next t ∧ t.mem = s.mem ∧ t.wgs = s.wgs.filter (fun y => y.gang ≠ g.gang)
      ∧ t.waves = s.waves.filter (fun w => ¬ (w.kind = .user ∧ ∃ y ∈ s.wgs, y.gang = g.gang ∧ y.id = w.wg))
      ∧ t.gangs = s.gangs.filter (fun y => y.id ≠ g.gang)
      ∧ ∀ e ∈ s.entries, e.id = g.entry → ∃ f ∈ t.entries, f.id = e.id ∧ f.retired = e.retired + 1)
  ∧ (∀ (s : State) (wg : Nat) (g y : Workgroup), s.wg? wg = some g → y ∈ s.wgs → y.gang = g.gang →
      ((∃ w ∈ s.wavesOf y.id, w.exited = false) ∨ (∃ w ∈ s.wavesOf y.id, w.store ≠ []) ∨ s.copiesAt y.id = true ∨ y.oloads ≠ []) →
      exec (.workgroupRetire wg) s = .next s)
  ∧ ∀ (s : State) (part : Nat) (job : Option Job), s.exists_ part = true →
      exec (.jobBinding part job) s = .next (s.setPartition part { s.partition part with job := job })

/-! ## Partitions -/

/-- R411, R412, R413, R426, R427: PARTCTL_GO checks a layout change and sets STATUS; while it runs PDSET, PBOUND and
PRING.JOIN each read the old value or the new one, never the old after the new; LAYOUT_CHANGE_DONE makes it, with the
frames, partitions and translations that it changes. -/
def Rules.LayoutChanges : Prop :=
  (∀ (s : State) (v : Word) (writer : Option Nat),
    let code := v.toNat % 8
    let old := s.system.layout.toNat
    let ps := (List.range 4).filter fun p => dieSetIn old p ≠ dieSetIn code p
    let busy : Prop := ∃ p ∈ ps, s.partBusy p = true ∨ (s.partition p).wasBusy = true ∨ writer = some p
    let full : Prop := ∃ p ∈ ps, ∃ x ∈ (s.partition p).ring.slots, x.2.tag ≠ 0
    let mixed : Prop := ∃ f ∈ s.frames, f.2.getLsbD 0 = true ∧ f.2.toNat / 64 ∈ ps ∧ (f.2.toNat / 2 % 4 = 1 ∨ f.2.toNat / 2 % 4 = 2)
    let bad : Prop := code ∈ [4, 5, 6] ∨ ∃ d, d < 8 ∧ s.system.stage ≠ 0 ∧ s.system.dies.getLsbD d = false
    let set (n : Nat) (c : Option (BitVec 3)) : State := { s with system := { s.system with parStatus := n, newLayout := c, shown := 0 } }
    let e := exec (.partctlGo v writer) s
    (v.getLsbD 31 = false ∨ s.system.newLayout.isSome = true → e = .next s)
    ∧ (v.getLsbD 31 = true → s.system.newLayout = none →
      (bad → e = .next (set 3 none)) ∧ (¬ bad → busy → e = .next (set 1 none))
      ∧ (¬ bad → ¬ busy → full → e = .next (set 2 none)) ∧ (¬ bad → ¬ busy → ¬ full → mixed → e = .next (set 4 none))
      ∧ (¬ bad → ¬ busy → ¬ full → ¬ mixed → e = .next (set 7 (some (v.extractLsb' 0 3))))))
  ∧ (∀ (s : State) (code : BitVec 3), s.system.newLayout = some code →
      let read (n : Nat) : Word := s.packageRead n
      let shown (t : State) (k : Nat) : Prop := t.system.shown.getLsbD k = true
      (read 0x351 = BitVec.ofNat 32 (pdset s.system.layout.toNat) ∨ read 0x351 = BitVec.ofNat 32 (pdset code.toNat))
      ∧ (read 0x352 = BitVec.ofNat 32 (pbound s.system.layout.toNat) ∨ read 0x352 = BitVec.ofNat 32 (pbound code.toNat))
      ∧ ((read 0x353).toNat % 8 = s.system.layout.toNat ∨ (read 0x353).toNat % 8 = code.toNat)
      ∧ (∀ k, shown s k → shown s.showLayout k)
      ∧ (shown s.showLayout 2 → shown s 2 ∨ shown s 0 ∧ shown s 1))
  ∧ ∀ (s : State) (code : BitVec 3), s.system.newLayout = some code → s.windows = [] → s.endpoints = [] →
      let old := s.system.layout.toNat
      let changes (p : Nat) : Prop := dieSetIn old p ≠ dieSetIn code.toNat p
      ∃ t, exec .layoutChangeDone s = .next t ∧ t.mem = s.mem ∧ t.waves = s.waves ∧ t.wgs = s.wgs
        ∧ t.system.layout = code ∧ t.system.newLayout = none ∧ t.system.parStatus = 0
        ∧ (∀ p, p < 4 → ¬ changes p → t.partition p = s.partition p)
        ∧ (∀ p, p < 4 → changes p → (t.partition p).ring.slots = [] ∧ (t.partition p).pphal = 0)
        ∧ (∀ d, d < 8 → changes (partOfIn old d) ∨ changes (partOfIn code.toNat d) → (t.die d).tlb = [] ∧ (t.die d).ptrs = []
            ∧ ∀ c, c / 32 = d → (t.core c).tlb = [])
        ∧ (∀ d, d < 8 → ¬ changes (partOfIn old d) → ¬ changes (partOfIn code.toNat d) → t.die d = s.die d)

/-- R102, R411, R418: RING_CLEAR empties a ring of a partition with no operations on it; FPTSET selects a frame and writes its
entry, which only its owner or SYS may. -/
def Rules.RingsAndFrames : Prop :=
  (∀ (s : State) (part : Nat), s.exists_ part = true → (∀ o ∈ s.ringOps, o.part ≠ part) →
    let p := s.partition part
    exec (.ringClear part) s = .next (s.setPartition part { p with ring := { p.ring with clearedAt := s.clk, slots := [] } }))
  ∧ ∀ (s : State) (v : Word),
      let f := v.toNat % 2 ^ 24
      let at_ := s.system.fptFrame
      let old := sget 0 s.frames at_
      let new : Byte := v.extractLsb' 0 8
      let wrote : State := { s with frames := sset 0 s.frames at_ new }
      (f < 9437184 → exec (.fptsetSelect v) s = .next { s with system := { s.system with fptFrame := f } })
      ∧ (9437184 ≤ f → exec (.fptsetSelect v) s = .next s)
      ∧ exec (.fptsetWrite v .sys) s = .next wrote
      ∧ ∀ part, ((old.getLsbD 0 = true → old.toNat / 64 = part) ∧ new.toNat / 64 = part → exec (.fptsetWrite v (.super part)) s = .next wrote)
        ∧ (¬ ((old.getLsbD 0 = true → old.toNat / 64 = part) ∧ new.toNat / 64 = part) → exec (.fptsetWrite v (.super part)) s = .next s)

/-- R98, R390, R391, R392, R393: SLCFG and SLMAP take a value whose columns are powered and drop the lines that move, a dirty one
of a peer written back in the class that wrote it, and are busy until the remap is done; a router sleeps when it has been idle, and a wake in the clock of that decision keeps it awake. -/
def Rules.SlicesAndRouters : Prop :=
  (∀ (s : State) (die : Nat) (v : Word),
    let d := s.die die
    let column (m : BitVec 24) (c : Nat) : Nat := m.toNat / 2 ^ (3 * c) % 8
    let on : BitVec 8 := v.extractLsb' 0 8
    let map : BitVec 24 := v.extractLsb' 0 24
    let set (x : Die) : Host.Outcome State Fault Refusal := .next (s.setDie die x)
    let own : Prop := ∀ l ∈ d.lines, l.2.asked = none ∧ s.peerDram (128 * l.1) = false
    (own → d.slBusy = false → on ≠ 0 → on ≠ d.slOn → (∀ c, c < 8 → on.getLsbD (column d.slMap c) = true) →
      exec (.slcfgWrite die v) s = set { d with
        slOn := on, slBusy := true, lines := d.lines.filter fun l => on.getLsbD (d.slice (l.1 * 128) % 8) })
    ∧ (d.slBusy = true ∨ on = 0 ∨ (∃ c, c < 8 ∧ on.getLsbD (column d.slMap c) = false) → exec (.slcfgWrite die v) s = .next s)
    ∧ (own → d.slBusy = false → (∀ c, c < 8 → d.slOn.getLsbD (column map c) = true) →
      exec (.slmapWrite die v) s = set { d with
        slMap := map, slBusy := true
        lines := d.lines.filter fun l => column map (sliceCode (l.1 * 128)) = column d.slMap (sliceCode (l.1 * 128)) })
    ∧ (∀ k l, d.lines = [(k, l)] → l.asked = none → l.dirty = true → s.peerDram (128 * k) = true →
        (∀ p ∈ (s.setDie die { d with lines := [] }).dies, p.2.lines = []) → d.slBusy = false → (∀ c, c < 8 → d.slOn.getLsbD (column map c) = true) →
        column map (sliceCode (k * 128)) ≠ column d.slMap (sliceCode (k * 128)) →
        ∃ t x, exec (.slmapWrite die v) s = .next t ∧ (t.die die).lines = [] ∧ t.fabric.kept = s.fabric.kept ++ [x]
          ∧ x.packet.dst = paPkg (128 * k) ∧ x.packet.cls = l.cls
          ∧ x.packet.payload = .writeBack (128 * k) (s.peek (128 * k) 128) (badBytes s.poison (128 * k) 128)
              (recordsOf s.releases (words8 (128 * k) 128)))
    ∧ (d.slBusy = true ∨ (∃ c, c < 8 ∧ d.slOn.getLsbD (column map c) = false) → exec (.slmapWrite die v) s = .next s)
    ∧ exec (.sliceRemapDone die) s = set { d with slBusy := false })
  ∧ ∀ (s : State) (die r : Nat), r < 64 →
      let d := s.die die
      let x := d.router r
      let idle : Prop := d.rslpEn = true ∧ x.asleep = false ∧ x.idleSince + d.rslpIdle ≤ s.clk ∧ x.awakeUntil ≤ s.clk
      let set (y : Router) : State := s.setDie die { d with routers := put d.routers r y }
      (idle → exec (.routerPowerDown die r) s = .next (set { x with asleep := true, idleSince := s.clk }))
      ∧ (¬ idle → exec (.routerPowerDown die r) s = .next s)
      ∧ (x.awakeUntil ≤ s.clk →
        ((x.asleep = true ∧ x.idleSince = s.clk) ∨ idle → exec (.routerWake die r) s =
          .next (set { asleep := false, idleSince := s.clk, awakeUntil := s.clk + 256 }))
        ∧ (¬ ((x.asleep = true ∧ x.idleSince = s.clk) ∨ idle) → exec (.routerWake die r) s =
          .next (set { asleep := false, idleSince := s.clk, awakeUntil := x.awakeUntil })))
      ∧ (s.clk < x.awakeUntil → exec (.routerWake die r) s = .next s)

/-! ## The pod fabric -/

/-- R97, R101, R104, R123, R296, R395, R398, R400, R401: what a received pod packet does. A trimmed one is asked for again, and one
for another package passed on. A second copy is dropped and acknowledged, one behind a gap of its stream held, and one that a full
queue stops waits for it. A write is performed at home, a read answered with its poison and release records, an atomic goes to
its service wave, a fragment to its window; each is acknowledged. -/
def Rules.PodPackets : Prop :=
  ∀ (s : State) (k : PodPacket),
    let f := s.fabric
    let e := exec (.podPacketReceive k) s
    let me := s.system.pkgid
    let seen : Prop := (k.src, k.part, k.number) ∈ f.seen
    let same (x : PodPacket) : Prop := x.src = k.src ∧ x.part = k.part ∧ x.number = k.number
    let expected : Nat := ((f.minNext.find? fun p => p.1 = (k.src, k.part, k.stream)).map fun p => p.2).getD 0
    let signs (t : State) (x : Signal) : State := { t with fabric := { t.fabric with signals := t.fabric.signals ++ [x] } }
    let noted (f : Fabric) : Fabric :=
      { f with
        seen := (k.src, k.part, k.number) :: f.seen
        minNext := if k.stream = 0 then f.minNext
          else ((k.src, k.part, k.stream), k.index + 1) :: f.minNext.filter fun p => p.1 ≠ (k.src, k.part, k.stream) }
    let after (t : State) : State := signs { t with fabric := noted t.fabric } (.ack k.src k.part k.number)
    (k.hop ≠ me → e = .next s)
    ∧ (k.hop = me → k.full = true → e = .next (signs s (.again k.src k.part k.number)))
    ∧ (k.hop = me → k.full = false → k.dst ≠ me → ∃ r, r.packet = { k with hop := k.dst }
        ∧ e = .next { s with fabric := { f with relayed := (f.relayed.filter fun r => decide (s.clk < r.leaves)) ++ [r] } })
    ∧ (k.hop = me → k.full = false → k.dst = me → (∃ x ∈ f.heldMin ++ f.ingress, same x) → e = .next s)
    ∧ (k.hop = me → k.full = false → k.dst = me → (∀ x ∈ f.heldMin ++ f.ingress, ¬ same x) →
      (seen → (∀ g, k.payload ≠ .fragment g) → e = .next (signs s (.ack k.src k.part k.number)))
      ∧ (¬ seen → k.stream ≠ 0 → expected < k.index → e = .next { s with fabric := { f with heldMin := f.heldMin ++ [k] } })
      ∧ (¬ seen → (k.stream = 0 ∨ k.index ≤ expected) → s.deliverPod k = none →
          let old := f.waitingBytes k.diePort fun _ => true
          (Config.ingressBytes < old + k.bytes → e = .next (signs s (.again k.src k.part k.number)))
          ∧ (4 * (old + k.bytes) ≤ 3 * Config.ingressBytes → e = .next { s with fabric := { f with ingress := f.ingress ++ [k] } })
          ∧ (old + k.bytes ≤ Config.ingressBytes → ∃ t, e = .next t ∧ t.fabric.ingress = f.ingress ++ [k] ∧ t.mem = s.mem
              ∧ (4 * old ≤ 3 * Config.ingressBytes → 3 * Config.ingressBytes < 4 * (old + k.bytes) →
                  ∃ c, 1 ≤ c ∧ c ≤ 15 ∧ t.fabric.signals = f.signals ++ (t.fabric.worst k.diePort).map (fun x => .notice x c))))
      ∧ (¬ seen → (k.stream = 0 ∨ k.index ≤ expected) → f.heldMin = [] → f.ingress = [] →
        (∀ pa data bad rel tag, k.payload = .write pa data bad rel tag → paSpace pa = 0 ∨ paSpace pa = 3 →
          e = .next (after ((s.invalidate pa data.length).pokePoison 0 pa data bad rel)))
        ∧ (∀ pa len tag, k.payload = .read pa len tag → paSpace pa = 0 → poisonedIn s.poison pa len = false →
          let u := (s.recallRange pa len).readDone pa len
          e = .next (after (u.sendPod k.src k.part k.cls { core := 0, home := u.home pa, lane := minLane pa }
            (.reply tag ((s.recallRange pa len).peek pa len) [] (recordsOf u.releases (words8 pa len)))).1))
        ∧ (∀ pa len tag, k.payload = .read pa len tag → paSpace pa = 0 → poisonedIn s.poison pa len = true →
          ∃ t x, e = .next t ∧ t.mem = s.mem ∧ t.fabric.kept = f.kept ++ [x] ∧ x.packet.dst = k.src
            ∧ x.packet.payload = .reply tag (s.peek pa len) (badBytes s.poison pa len) (recordsOf s.releases (words8 pa len)))
        ∧ (∀ op wide ret pa operand compare rel tag, k.payload = .atomic op wide ret pa operand compare rel tag → ∃ r : SvcReq,
          let quad := s.servingQuad pa
          e = .next (after (s.fresh.setService quad { s.service quad with waiting := (s.service quad).waiting ++ [r] }))
          ∧ r.pa = pa ∧ r.operand = operand ∧ r.compare = compare ∧ r.wide = wide ∧ r.ret = ret ∧ r.op = op.code.1
          ∧ r.reply = some (k.src, k.part, tag) ∧ r.scope = rel.map (fun x => x.1) ∧ r.origin = rel.map (fun x => x.2))
        ∧ (∀ pa tag, k.payload = .fetch pa true tag → s.ownDram pa = true → paBad pa = false →
          ∃ t, e = .next t ∧ t.lent.getLast? = some (pa / 128) ∧ ∀ p ∈ t.dies, ∀ l ∈ p.2.lines, l.1 ≠ pa / 128)
        ∧ (∀ g u dropped, k.payload = .fragment g → s.fragmentTurn (arrived g) = true → s.reachWindow (arrived g) = some (u, dropped) →
            u.fabric = f → e = .next (after u))))

/-- R398, R399, R400, R401, R402: the transport of what was sent. A packet of a stream keeps the plane of its stream, and any other
takes the shortest queue. Acknowledgements, the two retransmissions, which exclude each other, rate notices and their decay, a
plane that fails, and a negative acknowledgement over Ultra Ethernet. -/
def Rules.PodTransport : Prop :=
  (∀ (f : Fabric) (k : Kept) (clk : Nat),
    (f.emit k clk).packet = k.packet ∧ (f.emit k clk).sentAt = clk
    ∧ (∀ w, k.packet.stream ≠ 0 → f.ways = [((k.packet.dst, k.packet.stream), w)] → (f.emit k clk).plane = w)
    ∧ (k.packet.stream = 0 → f.planes ≠ 0 → f.planes.getLsbD (f.emit k clk).plane = true
        ∧ ∀ p, f.planes.getLsbD p = true →
          (f.leaving (f.emit k clk).plane k.packet.hop clk).length ≤ (f.leaving p k.packet.hop clk).length))
  ∧ (∀ (s : State) (id : Nat) (k : Kept), (s.fabric.kept.filter fun x => x.id = id) = [k] →
    let f := s.fabric
    let with_ (g : Fabric) (x : Kept) : Fabric :=
      Fabric.settleWay { g with kept := g.kept.map fun y => if y.id = x.id then g.emit x s.clk else y } (g.emit x s.clk)
    let again (x : Kept) : State := { s with fabric := with_ f x }
    let due : Prop := k.plane ≠ 256 ∧ k.sentAt + 42000 ≤ s.clk
    (k.resent ≠ some false → k.plane ≠ 256 → exec (.retransmitRequest id) s = .next (again { k with resent := some true }))
    ∧ (k.resent = some false ∨ k.plane = 256 → exec (.retransmitRequest id) s = .next s)
    ∧ (k.resent ≠ some true → due → exec (.podRetransmitTimeout id) s = .next (again { k with resent := some false }))
    ∧ (k.resent = some true ∨ ¬ due → exec (.podRetransmitTimeout id) s = .next s)
    ∧ (let kept := f.kept.filter fun x => x.id ≠ id
      let u : State := {
        s with
        fabric := { f with kept := kept }
        placements := s.placements.filterMap fun p =>
          if id ∈ p.sent then (if p.sent.all (fun x => x = id) = true then none else some { p with sent := p.sent.filter fun x => x ≠ id }) else some p
        net := s.net.filter fun a => a.sent ≠ some id || match a.work with
          | .load _ _ _ _ => true
          | .svc r _ => r.ret
          | _ => false }
      let held := kept.filter fun x => x.plane = 256 ∧ x.packet.dst = k.packet.dst ∧ x.packet.stream = k.packet.stream
      let shut : Prop := k.packet.stream ≠ 0
        ∧ ∃ x ∈ kept, x.packet.dst = k.packet.dst ∧ x.packet.stream = k.packet.stream ∧ x.moved = true
      (shut ∨ held = [] → exec (.podAck id) s = .next u)
      ∧ (∀ x, ¬ shut → held = [x] → (∀ y ∈ kept, y.id = x.id → y = x) →
          let g : Fabric := { f with kept := kept }
          exec (.podAck id) s = .next { u with fabric := with_ g x })))
  ∧ (∀ (s : State) (dest code : Nat),
      let f := s.fabric
      let set (c : Nat) : State := { s with fabric := { f with codes := put f.codes dest (c, s.clk) } }
      (1 ≤ code → code ≤ 15 → exec (.backNotice dest code) s = .next (set (max (f.code dest).1 code)))
      ∧ (2 ≤ (f.code dest).1 → (f.code dest).2 + 1024 ≤ s.clk → exec (.pacingDecay dest) s = .next (set ((f.code dest).1 - 1)))
      ∧ ((f.code dest).1 = 1 → (f.code dest).2 + 1024 ≤ s.clk →
          exec (.pacingDecay dest) s = .next { s with fabric := { f with codes := f.codes.filter fun p => p.1 ≠ dest } })
      ∧ ((f.code dest).1 = 0 ∨ s.clk < (f.code dest).2 + 1024 → exec (.pacingDecay dest) s = .next s))
  ∧ (∀ (s : State) (plane : Nat), plane < 256 → s.fabric.planes.getLsbD plane = true →
      ∃ planes : BitVec 256, (∀ i, planes.getLsbD i = (s.fabric.planes.getLsbD i && decide (i ≠ plane)))
        ∧ (let g : Fabric := { s.fabric with planes := planes, ways := s.fabric.ways.filter fun w => w.2 ≠ plane }
          ((∀ k ∈ g.kept, k.plane ≠ plane) → exec (.planeFail plane) s = .next { s with fabric := g })
          ∧ ∀ k, (g.kept.filter fun x => x.plane = plane) = [k] → (∀ x ∈ g.kept, x.id = k.id → x = k) →
              let k' := g.emit { k with moved := true } s.clk
              exec (.planeFail plane) s = .next { s with
                fabric := Fabric.settleWay { g with kept := g.kept.map fun x => if x.id = k.id then k' else x } k' }))
  ∧ ∀ (s : State) (id : Nat) (p : Placement) (uep mode window off seq phase sends : Nat) (isWindow : Bool) (data : List Byte),
      (s.placements.find? fun x => x.id = id) = some p → p.what = .ue uep mode window off seq phase isWindow data (sends + 1) → mode ≠ 2 →
      (∀ x ∈ s.placements, x.id = id → x = p) →
      exec (.negativeAcknowledgement id) s = .next { s with
        draws := s.draws + 1
        placements := s.placements.map fun x =>
          if x.id = id then { x with port := s.uePort uep mode, what := .ue uep mode window off seq phase isWindow data (sends + 2) } else x }

/-! ## The host, errors and package management -/

/-- R103, R404, R407, R419: UNCORRECTABLE_ERROR poisons a granule; BAR2 reads and writes the package's DRAM and reads all
ones beyond it; POD_TIME_MEASURE takes an offset once every 65,536 clk, of a package numbered no higher, and locks after four
within 4 clk. -/
def Rules.HostAndErrors : Prop :=
  (∀ (s : State) (pa g : Nat), s.ownDram pa = true → pa % 2 ^ 44 < 576 * 2 ^ 30 →
    ∃ t, exec (.uncorrectableError (.dram pa)) s = .next t ∧ (g ∈ t.poison ↔ g ∈ s.poison ∨ g = pa / 32) ∧ t.mem = s.mem ∧ t.waves = s.waves)
  ∧ (∀ (s : State) (wg off g : Nat) (x : Workgroup), s.wg? wg = some x → x.id = wg → off < x.vaultSize →
      ∃ t y, exec (.uncorrectableError (.vault wg off)) s = .next t ∧ t.wg? wg = some y ∧ y.vault = x.vault
        ∧ (g ∈ y.poison ↔ g ∈ x.poison ∨ g = off / 32))
  ∧ (∀ (s : State) (off : Nat), s.system.ready = true →
      let pa := s.system.pkgid * 2 ^ 47 + off
      (∀ len, off + len ≤ 576 * 2 ^ 30 → len ≤ 4096 → s.soft = [] → s.lent = [] → poisonedIn s.poison pa len = false →
        ∃ t, exec (.hostBar2Access off (.read len)) s = .next t ∧ t.mem = s.mem
          ∧ t.system.responses = s.system.responses ++ [s.peek pa len])
      ∧ (∀ len, 576 * 2 ^ 30 ≤ off → off < 2 ^ 40 → len ≤ 4096 →
        ∃ t, exec (.hostBar2Access off (.read len)) s = .next t ∧ t.mem = s.mem
          ∧ t.system.responses = s.system.responses ++ [List.replicate len 0xFF])
      ∧ (∀ data, data ≠ [] → data.length ≤ 512 → off + data.length ≤ 576 * 2 ^ 30 →
        exec (.hostBar2Access off (.write data)) s = .next ((s.invalidate pa data.length).poke 0 pa data none)))
  ∧ ∀ (s : State) (reference : Nat) (offset : Int), (s.clk % 65536 ≠ 0 ∨ s.system.measuredAt = some s.clk ∨ s.fabric.planes = 0
        ∨ s.system.pkgid < reference → exec (.podTimeMeasure reference offset) s = .next s)
    ∧ (s.clk % 65536 = 0 → s.system.measuredAt ≠ some s.clk → s.fabric.planes ≠ 0 → reference ≤ s.system.pkgid →
      let y := s.system
      let o : Int := if reference = y.pkgid then 0 else offset
      let run := if -4 ≤ o ∧ o ≤ 4 then y.lockRun + 1 else 0
      exec (.podTimeMeasure reference offset) s = .next { s with system := {
        y with ref_ := reference, offset := o, lockRun := run, lock := decide (4 ≤ run), slew := o, measuredAt := some s.clk } })

/-- R351, R423: POWER_EVALUATE lowers the limits near the cap or the throttle temperature, COLL, then BULK, then DRAIN by
halves and last MAT, and raises them in the reverse order below it; it and THERMAL_TRIP stop every pane at 115 °C. -/
def Rules.PowerControl : Prop :=
  (∀ (s : State) (average fast temp : Nat), s.clk % 4096 = 0 → average ≤ 8191 → temp < 115 →
    let p := s.power
    let q : Power := { p with
      avg := average, temp := temp
      stopped := if p.stopped then decide (p.cap ≤ fast) else decide (11 * p.cap < 10 * fast) }
    let e := exec (.powerEvaluate average fast temp) s
    let set (x : Power) : Host.Outcome State Fault Refusal := .next { s with power := x }
    let near : Prop := p.cap < average + 50 ∨ p.throt ≤ temp
    let clear : Prop := ¬ near ∧ average + 150 < p.cap
    (near → p.collLimit ≠ 0 → e = set { q with collLimit := p.collLimit / 2 })
    ∧ (near → p.collLimit = 0 → p.bulkLimit ≠ 0 → e = set { q with bulkLimit := p.bulkLimit / 2 })
    ∧ (near → p.collLimit = 0 → p.bulkLimit = 0 → p.drainLimit ≠ 0 → e = set { q with drainLimit := p.drainLimit / 2 })
    ∧ (near → p.collLimit = 0 → p.bulkLimit = 0 → p.drainLimit = 0 → e = set { q with matLimit := p.matLimit - p.matSize / 16 })
    ∧ (clear → p.matLimit < p.matSize → e = set { q with matLimit := min p.matSize (p.matLimit + p.matSize / 16) })
    ∧ (clear → p.matSize ≤ p.matLimit → p.drainLimit < p.drainSize →
        e = set { q with drainLimit := min p.drainSize (max 1 (2 * p.drainLimit)) })
    ∧ (clear → p.matSize ≤ p.matLimit → p.drainSize ≤ p.drainLimit → p.bulkLimit < p.bulkSize →
        e = set { q with bulkLimit := min p.bulkSize (max 1 (2 * p.bulkLimit)) })
    ∧ (clear → p.matSize ≤ p.matLimit → p.drainSize ≤ p.drainLimit → p.bulkSize ≤ p.bulkLimit →
        e = set { q with collLimit := min p.collSize (max 1 (2 * p.collLimit)) })
    ∧ (¬ near → ¬ clear → e = set q))
  ∧ (∀ (s : State) (average fast temp : Nat), s.clk % 4096 = 0 → 115 ≤ temp →
      ∃ t, exec (.powerEvaluate average fast temp) s = .next t ∧ t.power.tripped = true ∧ t.power.temp = min temp 255
        ∧ t.system.err = 3)
  ∧ ∀ (s : State) (temp : Nat), temp ≤ 255 →
      (115 ≤ temp → exec (.thermalTrip temp) s = .next {
        s with power := { s.power with temp := temp, tripped := true }, system := { s.system with err := 3 } })
      ∧ (temp < 115 → exec (.thermalTrip temp) s = .next s)

/-- R419, R420, R421: PACKAGE_RESET boots slot A, or slot B where the ROM refuses A, and waits for the recovery image where it
refuses both; everything but DRAM, flash and fuses is as reset leaves it. -/
def Rules.PackageResets : Prop :=
  (∀ (y : System) (img : List Byte),
    let part (at_ n : Nat) : List Byte := (img.drop at_).take n
    let len := leNat (part 16 8)
    let key := leNat (part 8 1)
    y.accepts img = true ↔ 256 + len ≤ img.length ∧ leNat (part 0 4) = 0x5A4B4657 ∧ (∀ b ∈ part 9 7, b = 0) ∧ (∀ b ∈ part 168 88, b = 0)
      ∧ key < 4 ∧ y.revoked.getLsbD key = false ∧ Config.verify key (part 0 72) (part 72 96) = true ∧ y.minSvn ≤ leNat (part 4 4)
      ∧ Config.sha384 ((img.drop 256).take len) = part 24 48)
  ∧ (∀ s : State,
      let y := s.system
      let booted (t : State) (err : Nat) : Prop :=
        t.system.ready = true ∧ t.system.stage = 5 ∧ t.system.err = err ∧ t.system.pkgid = Config.packageIndex % 32
          ∧ t.system.dies = Config.diesUp ∧ t.waves = [] ∧ t.wgs = [] ∧ t.entries = [] ∧ t.mem = s.mem ∧ t.poison = s.poison ∧ t.soft = s.soft
          ∧ t.dies = State.reset.dies ∧ t.cores = State.reset.cores ∧ t.parts = State.reset.parts ∧ t.power = State.reset.power
      let clean (x : System) : System := { System.reset with
        slotA := x.slotA, slotB := x.slotB, minSvn := x.minSvn, revoked := x.revoked }
      ((clean y).accepts y.slotA = true → ∃ t, exec .packageReset s = .next t ∧ booted t 0)
      ∧ ((clean y).accepts y.slotA = false → (clean y).accepts y.slotB = true →
          ∃ t, exec .packageReset s = .next t ∧ (booted t 0 ∨ booted t 1))
      ∧ ((clean y).accepts y.slotA = false → (clean y).accepts y.slotB = false →
          ∃ t, exec .packageReset s = .next t ∧ t.system.ready = false ∧ t.system.err = 2 ∧ t.system.stage = 1 ∧ t.mem = s.mem))
  ∧ ∀ (s : State) (img : List Byte), s.system.ready = false → s.system.err = 2 →
      (s.system.accepts img = true → ∃ t, exec (.recoveryImage img) s = .next t ∧ t.system.ready = true ∧ t.system.stage = 5 ∧ t.mem = s.mem)
      ∧ (s.system.accepts img = false → exec (.recoveryImage img) s = .next s)

/-- R406, R422: the SPDM requests: each answers over DOE; GET_VERSION gives version 1.2; NEGOTIATE_ALGORITHMS names, of the
requester's offer, ECDSA P-384 and SHA-384 only; GET_MEASUREMENTS gives the seven measurements, each 48 zero bytes or
as extended, signed over the request's nonce. -/
def Rules.SpdmResponses : Prop :=
  ∀ (s : State) (nonce : List Byte),
    let answer (bytes : List Byte) : Host.Outcome State Fault Refusal :=
      .next { s with system := { s.system with responses := s.system.responses ++ [bytes] } }
    let measure (i : Nat) : List Byte := ((s.system.measures.find? fun p => p.1 = i).map fun p => p.2).getD (List.replicate 48 0)
    let all : List Byte := measure 1 ++ measure 2 ++ measure 3 ++ measure 4 ++ measure 5 ++ measure 6 ++ measure 7
    exec .getVersion s = answer (Config.spdm 0 [1, 2]) ∧ exec .getCapabilities s = answer (Config.spdm 1 [])
    ∧ exec .negotiateAlgorithms s = answer (Config.spdm 2
        ((if SpdmAlgorithm.ecdsaP384 ∈ s.system.offer then [1] else []) ++ if SpdmAlgorithm.sha384 ∈ s.system.offer then [2] else [])) ∧ exec .getDigests s = answer (Config.spdm 3 [])
    ∧ exec .getCertificate s = answer (Config.spdm 4 [])
    ∧ exec (.challenge nonce) s = answer (Config.spdm 5 nonce ++ Config.sign (nonce ++ Config.spdm 5 nonce))
    ∧ exec (.getMeasurements nonce) s = answer (all ++ Config.sign (nonce ++ all))
    ∧ ∀ (y : System) (i j : Nat) (d : List Byte),
        lookD (List.replicate 48 0) (y.extend i d).measures j =
          if j = i then Config.sha384 (lookD (List.replicate 48 0) y.measures i ++ d) else lookD (List.replicate 48 0) y.measures j

/-! ## Issue groups of several lanes -/

/-- R25, R111: an instruction whose threads each act on their own acts lane after lane, in ascending order: one step per
lane, whatever the group, which the statements about one lane give. -/
def Rules.LaneByLane : Prop :=
  let each : List ((Fields → Instr) × Level × (Fields → Shape)) :=
    [(.bra, .user, shapeBra), (.brx, .user, shapeA64), (.call, .user, shapeCall), (.callx, .user, shapeCallx), (.ret, .user, shapeA64),
      (.yield, .user, shapeBare), (.sleep, .user, shapeA32), (.sleepto, .user, shapeA64), (.trap, .user, shapeTrap),
      (.bkpt, .user, shapeA32), (.wsync, .user, shapeA32), (.launch, .user, shapeLaunch), (.amsend, .user, shapeAmsend),
      (.cvt, .user, shapeCvt), (.cvtp, .user, shapeCvtp), (.nodea, .user, shapeNodea),
      (.ldv, .user, shapeLdv), (.stv, .user, shapeStv), (.ld, .user, shapeLd), (.st, .user, shapeSt), (.ldl, .user, shapeLdl),
      (.atom, .user, shapeAtom), (.red, .user, shapeRed), (.fence, .user, shapeFence), (.pref, .user, shapePref),
      (.bufdecl, .user, shapeBufdecl), (.bufset, .user, shapeBufset), (.bufq, .user, shapeBufq),
      (.xcopy, .user, shapeXcopy), (.xgath, .user, shapeXgath), (.xfill, .user, shapeXfill), (.xdrain, .user, shapeXdrain),
      (.xstat, .user, shapeXstat), (.xwait, .user, shapeXwait), (.ltinit, .user, shapeAB), (.ltexp, .user, shapeLtexp),
      (.ltarr, .user, fun f => shapeDAB f 0), (.ltwait, .user, shapeAB), (.lttry, .user, shapeTry), (.phwait, .user, shapeAB),
      (.phtry, .user, shapeTry), (.rdcap, .user, shapeRdcap), (.rdrmw, .user, shapeRdrmw), (.rdboard, .user, shapeRdboard),
      (.rdalight, .user, shapeRdalight), (.rdfence, .user, shapeDOnly), (.rdcancel, .user, shapeDOnly),
      (.mwait, .user, fun f => shapeDA f 0), (.aread, .user, shapeAread), (.awrite, .user, shapeAwrite), (.ptread, .user, shapePtread),
      (.cwarm, .user, shapeCwarm), (.cwstat, .user, shapeCwstat), (.csrr, .super, fun f => shapeDA f 0), (.csrw, .super, shapeCsrw),
      (.tlbinv, .super, shapeTlbinv), (.eret, .super, shapeBare), (.snap, .sys, shapeSnap), (.svcrecv, .sys, shapeSvcrecv),
      (.svcreply, .sys, shapeSvcreply), (.halt, .sys, shapeA32)]
  ∀ x ∈ each, ∀ f, ∃ lane : Nat → Nat → State → Nat → State, ∀ s w lanes, Group x.2.1 (x.2.2 f) f s w lanes →
    exec (x.1 f) s = .next (lanes.foldl (lane w.id (w.seq + 1)) (s.counted w))

/-- R39, R210: a wave instruction has one effect for its group: where no qualifying predicate is true each thread steps past
it, pushing its zeros, and nothing else changes; where two participating threads read different values of an operand, every
thread of the group takes ILLEGAL. -/
def Rules.WaveInstructionsAgree : Prop :=
  let wave : List ((Fields → Instr) × (Fields → Shape)) :=
    [(.ivl, shapeA32), (.phreg, shapePhreg), (.phdrop, shapeA32), (.phsig, fun f => shapeDA f 0), (.phnext, fun f => shapeDA f 0),
      (.rgrow, fun f => shapeDA f 0), (.rshrink, fun f => shapeDA f 0), (.aclr, fun f => shapeDA f 0), (.msign, shapeMsign),
      (.mtrans, shapeMtrans), (.mperm, fun f => shapeDABC f 7), (.mrsum, shapeMrsum), (.adrain, shapeAdrain),
      (.knock, fun f => shapeDAB f 1), (.desc, shapeDesc), (.pgroup, fun f => shapeDABC f 0), (.dgrad, shapeDgrad), (.oload, shapeOload)]
  ∀ x ∈ wave, ∀ f s w lanes, Group .user (x.2 f) f s w lanes →
    ((∀ l ∈ lanes, ∀ t, w.threads[l]? = some t → t.qual f = false) →
      exec (x.1 f) s = .next (s.setWave (w.mapLanes lanes fun _ t => t.off (x.2 f) f)))
    ∧ ((∃ l ∈ w.clearLanes (x.2 f) f lanes, ∃ m ∈ w.clearLanes (x.2 f) f lanes, ∃ t u, w.threads[l]? = some t ∧ w.threads[m]? = some u
          ∧ read32 s w l (t.issued s (x.2 f) f) f f.a ≠ read32 s w m (u.issued s (x.2 f) f) f f.a) →
      exec (x.1 f) s = .next (s.setWave (w.mapLanes lanes fun _ t => t.fault .illegal 7 (w.seq + 1))))

/-! ## The assembler -/

/-- R141, R162: an instruction stands after the fewest PAD32 words with which it crosses no 32-byte boundary, the labels that
wait bind to its own address, and a PAD32 word is 0x0000_0003. -/
def Rules.AssemblerPads : Prop :=
  (∀ (w : Asm.Work) (line : Nat) (d : Asm.Draft) (records : Option (Option Nat)), w.here % 4 = 0 →
    ∃ n : Nat,
      let at' := w.here + 4 * n
      let it : Asm.Item := { line := line, addr := at', draft := d, env := w.env, records := records }
      at' % 32 + d.f.form.len ≤ 32
      ∧ (∀ k < n, 32 < (w.here + 4 * k) % 32 + d.f.form.len)
      ∧ (w.emit line d records).here = at' + d.f.form.len
      ∧ (w.emit line d records).image = .item it :: (if n = 0 then w.image else .pads n :: w.image)
      ∧ (w.emit line d records).kernel.items = it :: w.kernel.items
      ∧ (∀ s ∈ w.pending, (s, at') ∈ (w.emit line d records).kernel.labels)
      ∧ (w.emit line d records).pending = [])
  ∧ (∀ (n : Nat) (ks : List Asm.Kernel) (data : List (String × Nat)),
      (Asm.Chunk.pads (n + 1)).bytes ks data = ((Asm.Chunk.pads n).bytes ks data).map ([3, 0, 0, 0] ++ ·))

/-- R158, R159, R166: an assembled instruction is one that R143 to R151 accept, its immediates are one value, and no shorter
form holds the statement. -/
def Rules.AssemblerForms : Prop :=
  (∀ (it : Asm.Item) (k : Asm.Kernel) (ks : List Asm.Kernel) (data : List (String × Nat)) (i : Instr),
    it.instr k ks data = .ok i →
      i.wellFormed = true
      ∧ ∃ imm : Word, i = Instr.ofOpc (BitVec.ofNat 8 it.draft.opc) { it.draft.f with imm := imm }
        ∧ ∀ m ∈ it.draft.imms, m.resolve (k.env ks data it.env) ks k.entry it.addr = .ok imm)
  ∧ (∀ (env : Asm.Env) (opc : Nat) (os : List Asm.Oper) (shorter longer : List Fields) (f : Fields) (d : Asm.Draft),
    (∀ g ∈ shorter, Asm.inForm env opc g os = .error .operands ∨ Asm.inForm env opc g os = .error .undefinedName) → Asm.inForm env opc f os = .ok d →
      Asm.firstForm env opc os (shorter ++ f :: longer) = .ok d)

/-! ## The statements of several parts -/

/-- R136, R137, R138, R139, R304, R305, R306: Every bit of an instruction is read, and collective words and instructions determine each other. -/
def Obligations.EncodingsAgree : Prop :=
  Rules.EncodeDecode ∧ Rules.CollectiveDecodeEncode

/-- R25, R141, R142, R155, R301, R305: A step runs the instruction that its move decodes. -/
def Obligations.StepRunsInstruction : Prop :=
  Rules.StepRunsFetched ∧ Rules.StepRunsOthers ∧ Rules.FetchesOldOrNew

/-- R14, R335, R373, R379, R409, R411, R418: What reset leaves, settled and with memory in canonical form. -/
def Obligations.ResetState : Prop :=
  Rules.ResetValues ∧ Rules.ResetSettled ∧ Rules.ResetMemory

/-- R151, R153, R154, R155: The checks of an instruction at issue, their order and their faults. -/
def Obligations.IssueChecks : Prop :=
  Rules.ChecksFault ∧ Rules.CheckOrder ∧ Rules.UnassignedOpcode

/-- R25, R39, R50, R111, R210: How an instruction acts on the lanes of its group: predicates, pending operands, lane order, agreement. -/
def Obligations.GroupsOfLanes : Prop :=
  Rules.FalsePredicatePushesZeros ∧ Rules.PendingOperandFaults ∧ Rules.LaneByLane ∧ Rules.WaveInstructionsAgree

/-- R185, R186: The bit, bit-field, byte and move instructions, bit by bit. -/
def Obligations.BitsAndBytes : Prop :=
  Rules.BitOperations ∧ Rules.BytesAndMoves

/-- R148, R149, R188, R189, R192: The compares with every condition and combining type, and the predicate instructions. -/
def Obligations.ComparesAndPredicates : Prop :=
  Rules.Comparisons ∧ Rules.Predicates

/-- R59, R61, R190, R191, R194: FADD, FMUL, FFMA, FMIN, FMAX and FRND round once, after their modifiers and before their clamp; BF16 pairs act on each half. -/
def Obligations.FloatBasics : Prop :=
  Rules.FloatArithmetic ∧ Rules.FloatMinimum ∧ Rules.BfloatPairs

/-- R66, R68, R195, R196, R197, R198: The conversions, fixed and through a format slot, and the class of a number. -/
def Obligations.Conversions : Prop :=
  Rules.FloatConversions ∧ Rules.SlotConversions

/-- R80, R199, R200: WSHFL, WVOTE and WREDUX over the participating threads, and the split order. -/
def Obligations.AcrossLanes : Prop :=
  Rules.WaveInstructions ∧ Rules.SplitOrderExample

/-- R141, R170, R171, R172: NOP, the transfers with their faults, and EXIT. -/
def Obligations.TransfersAndExit : Prop :=
  Rules.Nop ∧ Rules.Transfers ∧ Rules.Exit

/-- R173, R174, R176, R207: YIELD, the sleeps, WSYNC and HALT: how threads park and go on. -/
def Obligations.PausesAndHalts : Prop :=
  Rules.Pauses ∧ Rules.SyncAndHalt ∧ Rules.WsyncConverges ∧ Rules.SleepEnds

/-- R175, R371, R372, R373: TRAP and BKPT, what trap entry saves and changes, and the level that it enters. -/
def Obligations.TakingTraps : Prop :=
  Rules.SoftwareTraps ∧ Rules.TrapEntry ∧ Rules.TrapLevel

/-- R376, R378: Imprecise reports as they are taken, and debug control of a halted wave. -/
def Obligations.ReportsAndDebug : Prop :=
  Rules.ImpreciseReports ∧ Rules.DebugControl

/-- R85, R89, R213: LDV and STV, and the ranges that vault addresses name. -/
def Obligations.VaultMemory : Prop :=
  Rules.VaultAccess ∧ Rules.VaultAddresses

/-- R119, R120, R215, R218, R219: LD, LDL, ST, PREF and FENCE: what completes, what goes on its way and what waits. -/
def Obligations.GlobalMemory : Prop :=
  Rules.GlobalAccess ∧ Rules.Fences

/-- R206, R216, R217: ATOM and RED enter the store queue as requests of their lane. -/
def Obligations.AtomicRequests : Prop :=
  Rules.Atomics

/-- R38, R50, R51: Pending results in the queue and the registers, and how they arrive. -/
def Obligations.LateResults : Prop :=
  Rules.PendingResults ∧ Rules.ResultsArrive

/-- R79, R84, R105, R213: A write changes the bytes it stores to, and no other byte of memory or of any vault. -/
def Obligations.MemoryFrame : Prop :=
  Rules.WritesBytes ∧ Rules.VaultWrites

/-- R97, R99, R107, R111, R114, R119, R125: The store queue drains in order, and direct accesses, requests and lines move on. -/
def Obligations.MemoryMoves : Prop :=
  Rules.StoreQueueDrains ∧ Rules.MemoryEvents

/-- R30, R129, R206, R217: SVCRECV and SVCREPLY, and an atomic as one read and write of the home. -/
def Obligations.ServiceWaves : Prop :=
  Rules.ServiceInstructions ∧ Rules.AtomicsAtomic

/-- R93, R118, R223, R224: A latch applies an arrival, and the latch instructions with the ends of their waits. -/
def Obligations.LatchInstructions : Prop :=
  Rules.Latches ∧ Rules.LatchArrives

/-- R240, R241: The phaser and its phases, and the phaser instructions with the ends of their waits. -/
def Obligations.PhaserInstructions : Prop :=
  Rules.Phasers ∧ Rules.PhaserPhases

/-- R46, R52, R53, R177, R242: RGROW, RSHRINK and IVL: blocks granted, returned and kept resident. -/
def Obligations.BlocksAndIntervals : Prop :=
  Rules.RegisterBlocks ∧ Rules.Intervals

/-- R228, R230, R234, R235, R236, R237, R238, R408: The copy engine takes up, moves, ends and fails copies, and XSTAT and XWAIT follow them. -/
def Obligations.CopyMoves : Prop :=
  Rules.CopyEngine ∧ Rules.CopyStatus

/-- R243, R244, R245, R246, R247, R248, R249, R250, R251, R252: The ring instructions, and the slots as they pass the stations. -/
def Obligations.RingOperations : Prop :=
  Rules.RingIssue ∧ Rules.RingMoves

/-- R131, R254, R255, R258, R259, R260, R261, R262, R263, R264: OCLAIM, ORELEASE, OLOAD, OFENCE and LAYSET: claims, loads and layout records, and operands that are read in flight. -/
def Obligations.OperandSlots : Prop :=
  Rules.OperandSlots ∧ Rules.OperandsInFlight

/-- R118, R256, R257, R265, R266, R267, R268, R269, R270, R273, R284, R288: The matrix and descent instructions take tickets, MMA by signature, and MWAIT follows them. -/
def Obligations.TicketIssue : Prop :=
  Rules.TicketIssue ∧ Rules.Signatures ∧ Rules.TicketWaits

/-- R77, R278, R279, R287: Block scales, QBLK and QRES, and the address of a node record. -/
def Obligations.Quantisation : Prop :=
  Rules.BlockScales ∧ Rules.Quantisation ∧ Rules.NodeAddresses

/-- R31, R178, R179, R180, R335, R355: LAUNCH queues a record that its thread may read; AMSEND, the arrival of messages, and the handlers that they start. -/
def Obligations.LaunchesAndMessages : Prop :=
  Rules.Launches ∧ Rules.MessagesSent ∧ Rules.Handlers

/-- R202, R373: The levels of the register numbers, and CSRR and CSRW. -/
def Obligations.ControlRegisters : Prop :=
  Rules.RegisterLevels ∧ Rules.ControlRegisters

/-- R81, R83, R203, R357, R360, R362, R365, R366, R367: What an access gets from the TLBs, how walks end, and shoot-downs. -/
def Obligations.Translation : Prop :=
  Rules.TranslationChecks ∧ Rules.WalksComplete ∧ Rules.ShootDowns

/-- R205, R349, R351, R423, R424, R425: The shutter and its tick, and the control of power. -/
def Obligations.ShutterAndPower : Prop :=
  Rules.Shutter ∧ Rules.PowerControl

/-- R295, R296, R297, R299, R300, R301, R302, R303, R308, R328: CWARM and CWSTAT, the arming of windows, and fragments as they arrive. -/
def Obligations.WindowPhases : Prop :=
  Rules.WindowPhases ∧ Rules.FragmentsArrive

/-- R302, R304, R305, R306, R307, R315: The collective instructions of control and arithmetic, and how invocations end. -/
def Obligations.CollectiveArithmetic : Prop :=
  Rules.CollectiveArithmetic ∧ Rules.InvocationEnds

/-- R303, R304, R305, R308, R314: The bookkeeping instructions of collectives, and the fragment fields. -/
def Obligations.CollectiveBookkeeping : Prop :=
  Rules.CollectiveBookkeeping ∧ Rules.FragmentFields

/-- R291, R305, R312, R313, R314, R328: What the output instructions send, and how placements and phases end. -/
def Obligations.CollectiveOutput : Prop :=
  Rules.CollectiveOutput ∧ Rules.PlacementsBegin ∧ Rules.PlacementsDeliver

/-- R240, R335, R336, R337, R354, R355, R369, R429, R430: Writes of the queue registers, of the phaser shares, and PREQ. -/
def Obligations.QueueRegisters : Prop :=
  Rules.QueueRegisters ∧ Rules.PhaserShares ∧ Rules.PreemptRequests

/-- R27, R172, R333, R335, R338, R339, R340, R342, R355, R377: A record becomes an entry, is eligible and completes, and workgroups retire. -/
def Obligations.EntriesAndWorkgroups : Prop :=
  Rules.EntryLife ∧ Rules.WorkgroupsRetire

/-- R17, R18, R23, R174, R337, R339, R343, R352, R353, R355, R381, R384: Gangs are placed, saved and restored. -/
def Obligations.Gangs : Prop :=
  Rules.GangsPlaced ∧ Rules.GangsSaved

/-- R98, R253, R391, R392, R393, R411, R412, R414, R418, R426, R427: Layout changes, ring clears, frame ownership, slices and routers. -/
def Obligations.LayoutAndRouters : Prop :=
  Rules.LayoutChanges ∧ Rules.RingsAndFrames ∧ Rules.SlicesAndRouters

/-- R97, R101, R104, R123, R395, R397, R398, R399, R400, R401, R402: Pod packets, and the transport of what was sent. -/
def Obligations.PodFabric : Prop :=
  Rules.PodPackets ∧ Rules.PodTransport

/-- R103, R404, R406, R407, R419, R420, R421, R422: Host accesses, errors, boots of the package and SPDM. -/
def Obligations.PackageAndHost : Prop :=
  Rules.HostAndErrors ∧ Rules.PackageResets ∧ Rules.SpdmResponses

/-- R141, R158, R159, R162, R166: The assembler pads an instruction by the fewest words, and emits only accepted encodings in the shortest form. -/
def Obligations.Assembler : Prop :=
  Rules.AssemblerPads ∧ Rules.AssemblerForms
end

