-- ==== Sys2Proof/Laws/State.lean ====
section
/-! SUPPORT. One lemma per field for each update of a state and of a thread: a field that the update does not
name is unchanged. -/

namespace Sys2Proof.Machine

open Sys2Proof

/-! ## `State.setCore` -/

section

variable (s : State) (c : Nat) (v : Core)
@[simp] theorem State.setCore_clk : (s.setCore c v).clk = s.clk := rfl
@[simp] theorem State.setCore_pcc : (s.setCore c v).pcc = s.pcc := rfl
@[simp] theorem State.setCore_mem : (s.setCore c v).mem = s.mem := rfl
@[simp] theorem State.setCore_poison : (s.setCore c v).poison = s.poison := rfl
@[simp] theorem State.setCore_soft : (s.setCore c v).soft = s.soft := rfl
@[simp] theorem State.setCore_releases : (s.setCore c v).releases = s.releases := rfl
@[simp] theorem State.setCore_lent : (s.setCore c v).lent = s.lent := rfl
@[simp] theorem State.setCore_arrivals : (s.setCore c v).arrivals = s.arrivals := rfl
@[simp] theorem State.setCore_launched : (s.setCore c v).launched = s.launched := rfl
@[simp] theorem State.setCore_frames : (s.setCore c v).frames = s.frames := rfl
@[simp] theorem State.setCore_waves : (s.setCore c v).waves = s.waves := rfl
@[simp] theorem State.setCore_wgs : (s.setCore c v).wgs = s.wgs := rfl
@[simp] theorem State.setCore_gangs : (s.setCore c v).gangs = s.gangs := rfl
@[simp] theorem State.setCore_saved : (s.setCore c v).saved = s.saved := rfl
@[simp] theorem State.setCore_entries : (s.setCore c v).entries = s.entries := rfl
@[simp] theorem State.setCore_parts : (s.setCore c v).parts = s.parts := rfl
@[simp] theorem State.setCore_dies : (s.setCore c v).dies = s.dies := rfl
@[simp] theorem State.setCore_services : (s.setCore c v).services = s.services := rfl
@[simp] theorem State.setCore_diePh : (s.setCore c v).diePh = s.diePh := rfl
@[simp] theorem State.setCore_pkgPh : (s.setCore c v).pkgPh = s.pkgPh := rfl
@[simp] theorem State.setCore_podPh : (s.setCore c v).podPh = s.podPh := rfl
@[simp] theorem State.setCore_tvec : (s.setCore c v).tvec = s.tvec := rfl
@[simp] theorem State.setCore_net : (s.setCore c v).net = s.net := rfl
@[simp] theorem State.setCore_blocked : (s.setCore c v).blocked = s.blocked := rfl
@[simp] theorem State.setCore_ringOps : (s.setCore c v).ringOps = s.ringOps := rfl
@[simp] theorem State.setCore_windows : (s.setCore c v).windows = s.windows := rfl
@[simp] theorem State.setCore_wtable : (s.setCore c v).wtable = s.wtable := rfl
@[simp] theorem State.setCore_programs : (s.setCore c v).programs = s.programs := rfl
@[simp] theorem State.setCore_endpoints : (s.setCore c v).endpoints = s.endpoints := rfl
@[simp] theorem State.setCore_placements : (s.setCore c v).placements = s.placements := rfl
@[simp] theorem State.setCore_fabric : (s.setCore c v).fabric = s.fabric := rfl
@[simp] theorem State.setCore_power : (s.setCore c v).power = s.power := rfl
@[simp] theorem State.setCore_system : (s.setCore c v).system = s.system := rfl
@[simp] theorem State.setCore_cur : (s.setCore c v).cur = s.cur := rfl
@[simp] theorem State.setCore_agenda : (s.setCore c v).agenda = s.agenda := rfl
@[simp] theorem State.setCore_turn : (s.setCore c v).turn = s.turn := rfl
@[simp] theorem State.setCore_draws : (s.setCore c v).draws = s.draws := rfl
@[simp] theorem State.setCore_nextId : (s.setCore c v).nextId = s.nextId := rfl

end

/-! ## `State.setDie` -/

section

variable (s : State) (d : Nat) (v : Die)
@[simp] theorem State.setDie_clk : (s.setDie d v).clk = s.clk := rfl
@[simp] theorem State.setDie_pcc : (s.setDie d v).pcc = s.pcc := rfl
@[simp] theorem State.setDie_mem : (s.setDie d v).mem = s.mem := rfl
@[simp] theorem State.setDie_poison : (s.setDie d v).poison = s.poison := rfl
@[simp] theorem State.setDie_soft : (s.setDie d v).soft = s.soft := rfl
@[simp] theorem State.setDie_releases : (s.setDie d v).releases = s.releases := rfl
@[simp] theorem State.setDie_lent : (s.setDie d v).lent = s.lent := rfl
@[simp] theorem State.setDie_arrivals : (s.setDie d v).arrivals = s.arrivals := rfl
@[simp] theorem State.setDie_launched : (s.setDie d v).launched = s.launched := rfl
@[simp] theorem State.setDie_frames : (s.setDie d v).frames = s.frames := rfl
@[simp] theorem State.setDie_waves : (s.setDie d v).waves = s.waves := rfl
@[simp] theorem State.setDie_wgs : (s.setDie d v).wgs = s.wgs := rfl
@[simp] theorem State.setDie_gangs : (s.setDie d v).gangs = s.gangs := rfl
@[simp] theorem State.setDie_saved : (s.setDie d v).saved = s.saved := rfl
@[simp] theorem State.setDie_entries : (s.setDie d v).entries = s.entries := rfl
@[simp] theorem State.setDie_parts : (s.setDie d v).parts = s.parts := rfl
@[simp] theorem State.setDie_cores : (s.setDie d v).cores = s.cores := rfl
@[simp] theorem State.setDie_services : (s.setDie d v).services = s.services := rfl
@[simp] theorem State.setDie_diePh : (s.setDie d v).diePh = s.diePh := rfl
@[simp] theorem State.setDie_pkgPh : (s.setDie d v).pkgPh = s.pkgPh := rfl
@[simp] theorem State.setDie_podPh : (s.setDie d v).podPh = s.podPh := rfl
@[simp] theorem State.setDie_tvec : (s.setDie d v).tvec = s.tvec := rfl
@[simp] theorem State.setDie_net : (s.setDie d v).net = s.net := rfl
@[simp] theorem State.setDie_blocked : (s.setDie d v).blocked = s.blocked := rfl
@[simp] theorem State.setDie_ringOps : (s.setDie d v).ringOps = s.ringOps := rfl
@[simp] theorem State.setDie_windows : (s.setDie d v).windows = s.windows := rfl
@[simp] theorem State.setDie_wtable : (s.setDie d v).wtable = s.wtable := rfl
@[simp] theorem State.setDie_programs : (s.setDie d v).programs = s.programs := rfl
@[simp] theorem State.setDie_endpoints : (s.setDie d v).endpoints = s.endpoints := rfl
@[simp] theorem State.setDie_placements : (s.setDie d v).placements = s.placements := rfl
@[simp] theorem State.setDie_fabric : (s.setDie d v).fabric = s.fabric := rfl
@[simp] theorem State.setDie_power : (s.setDie d v).power = s.power := rfl
@[simp] theorem State.setDie_system : (s.setDie d v).system = s.system := rfl
@[simp] theorem State.setDie_cur : (s.setDie d v).cur = s.cur := rfl
@[simp] theorem State.setDie_agenda : (s.setDie d v).agenda = s.agenda := rfl
@[simp] theorem State.setDie_turn : (s.setDie d v).turn = s.turn := rfl
@[simp] theorem State.setDie_draws : (s.setDie d v).draws = s.draws := rfl
@[simp] theorem State.setDie_nextId : (s.setDie d v).nextId = s.nextId := rfl

end

/-! ## `State.setPartition` -/

section

variable (s : State) (p : Nat) (v : Partition)
@[simp] theorem State.setPartition_clk : (s.setPartition p v).clk = s.clk := rfl
@[simp] theorem State.setPartition_pcc : (s.setPartition p v).pcc = s.pcc := rfl
@[simp] theorem State.setPartition_mem : (s.setPartition p v).mem = s.mem := rfl
@[simp] theorem State.setPartition_poison : (s.setPartition p v).poison = s.poison := rfl
@[simp] theorem State.setPartition_soft : (s.setPartition p v).soft = s.soft := rfl
@[simp] theorem State.setPartition_releases : (s.setPartition p v).releases = s.releases := rfl
@[simp] theorem State.setPartition_lent : (s.setPartition p v).lent = s.lent := rfl
@[simp] theorem State.setPartition_arrivals : (s.setPartition p v).arrivals = s.arrivals := rfl
@[simp] theorem State.setPartition_launched : (s.setPartition p v).launched = s.launched := rfl
@[simp] theorem State.setPartition_frames : (s.setPartition p v).frames = s.frames := rfl
@[simp] theorem State.setPartition_waves : (s.setPartition p v).waves = s.waves := rfl
@[simp] theorem State.setPartition_wgs : (s.setPartition p v).wgs = s.wgs := rfl
@[simp] theorem State.setPartition_gangs : (s.setPartition p v).gangs = s.gangs := rfl
@[simp] theorem State.setPartition_saved : (s.setPartition p v).saved = s.saved := rfl
@[simp] theorem State.setPartition_entries : (s.setPartition p v).entries = s.entries := rfl
@[simp] theorem State.setPartition_cores : (s.setPartition p v).cores = s.cores := rfl
@[simp] theorem State.setPartition_dies : (s.setPartition p v).dies = s.dies := rfl
@[simp] theorem State.setPartition_services : (s.setPartition p v).services = s.services := rfl
@[simp] theorem State.setPartition_diePh : (s.setPartition p v).diePh = s.diePh := rfl
@[simp] theorem State.setPartition_pkgPh : (s.setPartition p v).pkgPh = s.pkgPh := rfl
@[simp] theorem State.setPartition_podPh : (s.setPartition p v).podPh = s.podPh := rfl
@[simp] theorem State.setPartition_tvec : (s.setPartition p v).tvec = s.tvec := rfl
@[simp] theorem State.setPartition_net : (s.setPartition p v).net = s.net := rfl
@[simp] theorem State.setPartition_blocked : (s.setPartition p v).blocked = s.blocked := rfl
@[simp] theorem State.setPartition_ringOps : (s.setPartition p v).ringOps = s.ringOps := rfl
@[simp] theorem State.setPartition_windows : (s.setPartition p v).windows = s.windows := rfl
@[simp] theorem State.setPartition_wtable : (s.setPartition p v).wtable = s.wtable := rfl
@[simp] theorem State.setPartition_programs : (s.setPartition p v).programs = s.programs := rfl
@[simp] theorem State.setPartition_endpoints : (s.setPartition p v).endpoints = s.endpoints := rfl
@[simp] theorem State.setPartition_placements : (s.setPartition p v).placements = s.placements := rfl
@[simp] theorem State.setPartition_fabric : (s.setPartition p v).fabric = s.fabric := rfl
@[simp] theorem State.setPartition_power : (s.setPartition p v).power = s.power := rfl
@[simp] theorem State.setPartition_system : (s.setPartition p v).system = s.system := rfl
@[simp] theorem State.setPartition_cur : (s.setPartition p v).cur = s.cur := rfl
@[simp] theorem State.setPartition_agenda : (s.setPartition p v).agenda = s.agenda := rfl
@[simp] theorem State.setPartition_turn : (s.setPartition p v).turn = s.turn := rfl
@[simp] theorem State.setPartition_draws : (s.setPartition p v).draws = s.draws := rfl
@[simp] theorem State.setPartition_nextId : (s.setPartition p v).nextId = s.nextId := rfl

end

/-! ## `State.setQueue` -/

section

variable (s : State) (p q : Nat) (v : Queue)
@[simp] theorem State.setQueue_clk : (s.setQueue p q v).clk = s.clk := rfl
@[simp] theorem State.setQueue_pcc : (s.setQueue p q v).pcc = s.pcc := rfl
@[simp] theorem State.setQueue_mem : (s.setQueue p q v).mem = s.mem := rfl
@[simp] theorem State.setQueue_poison : (s.setQueue p q v).poison = s.poison := rfl
@[simp] theorem State.setQueue_soft : (s.setQueue p q v).soft = s.soft := rfl
@[simp] theorem State.setQueue_releases : (s.setQueue p q v).releases = s.releases := rfl
@[simp] theorem State.setQueue_lent : (s.setQueue p q v).lent = s.lent := rfl
@[simp] theorem State.setQueue_arrivals : (s.setQueue p q v).arrivals = s.arrivals := rfl
@[simp] theorem State.setQueue_launched : (s.setQueue p q v).launched = s.launched := rfl
@[simp] theorem State.setQueue_frames : (s.setQueue p q v).frames = s.frames := rfl
@[simp] theorem State.setQueue_waves : (s.setQueue p q v).waves = s.waves := rfl
@[simp] theorem State.setQueue_wgs : (s.setQueue p q v).wgs = s.wgs := rfl
@[simp] theorem State.setQueue_gangs : (s.setQueue p q v).gangs = s.gangs := rfl
@[simp] theorem State.setQueue_saved : (s.setQueue p q v).saved = s.saved := rfl
@[simp] theorem State.setQueue_entries : (s.setQueue p q v).entries = s.entries := rfl
@[simp] theorem State.setQueue_cores : (s.setQueue p q v).cores = s.cores := rfl
@[simp] theorem State.setQueue_dies : (s.setQueue p q v).dies = s.dies := rfl
@[simp] theorem State.setQueue_services : (s.setQueue p q v).services = s.services := rfl
@[simp] theorem State.setQueue_diePh : (s.setQueue p q v).diePh = s.diePh := rfl
@[simp] theorem State.setQueue_pkgPh : (s.setQueue p q v).pkgPh = s.pkgPh := rfl
@[simp] theorem State.setQueue_podPh : (s.setQueue p q v).podPh = s.podPh := rfl
@[simp] theorem State.setQueue_tvec : (s.setQueue p q v).tvec = s.tvec := rfl
@[simp] theorem State.setQueue_net : (s.setQueue p q v).net = s.net := rfl
@[simp] theorem State.setQueue_blocked : (s.setQueue p q v).blocked = s.blocked := rfl
@[simp] theorem State.setQueue_ringOps : (s.setQueue p q v).ringOps = s.ringOps := rfl
@[simp] theorem State.setQueue_windows : (s.setQueue p q v).windows = s.windows := rfl
@[simp] theorem State.setQueue_wtable : (s.setQueue p q v).wtable = s.wtable := rfl
@[simp] theorem State.setQueue_programs : (s.setQueue p q v).programs = s.programs := rfl
@[simp] theorem State.setQueue_endpoints : (s.setQueue p q v).endpoints = s.endpoints := rfl
@[simp] theorem State.setQueue_placements : (s.setQueue p q v).placements = s.placements := rfl
@[simp] theorem State.setQueue_fabric : (s.setQueue p q v).fabric = s.fabric := rfl
@[simp] theorem State.setQueue_power : (s.setQueue p q v).power = s.power := rfl
@[simp] theorem State.setQueue_system : (s.setQueue p q v).system = s.system := rfl
@[simp] theorem State.setQueue_cur : (s.setQueue p q v).cur = s.cur := rfl
@[simp] theorem State.setQueue_agenda : (s.setQueue p q v).agenda = s.agenda := rfl
@[simp] theorem State.setQueue_turn : (s.setQueue p q v).turn = s.turn := rfl
@[simp] theorem State.setQueue_draws : (s.setQueue p q v).draws = s.draws := rfl
@[simp] theorem State.setQueue_nextId : (s.setQueue p q v).nextId = s.nextId := rfl

end

/-! ## `State.setService` -/

section

variable (s : State) (q : Nat) (v : Service)
@[simp] theorem State.setService_clk : (s.setService q v).clk = s.clk := rfl
@[simp] theorem State.setService_pcc : (s.setService q v).pcc = s.pcc := rfl
@[simp] theorem State.setService_mem : (s.setService q v).mem = s.mem := rfl
@[simp] theorem State.setService_poison : (s.setService q v).poison = s.poison := rfl
@[simp] theorem State.setService_soft : (s.setService q v).soft = s.soft := rfl
@[simp] theorem State.setService_releases : (s.setService q v).releases = s.releases := rfl
@[simp] theorem State.setService_lent : (s.setService q v).lent = s.lent := rfl
@[simp] theorem State.setService_arrivals : (s.setService q v).arrivals = s.arrivals := rfl
@[simp] theorem State.setService_launched : (s.setService q v).launched = s.launched := rfl
@[simp] theorem State.setService_frames : (s.setService q v).frames = s.frames := rfl
@[simp] theorem State.setService_waves : (s.setService q v).waves = s.waves := rfl
@[simp] theorem State.setService_wgs : (s.setService q v).wgs = s.wgs := rfl
@[simp] theorem State.setService_gangs : (s.setService q v).gangs = s.gangs := rfl
@[simp] theorem State.setService_saved : (s.setService q v).saved = s.saved := rfl
@[simp] theorem State.setService_entries : (s.setService q v).entries = s.entries := rfl
@[simp] theorem State.setService_parts : (s.setService q v).parts = s.parts := rfl
@[simp] theorem State.setService_cores : (s.setService q v).cores = s.cores := rfl
@[simp] theorem State.setService_dies : (s.setService q v).dies = s.dies := rfl
@[simp] theorem State.setService_diePh : (s.setService q v).diePh = s.diePh := rfl
@[simp] theorem State.setService_pkgPh : (s.setService q v).pkgPh = s.pkgPh := rfl
@[simp] theorem State.setService_podPh : (s.setService q v).podPh = s.podPh := rfl
@[simp] theorem State.setService_tvec : (s.setService q v).tvec = s.tvec := rfl
@[simp] theorem State.setService_net : (s.setService q v).net = s.net := rfl
@[simp] theorem State.setService_blocked : (s.setService q v).blocked = s.blocked := rfl
@[simp] theorem State.setService_ringOps : (s.setService q v).ringOps = s.ringOps := rfl
@[simp] theorem State.setService_windows : (s.setService q v).windows = s.windows := rfl
@[simp] theorem State.setService_wtable : (s.setService q v).wtable = s.wtable := rfl
@[simp] theorem State.setService_programs : (s.setService q v).programs = s.programs := rfl
@[simp] theorem State.setService_endpoints : (s.setService q v).endpoints = s.endpoints := rfl
@[simp] theorem State.setService_placements : (s.setService q v).placements = s.placements := rfl
@[simp] theorem State.setService_fabric : (s.setService q v).fabric = s.fabric := rfl
@[simp] theorem State.setService_power : (s.setService q v).power = s.power := rfl
@[simp] theorem State.setService_system : (s.setService q v).system = s.system := rfl
@[simp] theorem State.setService_cur : (s.setService q v).cur = s.cur := rfl
@[simp] theorem State.setService_agenda : (s.setService q v).agenda = s.agenda := rfl
@[simp] theorem State.setService_turn : (s.setService q v).turn = s.turn := rfl
@[simp] theorem State.setService_draws : (s.setService q v).draws = s.draws := rfl
@[simp] theorem State.setService_nextId : (s.setService q v).nextId = s.nextId := rfl

end

/-! ## `State.setWindow` -/

section

variable (s : State) (n : Nat) (v : Window)
@[simp] theorem State.setWindow_clk : (s.setWindow n v).clk = s.clk := rfl
@[simp] theorem State.setWindow_pcc : (s.setWindow n v).pcc = s.pcc := rfl
@[simp] theorem State.setWindow_mem : (s.setWindow n v).mem = s.mem := rfl
@[simp] theorem State.setWindow_poison : (s.setWindow n v).poison = s.poison := rfl
@[simp] theorem State.setWindow_soft : (s.setWindow n v).soft = s.soft := rfl
@[simp] theorem State.setWindow_releases : (s.setWindow n v).releases = s.releases := rfl
@[simp] theorem State.setWindow_lent : (s.setWindow n v).lent = s.lent := rfl
@[simp] theorem State.setWindow_arrivals : (s.setWindow n v).arrivals = s.arrivals := rfl
@[simp] theorem State.setWindow_launched : (s.setWindow n v).launched = s.launched := rfl
@[simp] theorem State.setWindow_frames : (s.setWindow n v).frames = s.frames := rfl
@[simp] theorem State.setWindow_waves : (s.setWindow n v).waves = s.waves := rfl
@[simp] theorem State.setWindow_wgs : (s.setWindow n v).wgs = s.wgs := rfl
@[simp] theorem State.setWindow_gangs : (s.setWindow n v).gangs = s.gangs := rfl
@[simp] theorem State.setWindow_saved : (s.setWindow n v).saved = s.saved := rfl
@[simp] theorem State.setWindow_entries : (s.setWindow n v).entries = s.entries := rfl
@[simp] theorem State.setWindow_parts : (s.setWindow n v).parts = s.parts := rfl
@[simp] theorem State.setWindow_cores : (s.setWindow n v).cores = s.cores := rfl
@[simp] theorem State.setWindow_dies : (s.setWindow n v).dies = s.dies := rfl
@[simp] theorem State.setWindow_services : (s.setWindow n v).services = s.services := rfl
@[simp] theorem State.setWindow_diePh : (s.setWindow n v).diePh = s.diePh := rfl
@[simp] theorem State.setWindow_pkgPh : (s.setWindow n v).pkgPh = s.pkgPh := rfl
@[simp] theorem State.setWindow_podPh : (s.setWindow n v).podPh = s.podPh := rfl
@[simp] theorem State.setWindow_tvec : (s.setWindow n v).tvec = s.tvec := rfl
@[simp] theorem State.setWindow_net : (s.setWindow n v).net = s.net := rfl
@[simp] theorem State.setWindow_blocked : (s.setWindow n v).blocked = s.blocked := rfl
@[simp] theorem State.setWindow_ringOps : (s.setWindow n v).ringOps = s.ringOps := rfl
@[simp] theorem State.setWindow_wtable : (s.setWindow n v).wtable = s.wtable := rfl
@[simp] theorem State.setWindow_programs : (s.setWindow n v).programs = s.programs := rfl
@[simp] theorem State.setWindow_endpoints : (s.setWindow n v).endpoints = s.endpoints := rfl
@[simp] theorem State.setWindow_placements : (s.setWindow n v).placements = s.placements := rfl
@[simp] theorem State.setWindow_fabric : (s.setWindow n v).fabric = s.fabric := rfl
@[simp] theorem State.setWindow_power : (s.setWindow n v).power = s.power := rfl
@[simp] theorem State.setWindow_system : (s.setWindow n v).system = s.system := rfl
@[simp] theorem State.setWindow_cur : (s.setWindow n v).cur = s.cur := rfl
@[simp] theorem State.setWindow_agenda : (s.setWindow n v).agenda = s.agenda := rfl
@[simp] theorem State.setWindow_turn : (s.setWindow n v).turn = s.turn := rfl
@[simp] theorem State.setWindow_draws : (s.setWindow n v).draws = s.draws := rfl
@[simp] theorem State.setWindow_nextId : (s.setWindow n v).nextId = s.nextId := rfl

end

/-! ## `State.setProgram` -/

section

variable (s : State) (g : Nat) (v : Program)
@[simp] theorem State.setProgram_clk : (s.setProgram g v).clk = s.clk := rfl
@[simp] theorem State.setProgram_pcc : (s.setProgram g v).pcc = s.pcc := rfl
@[simp] theorem State.setProgram_mem : (s.setProgram g v).mem = s.mem := rfl
@[simp] theorem State.setProgram_poison : (s.setProgram g v).poison = s.poison := rfl
@[simp] theorem State.setProgram_soft : (s.setProgram g v).soft = s.soft := rfl
@[simp] theorem State.setProgram_releases : (s.setProgram g v).releases = s.releases := rfl
@[simp] theorem State.setProgram_lent : (s.setProgram g v).lent = s.lent := rfl
@[simp] theorem State.setProgram_arrivals : (s.setProgram g v).arrivals = s.arrivals := rfl
@[simp] theorem State.setProgram_launched : (s.setProgram g v).launched = s.launched := rfl
@[simp] theorem State.setProgram_frames : (s.setProgram g v).frames = s.frames := rfl
@[simp] theorem State.setProgram_waves : (s.setProgram g v).waves = s.waves := rfl
@[simp] theorem State.setProgram_wgs : (s.setProgram g v).wgs = s.wgs := rfl
@[simp] theorem State.setProgram_gangs : (s.setProgram g v).gangs = s.gangs := rfl
@[simp] theorem State.setProgram_saved : (s.setProgram g v).saved = s.saved := rfl
@[simp] theorem State.setProgram_entries : (s.setProgram g v).entries = s.entries := rfl
@[simp] theorem State.setProgram_parts : (s.setProgram g v).parts = s.parts := rfl
@[simp] theorem State.setProgram_cores : (s.setProgram g v).cores = s.cores := rfl
@[simp] theorem State.setProgram_dies : (s.setProgram g v).dies = s.dies := rfl
@[simp] theorem State.setProgram_services : (s.setProgram g v).services = s.services := rfl
@[simp] theorem State.setProgram_diePh : (s.setProgram g v).diePh = s.diePh := rfl
@[simp] theorem State.setProgram_pkgPh : (s.setProgram g v).pkgPh = s.pkgPh := rfl
@[simp] theorem State.setProgram_podPh : (s.setProgram g v).podPh = s.podPh := rfl
@[simp] theorem State.setProgram_tvec : (s.setProgram g v).tvec = s.tvec := rfl
@[simp] theorem State.setProgram_net : (s.setProgram g v).net = s.net := rfl
@[simp] theorem State.setProgram_blocked : (s.setProgram g v).blocked = s.blocked := rfl
@[simp] theorem State.setProgram_ringOps : (s.setProgram g v).ringOps = s.ringOps := rfl
@[simp] theorem State.setProgram_windows : (s.setProgram g v).windows = s.windows := rfl
@[simp] theorem State.setProgram_wtable : (s.setProgram g v).wtable = s.wtable := rfl
@[simp] theorem State.setProgram_endpoints : (s.setProgram g v).endpoints = s.endpoints := rfl
@[simp] theorem State.setProgram_placements : (s.setProgram g v).placements = s.placements := rfl
@[simp] theorem State.setProgram_fabric : (s.setProgram g v).fabric = s.fabric := rfl
@[simp] theorem State.setProgram_power : (s.setProgram g v).power = s.power := rfl
@[simp] theorem State.setProgram_system : (s.setProgram g v).system = s.system := rfl
@[simp] theorem State.setProgram_cur : (s.setProgram g v).cur = s.cur := rfl
@[simp] theorem State.setProgram_agenda : (s.setProgram g v).agenda = s.agenda := rfl
@[simp] theorem State.setProgram_turn : (s.setProgram g v).turn = s.turn := rfl
@[simp] theorem State.setProgram_draws : (s.setProgram g v).draws = s.draws := rfl
@[simp] theorem State.setProgram_nextId : (s.setProgram g v).nextId = s.nextId := rfl

end

/-! ## `State.setWave` -/

section

variable (s : State) (v : Wave)
@[simp] theorem State.setWave_clk : (s.setWave v).clk = s.clk := rfl
@[simp] theorem State.setWave_pcc : (s.setWave v).pcc = s.pcc := rfl
@[simp] theorem State.setWave_mem : (s.setWave v).mem = s.mem := rfl
@[simp] theorem State.setWave_poison : (s.setWave v).poison = s.poison := rfl
@[simp] theorem State.setWave_soft : (s.setWave v).soft = s.soft := rfl
@[simp] theorem State.setWave_releases : (s.setWave v).releases = s.releases := rfl
@[simp] theorem State.setWave_lent : (s.setWave v).lent = s.lent := rfl
@[simp] theorem State.setWave_arrivals : (s.setWave v).arrivals = s.arrivals := rfl
@[simp] theorem State.setWave_launched : (s.setWave v).launched = s.launched := rfl
@[simp] theorem State.setWave_frames : (s.setWave v).frames = s.frames := rfl
@[simp] theorem State.setWave_wgs : (s.setWave v).wgs = s.wgs := rfl
@[simp] theorem State.setWave_gangs : (s.setWave v).gangs = s.gangs := rfl
@[simp] theorem State.setWave_saved : (s.setWave v).saved = s.saved := rfl
@[simp] theorem State.setWave_entries : (s.setWave v).entries = s.entries := rfl
@[simp] theorem State.setWave_parts : (s.setWave v).parts = s.parts := rfl
@[simp] theorem State.setWave_cores : (s.setWave v).cores = s.cores := rfl
@[simp] theorem State.setWave_dies : (s.setWave v).dies = s.dies := rfl
@[simp] theorem State.setWave_services : (s.setWave v).services = s.services := rfl
@[simp] theorem State.setWave_diePh : (s.setWave v).diePh = s.diePh := rfl
@[simp] theorem State.setWave_pkgPh : (s.setWave v).pkgPh = s.pkgPh := rfl
@[simp] theorem State.setWave_podPh : (s.setWave v).podPh = s.podPh := rfl
@[simp] theorem State.setWave_tvec : (s.setWave v).tvec = s.tvec := rfl
@[simp] theorem State.setWave_net : (s.setWave v).net = s.net := rfl
@[simp] theorem State.setWave_blocked : (s.setWave v).blocked = s.blocked := rfl
@[simp] theorem State.setWave_ringOps : (s.setWave v).ringOps = s.ringOps := rfl
@[simp] theorem State.setWave_windows : (s.setWave v).windows = s.windows := rfl
@[simp] theorem State.setWave_wtable : (s.setWave v).wtable = s.wtable := rfl
@[simp] theorem State.setWave_programs : (s.setWave v).programs = s.programs := rfl
@[simp] theorem State.setWave_endpoints : (s.setWave v).endpoints = s.endpoints := rfl
@[simp] theorem State.setWave_placements : (s.setWave v).placements = s.placements := rfl
@[simp] theorem State.setWave_fabric : (s.setWave v).fabric = s.fabric := rfl
@[simp] theorem State.setWave_power : (s.setWave v).power = s.power := rfl
@[simp] theorem State.setWave_system : (s.setWave v).system = s.system := rfl
@[simp] theorem State.setWave_cur : (s.setWave v).cur = s.cur := rfl
@[simp] theorem State.setWave_agenda : (s.setWave v).agenda = s.agenda := rfl
@[simp] theorem State.setWave_turn : (s.setWave v).turn = s.turn := rfl
@[simp] theorem State.setWave_draws : (s.setWave v).draws = s.draws := rfl
@[simp] theorem State.setWave_nextId : (s.setWave v).nextId = s.nextId := rfl

end

/-! ## `State.setThread` -/

section

variable (s : State) (w l : Nat) (t : Thread)
@[simp] theorem State.setThread_clk : (s.setThread w l t).clk = s.clk := rfl
@[simp] theorem State.setThread_pcc : (s.setThread w l t).pcc = s.pcc := rfl
@[simp] theorem State.setThread_mem : (s.setThread w l t).mem = s.mem := rfl
@[simp] theorem State.setThread_poison : (s.setThread w l t).poison = s.poison := rfl
@[simp] theorem State.setThread_soft : (s.setThread w l t).soft = s.soft := rfl
@[simp] theorem State.setThread_releases : (s.setThread w l t).releases = s.releases := rfl
@[simp] theorem State.setThread_lent : (s.setThread w l t).lent = s.lent := rfl
@[simp] theorem State.setThread_arrivals : (s.setThread w l t).arrivals = s.arrivals := rfl
@[simp] theorem State.setThread_launched : (s.setThread w l t).launched = s.launched := rfl
@[simp] theorem State.setThread_frames : (s.setThread w l t).frames = s.frames := rfl
@[simp] theorem State.setThread_wgs : (s.setThread w l t).wgs = s.wgs := rfl
@[simp] theorem State.setThread_gangs : (s.setThread w l t).gangs = s.gangs := rfl
@[simp] theorem State.setThread_saved : (s.setThread w l t).saved = s.saved := rfl
@[simp] theorem State.setThread_entries : (s.setThread w l t).entries = s.entries := rfl
@[simp] theorem State.setThread_parts : (s.setThread w l t).parts = s.parts := rfl
@[simp] theorem State.setThread_cores : (s.setThread w l t).cores = s.cores := rfl
@[simp] theorem State.setThread_dies : (s.setThread w l t).dies = s.dies := rfl
@[simp] theorem State.setThread_services : (s.setThread w l t).services = s.services := rfl
@[simp] theorem State.setThread_diePh : (s.setThread w l t).diePh = s.diePh := rfl
@[simp] theorem State.setThread_pkgPh : (s.setThread w l t).pkgPh = s.pkgPh := rfl
@[simp] theorem State.setThread_podPh : (s.setThread w l t).podPh = s.podPh := rfl
@[simp] theorem State.setThread_tvec : (s.setThread w l t).tvec = s.tvec := rfl
@[simp] theorem State.setThread_net : (s.setThread w l t).net = s.net := rfl
@[simp] theorem State.setThread_blocked : (s.setThread w l t).blocked = s.blocked := rfl
@[simp] theorem State.setThread_ringOps : (s.setThread w l t).ringOps = s.ringOps := rfl
@[simp] theorem State.setThread_windows : (s.setThread w l t).windows = s.windows := rfl
@[simp] theorem State.setThread_wtable : (s.setThread w l t).wtable = s.wtable := rfl
@[simp] theorem State.setThread_programs : (s.setThread w l t).programs = s.programs := rfl
@[simp] theorem State.setThread_endpoints : (s.setThread w l t).endpoints = s.endpoints := rfl
@[simp] theorem State.setThread_placements : (s.setThread w l t).placements = s.placements := rfl
@[simp] theorem State.setThread_fabric : (s.setThread w l t).fabric = s.fabric := rfl
@[simp] theorem State.setThread_power : (s.setThread w l t).power = s.power := rfl
@[simp] theorem State.setThread_system : (s.setThread w l t).system = s.system := rfl
@[simp] theorem State.setThread_cur : (s.setThread w l t).cur = s.cur := rfl
@[simp] theorem State.setThread_agenda : (s.setThread w l t).agenda = s.agenda := rfl
@[simp] theorem State.setThread_turn : (s.setThread w l t).turn = s.turn := rfl
@[simp] theorem State.setThread_draws : (s.setThread w l t).draws = s.draws := rfl
@[simp] theorem State.setThread_nextId : (s.setThread w l t).nextId = s.nextId := rfl

end

/-! ## `State.setWg` -/

section

variable (s : State) (v : Workgroup)
@[simp] theorem State.setWg_clk : (s.setWg v).clk = s.clk := rfl
@[simp] theorem State.setWg_pcc : (s.setWg v).pcc = s.pcc := rfl
@[simp] theorem State.setWg_mem : (s.setWg v).mem = s.mem := rfl
@[simp] theorem State.setWg_poison : (s.setWg v).poison = s.poison := rfl
@[simp] theorem State.setWg_soft : (s.setWg v).soft = s.soft := rfl
@[simp] theorem State.setWg_releases : (s.setWg v).releases = s.releases := rfl
@[simp] theorem State.setWg_lent : (s.setWg v).lent = s.lent := rfl
@[simp] theorem State.setWg_arrivals : (s.setWg v).arrivals = s.arrivals := rfl
@[simp] theorem State.setWg_launched : (s.setWg v).launched = s.launched := rfl
@[simp] theorem State.setWg_frames : (s.setWg v).frames = s.frames := rfl
@[simp] theorem State.setWg_waves : (s.setWg v).waves = s.waves := rfl
@[simp] theorem State.setWg_gangs : (s.setWg v).gangs = s.gangs := rfl
@[simp] theorem State.setWg_saved : (s.setWg v).saved = s.saved := rfl
@[simp] theorem State.setWg_entries : (s.setWg v).entries = s.entries := rfl
@[simp] theorem State.setWg_parts : (s.setWg v).parts = s.parts := rfl
@[simp] theorem State.setWg_cores : (s.setWg v).cores = s.cores := rfl
@[simp] theorem State.setWg_dies : (s.setWg v).dies = s.dies := rfl
@[simp] theorem State.setWg_services : (s.setWg v).services = s.services := rfl
@[simp] theorem State.setWg_diePh : (s.setWg v).diePh = s.diePh := rfl
@[simp] theorem State.setWg_pkgPh : (s.setWg v).pkgPh = s.pkgPh := rfl
@[simp] theorem State.setWg_podPh : (s.setWg v).podPh = s.podPh := rfl
@[simp] theorem State.setWg_tvec : (s.setWg v).tvec = s.tvec := rfl
@[simp] theorem State.setWg_net : (s.setWg v).net = s.net := rfl
@[simp] theorem State.setWg_blocked : (s.setWg v).blocked = s.blocked := rfl
@[simp] theorem State.setWg_ringOps : (s.setWg v).ringOps = s.ringOps := rfl
@[simp] theorem State.setWg_windows : (s.setWg v).windows = s.windows := rfl
@[simp] theorem State.setWg_wtable : (s.setWg v).wtable = s.wtable := rfl
@[simp] theorem State.setWg_programs : (s.setWg v).programs = s.programs := rfl
@[simp] theorem State.setWg_endpoints : (s.setWg v).endpoints = s.endpoints := rfl
@[simp] theorem State.setWg_placements : (s.setWg v).placements = s.placements := rfl
@[simp] theorem State.setWg_fabric : (s.setWg v).fabric = s.fabric := rfl
@[simp] theorem State.setWg_power : (s.setWg v).power = s.power := rfl
@[simp] theorem State.setWg_system : (s.setWg v).system = s.system := rfl
@[simp] theorem State.setWg_cur : (s.setWg v).cur = s.cur := rfl
@[simp] theorem State.setWg_agenda : (s.setWg v).agenda = s.agenda := rfl
@[simp] theorem State.setWg_turn : (s.setWg v).turn = s.turn := rfl
@[simp] theorem State.setWg_draws : (s.setWg v).draws = s.draws := rfl
@[simp] theorem State.setWg_nextId : (s.setWg v).nextId = s.nextId := rfl

end

/-! ## `State.modWg` -/

section

variable (s : State) (i : Nat) (g : Workgroup → Workgroup)
@[simp] theorem State.modWg_clk : (s.modWg i g).clk = s.clk := rfl
@[simp] theorem State.modWg_pcc : (s.modWg i g).pcc = s.pcc := rfl
@[simp] theorem State.modWg_mem : (s.modWg i g).mem = s.mem := rfl
@[simp] theorem State.modWg_poison : (s.modWg i g).poison = s.poison := rfl
@[simp] theorem State.modWg_soft : (s.modWg i g).soft = s.soft := rfl
@[simp] theorem State.modWg_releases : (s.modWg i g).releases = s.releases := rfl
@[simp] theorem State.modWg_lent : (s.modWg i g).lent = s.lent := rfl
@[simp] theorem State.modWg_arrivals : (s.modWg i g).arrivals = s.arrivals := rfl
@[simp] theorem State.modWg_launched : (s.modWg i g).launched = s.launched := rfl
@[simp] theorem State.modWg_frames : (s.modWg i g).frames = s.frames := rfl
@[simp] theorem State.modWg_waves : (s.modWg i g).waves = s.waves := rfl
@[simp] theorem State.modWg_gangs : (s.modWg i g).gangs = s.gangs := rfl
@[simp] theorem State.modWg_saved : (s.modWg i g).saved = s.saved := rfl
@[simp] theorem State.modWg_entries : (s.modWg i g).entries = s.entries := rfl
@[simp] theorem State.modWg_parts : (s.modWg i g).parts = s.parts := rfl
@[simp] theorem State.modWg_cores : (s.modWg i g).cores = s.cores := rfl
@[simp] theorem State.modWg_dies : (s.modWg i g).dies = s.dies := rfl
@[simp] theorem State.modWg_services : (s.modWg i g).services = s.services := rfl
@[simp] theorem State.modWg_diePh : (s.modWg i g).diePh = s.diePh := rfl
@[simp] theorem State.modWg_pkgPh : (s.modWg i g).pkgPh = s.pkgPh := rfl
@[simp] theorem State.modWg_podPh : (s.modWg i g).podPh = s.podPh := rfl
@[simp] theorem State.modWg_tvec : (s.modWg i g).tvec = s.tvec := rfl
@[simp] theorem State.modWg_net : (s.modWg i g).net = s.net := rfl
@[simp] theorem State.modWg_blocked : (s.modWg i g).blocked = s.blocked := rfl
@[simp] theorem State.modWg_ringOps : (s.modWg i g).ringOps = s.ringOps := rfl
@[simp] theorem State.modWg_windows : (s.modWg i g).windows = s.windows := rfl
@[simp] theorem State.modWg_wtable : (s.modWg i g).wtable = s.wtable := rfl
@[simp] theorem State.modWg_programs : (s.modWg i g).programs = s.programs := rfl
@[simp] theorem State.modWg_endpoints : (s.modWg i g).endpoints = s.endpoints := rfl
@[simp] theorem State.modWg_placements : (s.modWg i g).placements = s.placements := rfl
@[simp] theorem State.modWg_fabric : (s.modWg i g).fabric = s.fabric := rfl
@[simp] theorem State.modWg_power : (s.modWg i g).power = s.power := rfl
@[simp] theorem State.modWg_system : (s.modWg i g).system = s.system := rfl
@[simp] theorem State.modWg_cur : (s.modWg i g).cur = s.cur := rfl
@[simp] theorem State.modWg_agenda : (s.modWg i g).agenda = s.agenda := rfl
@[simp] theorem State.modWg_turn : (s.modWg i g).turn = s.turn := rfl
@[simp] theorem State.modWg_draws : (s.modWg i g).draws = s.draws := rfl
@[simp] theorem State.modWg_nextId : (s.modWg i g).nextId = s.nextId := rfl

end

/-! ## `State.setGang` -/

section

variable (s : State) (v : Gang)
@[simp] theorem State.setGang_clk : (s.setGang v).clk = s.clk := rfl
@[simp] theorem State.setGang_pcc : (s.setGang v).pcc = s.pcc := rfl
@[simp] theorem State.setGang_mem : (s.setGang v).mem = s.mem := rfl
@[simp] theorem State.setGang_poison : (s.setGang v).poison = s.poison := rfl
@[simp] theorem State.setGang_soft : (s.setGang v).soft = s.soft := rfl
@[simp] theorem State.setGang_releases : (s.setGang v).releases = s.releases := rfl
@[simp] theorem State.setGang_lent : (s.setGang v).lent = s.lent := rfl
@[simp] theorem State.setGang_arrivals : (s.setGang v).arrivals = s.arrivals := rfl
@[simp] theorem State.setGang_launched : (s.setGang v).launched = s.launched := rfl
@[simp] theorem State.setGang_frames : (s.setGang v).frames = s.frames := rfl
@[simp] theorem State.setGang_waves : (s.setGang v).waves = s.waves := rfl
@[simp] theorem State.setGang_wgs : (s.setGang v).wgs = s.wgs := rfl
@[simp] theorem State.setGang_saved : (s.setGang v).saved = s.saved := rfl
@[simp] theorem State.setGang_entries : (s.setGang v).entries = s.entries := rfl
@[simp] theorem State.setGang_parts : (s.setGang v).parts = s.parts := rfl
@[simp] theorem State.setGang_cores : (s.setGang v).cores = s.cores := rfl
@[simp] theorem State.setGang_dies : (s.setGang v).dies = s.dies := rfl
@[simp] theorem State.setGang_services : (s.setGang v).services = s.services := rfl
@[simp] theorem State.setGang_diePh : (s.setGang v).diePh = s.diePh := rfl
@[simp] theorem State.setGang_pkgPh : (s.setGang v).pkgPh = s.pkgPh := rfl
@[simp] theorem State.setGang_podPh : (s.setGang v).podPh = s.podPh := rfl
@[simp] theorem State.setGang_tvec : (s.setGang v).tvec = s.tvec := rfl
@[simp] theorem State.setGang_net : (s.setGang v).net = s.net := rfl
@[simp] theorem State.setGang_blocked : (s.setGang v).blocked = s.blocked := rfl
@[simp] theorem State.setGang_ringOps : (s.setGang v).ringOps = s.ringOps := rfl
@[simp] theorem State.setGang_windows : (s.setGang v).windows = s.windows := rfl
@[simp] theorem State.setGang_wtable : (s.setGang v).wtable = s.wtable := rfl
@[simp] theorem State.setGang_programs : (s.setGang v).programs = s.programs := rfl
@[simp] theorem State.setGang_endpoints : (s.setGang v).endpoints = s.endpoints := rfl
@[simp] theorem State.setGang_placements : (s.setGang v).placements = s.placements := rfl
@[simp] theorem State.setGang_fabric : (s.setGang v).fabric = s.fabric := rfl
@[simp] theorem State.setGang_power : (s.setGang v).power = s.power := rfl
@[simp] theorem State.setGang_system : (s.setGang v).system = s.system := rfl
@[simp] theorem State.setGang_cur : (s.setGang v).cur = s.cur := rfl
@[simp] theorem State.setGang_agenda : (s.setGang v).agenda = s.agenda := rfl
@[simp] theorem State.setGang_turn : (s.setGang v).turn = s.turn := rfl
@[simp] theorem State.setGang_draws : (s.setGang v).draws = s.draws := rfl
@[simp] theorem State.setGang_nextId : (s.setGang v).nextId = s.nextId := rfl

end

/-! ## `State.setEntry` -/

section

variable (s : State) (v : Entry)
@[simp] theorem State.setEntry_clk : (s.setEntry v).clk = s.clk := rfl
@[simp] theorem State.setEntry_pcc : (s.setEntry v).pcc = s.pcc := rfl
@[simp] theorem State.setEntry_mem : (s.setEntry v).mem = s.mem := rfl
@[simp] theorem State.setEntry_poison : (s.setEntry v).poison = s.poison := rfl
@[simp] theorem State.setEntry_soft : (s.setEntry v).soft = s.soft := rfl
@[simp] theorem State.setEntry_releases : (s.setEntry v).releases = s.releases := rfl
@[simp] theorem State.setEntry_lent : (s.setEntry v).lent = s.lent := rfl
@[simp] theorem State.setEntry_arrivals : (s.setEntry v).arrivals = s.arrivals := rfl
@[simp] theorem State.setEntry_launched : (s.setEntry v).launched = s.launched := rfl
@[simp] theorem State.setEntry_frames : (s.setEntry v).frames = s.frames := rfl
@[simp] theorem State.setEntry_waves : (s.setEntry v).waves = s.waves := rfl
@[simp] theorem State.setEntry_wgs : (s.setEntry v).wgs = s.wgs := rfl
@[simp] theorem State.setEntry_gangs : (s.setEntry v).gangs = s.gangs := rfl
@[simp] theorem State.setEntry_saved : (s.setEntry v).saved = s.saved := rfl
@[simp] theorem State.setEntry_parts : (s.setEntry v).parts = s.parts := rfl
@[simp] theorem State.setEntry_cores : (s.setEntry v).cores = s.cores := rfl
@[simp] theorem State.setEntry_dies : (s.setEntry v).dies = s.dies := rfl
@[simp] theorem State.setEntry_services : (s.setEntry v).services = s.services := rfl
@[simp] theorem State.setEntry_diePh : (s.setEntry v).diePh = s.diePh := rfl
@[simp] theorem State.setEntry_pkgPh : (s.setEntry v).pkgPh = s.pkgPh := rfl
@[simp] theorem State.setEntry_podPh : (s.setEntry v).podPh = s.podPh := rfl
@[simp] theorem State.setEntry_tvec : (s.setEntry v).tvec = s.tvec := rfl
@[simp] theorem State.setEntry_net : (s.setEntry v).net = s.net := rfl
@[simp] theorem State.setEntry_blocked : (s.setEntry v).blocked = s.blocked := rfl
@[simp] theorem State.setEntry_ringOps : (s.setEntry v).ringOps = s.ringOps := rfl
@[simp] theorem State.setEntry_windows : (s.setEntry v).windows = s.windows := rfl
@[simp] theorem State.setEntry_wtable : (s.setEntry v).wtable = s.wtable := rfl
@[simp] theorem State.setEntry_programs : (s.setEntry v).programs = s.programs := rfl
@[simp] theorem State.setEntry_endpoints : (s.setEntry v).endpoints = s.endpoints := rfl
@[simp] theorem State.setEntry_placements : (s.setEntry v).placements = s.placements := rfl
@[simp] theorem State.setEntry_fabric : (s.setEntry v).fabric = s.fabric := rfl
@[simp] theorem State.setEntry_power : (s.setEntry v).power = s.power := rfl
@[simp] theorem State.setEntry_system : (s.setEntry v).system = s.system := rfl
@[simp] theorem State.setEntry_cur : (s.setEntry v).cur = s.cur := rfl
@[simp] theorem State.setEntry_agenda : (s.setEntry v).agenda = s.agenda := rfl
@[simp] theorem State.setEntry_turn : (s.setEntry v).turn = s.turn := rfl
@[simp] theorem State.setEntry_draws : (s.setEntry v).draws = s.draws := rfl
@[simp] theorem State.setEntry_nextId : (s.setEntry v).nextId = s.nextId := rfl

end

/-! ## `State.modEntry` -/

section

variable (s : State) (i : Nat) (g : Entry → Entry)
@[simp] theorem State.modEntry_clk : (s.modEntry i g).clk = s.clk := rfl
@[simp] theorem State.modEntry_pcc : (s.modEntry i g).pcc = s.pcc := rfl
@[simp] theorem State.modEntry_mem : (s.modEntry i g).mem = s.mem := rfl
@[simp] theorem State.modEntry_poison : (s.modEntry i g).poison = s.poison := rfl
@[simp] theorem State.modEntry_soft : (s.modEntry i g).soft = s.soft := rfl
@[simp] theorem State.modEntry_releases : (s.modEntry i g).releases = s.releases := rfl
@[simp] theorem State.modEntry_lent : (s.modEntry i g).lent = s.lent := rfl
@[simp] theorem State.modEntry_arrivals : (s.modEntry i g).arrivals = s.arrivals := rfl
@[simp] theorem State.modEntry_launched : (s.modEntry i g).launched = s.launched := rfl
@[simp] theorem State.modEntry_frames : (s.modEntry i g).frames = s.frames := rfl
@[simp] theorem State.modEntry_waves : (s.modEntry i g).waves = s.waves := rfl
@[simp] theorem State.modEntry_wgs : (s.modEntry i g).wgs = s.wgs := rfl
@[simp] theorem State.modEntry_gangs : (s.modEntry i g).gangs = s.gangs := rfl
@[simp] theorem State.modEntry_saved : (s.modEntry i g).saved = s.saved := rfl
@[simp] theorem State.modEntry_parts : (s.modEntry i g).parts = s.parts := rfl
@[simp] theorem State.modEntry_cores : (s.modEntry i g).cores = s.cores := rfl
@[simp] theorem State.modEntry_dies : (s.modEntry i g).dies = s.dies := rfl
@[simp] theorem State.modEntry_services : (s.modEntry i g).services = s.services := rfl
@[simp] theorem State.modEntry_diePh : (s.modEntry i g).diePh = s.diePh := rfl
@[simp] theorem State.modEntry_pkgPh : (s.modEntry i g).pkgPh = s.pkgPh := rfl
@[simp] theorem State.modEntry_podPh : (s.modEntry i g).podPh = s.podPh := rfl
@[simp] theorem State.modEntry_tvec : (s.modEntry i g).tvec = s.tvec := rfl
@[simp] theorem State.modEntry_net : (s.modEntry i g).net = s.net := rfl
@[simp] theorem State.modEntry_blocked : (s.modEntry i g).blocked = s.blocked := rfl
@[simp] theorem State.modEntry_ringOps : (s.modEntry i g).ringOps = s.ringOps := rfl
@[simp] theorem State.modEntry_windows : (s.modEntry i g).windows = s.windows := rfl
@[simp] theorem State.modEntry_wtable : (s.modEntry i g).wtable = s.wtable := rfl
@[simp] theorem State.modEntry_programs : (s.modEntry i g).programs = s.programs := rfl
@[simp] theorem State.modEntry_endpoints : (s.modEntry i g).endpoints = s.endpoints := rfl
@[simp] theorem State.modEntry_placements : (s.modEntry i g).placements = s.placements := rfl
@[simp] theorem State.modEntry_fabric : (s.modEntry i g).fabric = s.fabric := rfl
@[simp] theorem State.modEntry_power : (s.modEntry i g).power = s.power := rfl
@[simp] theorem State.modEntry_system : (s.modEntry i g).system = s.system := rfl
@[simp] theorem State.modEntry_cur : (s.modEntry i g).cur = s.cur := rfl
@[simp] theorem State.modEntry_agenda : (s.modEntry i g).agenda = s.agenda := rfl
@[simp] theorem State.modEntry_turn : (s.modEntry i g).turn = s.turn := rfl
@[simp] theorem State.modEntry_draws : (s.modEntry i g).draws = s.draws := rfl
@[simp] theorem State.modEntry_nextId : (s.modEntry i g).nextId = s.nextId := rfl

end

/-! ## `State.fresh` -/

section

variable (s : State) 
@[simp] theorem State.fresh_clk : s.fresh.clk = s.clk := rfl
@[simp] theorem State.fresh_pcc : s.fresh.pcc = s.pcc := rfl
@[simp] theorem State.fresh_mem : s.fresh.mem = s.mem := rfl
@[simp] theorem State.fresh_poison : s.fresh.poison = s.poison := rfl
@[simp] theorem State.fresh_soft : s.fresh.soft = s.soft := rfl
@[simp] theorem State.fresh_releases : s.fresh.releases = s.releases := rfl
@[simp] theorem State.fresh_lent : s.fresh.lent = s.lent := rfl
@[simp] theorem State.fresh_arrivals : s.fresh.arrivals = s.arrivals := rfl
@[simp] theorem State.fresh_launched : s.fresh.launched = s.launched := rfl
@[simp] theorem State.fresh_frames : s.fresh.frames = s.frames := rfl
@[simp] theorem State.fresh_waves : s.fresh.waves = s.waves := rfl
@[simp] theorem State.fresh_wgs : s.fresh.wgs = s.wgs := rfl
@[simp] theorem State.fresh_gangs : s.fresh.gangs = s.gangs := rfl
@[simp] theorem State.fresh_saved : s.fresh.saved = s.saved := rfl
@[simp] theorem State.fresh_entries : s.fresh.entries = s.entries := rfl
@[simp] theorem State.fresh_parts : s.fresh.parts = s.parts := rfl
@[simp] theorem State.fresh_cores : s.fresh.cores = s.cores := rfl
@[simp] theorem State.fresh_dies : s.fresh.dies = s.dies := rfl
@[simp] theorem State.fresh_services : s.fresh.services = s.services := rfl
@[simp] theorem State.fresh_diePh : s.fresh.diePh = s.diePh := rfl
@[simp] theorem State.fresh_pkgPh : s.fresh.pkgPh = s.pkgPh := rfl
@[simp] theorem State.fresh_podPh : s.fresh.podPh = s.podPh := rfl
@[simp] theorem State.fresh_tvec : s.fresh.tvec = s.tvec := rfl
@[simp] theorem State.fresh_net : s.fresh.net = s.net := rfl
@[simp] theorem State.fresh_blocked : s.fresh.blocked = s.blocked := rfl
@[simp] theorem State.fresh_ringOps : s.fresh.ringOps = s.ringOps := rfl
@[simp] theorem State.fresh_windows : s.fresh.windows = s.windows := rfl
@[simp] theorem State.fresh_wtable : s.fresh.wtable = s.wtable := rfl
@[simp] theorem State.fresh_programs : s.fresh.programs = s.programs := rfl
@[simp] theorem State.fresh_endpoints : s.fresh.endpoints = s.endpoints := rfl
@[simp] theorem State.fresh_placements : s.fresh.placements = s.placements := rfl
@[simp] theorem State.fresh_fabric : s.fresh.fabric = s.fabric := rfl
@[simp] theorem State.fresh_power : s.fresh.power = s.power := rfl
@[simp] theorem State.fresh_system : s.fresh.system = s.system := rfl
@[simp] theorem State.fresh_cur : s.fresh.cur = s.cur := rfl
@[simp] theorem State.fresh_agenda : s.fresh.agenda = s.agenda := rfl
@[simp] theorem State.fresh_turn : s.fresh.turn = s.turn := rfl
@[simp] theorem State.fresh_draws : s.fresh.draws = s.draws := rfl

end

/-! ## `State.drawn` -/

section

variable (s : State) 
@[simp] theorem State.drawn_clk : s.drawn.clk = s.clk := rfl
@[simp] theorem State.drawn_pcc : s.drawn.pcc = s.pcc := rfl
@[simp] theorem State.drawn_mem : s.drawn.mem = s.mem := rfl
@[simp] theorem State.drawn_poison : s.drawn.poison = s.poison := rfl
@[simp] theorem State.drawn_soft : s.drawn.soft = s.soft := rfl
@[simp] theorem State.drawn_releases : s.drawn.releases = s.releases := rfl
@[simp] theorem State.drawn_lent : s.drawn.lent = s.lent := rfl
@[simp] theorem State.drawn_arrivals : s.drawn.arrivals = s.arrivals := rfl
@[simp] theorem State.drawn_launched : s.drawn.launched = s.launched := rfl
@[simp] theorem State.drawn_frames : s.drawn.frames = s.frames := rfl
@[simp] theorem State.drawn_waves : s.drawn.waves = s.waves := rfl
@[simp] theorem State.drawn_wgs : s.drawn.wgs = s.wgs := rfl
@[simp] theorem State.drawn_gangs : s.drawn.gangs = s.gangs := rfl
@[simp] theorem State.drawn_saved : s.drawn.saved = s.saved := rfl
@[simp] theorem State.drawn_entries : s.drawn.entries = s.entries := rfl
@[simp] theorem State.drawn_parts : s.drawn.parts = s.parts := rfl
@[simp] theorem State.drawn_cores : s.drawn.cores = s.cores := rfl
@[simp] theorem State.drawn_dies : s.drawn.dies = s.dies := rfl
@[simp] theorem State.drawn_services : s.drawn.services = s.services := rfl
@[simp] theorem State.drawn_diePh : s.drawn.diePh = s.diePh := rfl
@[simp] theorem State.drawn_pkgPh : s.drawn.pkgPh = s.pkgPh := rfl
@[simp] theorem State.drawn_podPh : s.drawn.podPh = s.podPh := rfl
@[simp] theorem State.drawn_tvec : s.drawn.tvec = s.tvec := rfl
@[simp] theorem State.drawn_net : s.drawn.net = s.net := rfl
@[simp] theorem State.drawn_blocked : s.drawn.blocked = s.blocked := rfl
@[simp] theorem State.drawn_ringOps : s.drawn.ringOps = s.ringOps := rfl
@[simp] theorem State.drawn_windows : s.drawn.windows = s.windows := rfl
@[simp] theorem State.drawn_wtable : s.drawn.wtable = s.wtable := rfl
@[simp] theorem State.drawn_programs : s.drawn.programs = s.programs := rfl
@[simp] theorem State.drawn_endpoints : s.drawn.endpoints = s.endpoints := rfl
@[simp] theorem State.drawn_placements : s.drawn.placements = s.placements := rfl
@[simp] theorem State.drawn_fabric : s.drawn.fabric = s.fabric := rfl
@[simp] theorem State.drawn_power : s.drawn.power = s.power := rfl
@[simp] theorem State.drawn_system : s.drawn.system = s.system := rfl
@[simp] theorem State.drawn_cur : s.drawn.cur = s.cur := rfl
@[simp] theorem State.drawn_agenda : s.drawn.agenda = s.agenda := rfl
@[simp] theorem State.drawn_turn : s.drawn.turn = s.turn := rfl
@[simp] theorem State.drawn_nextId : s.drawn.nextId = s.nextId := rfl

end

/-! ## `State.drawnBy` -/

section

variable (s : State) (n : Nat)
@[simp] theorem State.drawnBy_clk : (s.drawnBy n).clk = s.clk := rfl
@[simp] theorem State.drawnBy_pcc : (s.drawnBy n).pcc = s.pcc := rfl
@[simp] theorem State.drawnBy_mem : (s.drawnBy n).mem = s.mem := rfl
@[simp] theorem State.drawnBy_poison : (s.drawnBy n).poison = s.poison := rfl
@[simp] theorem State.drawnBy_soft : (s.drawnBy n).soft = s.soft := rfl
@[simp] theorem State.drawnBy_releases : (s.drawnBy n).releases = s.releases := rfl
@[simp] theorem State.drawnBy_lent : (s.drawnBy n).lent = s.lent := rfl
@[simp] theorem State.drawnBy_arrivals : (s.drawnBy n).arrivals = s.arrivals := rfl
@[simp] theorem State.drawnBy_launched : (s.drawnBy n).launched = s.launched := rfl
@[simp] theorem State.drawnBy_frames : (s.drawnBy n).frames = s.frames := rfl
@[simp] theorem State.drawnBy_waves : (s.drawnBy n).waves = s.waves := rfl
@[simp] theorem State.drawnBy_wgs : (s.drawnBy n).wgs = s.wgs := rfl
@[simp] theorem State.drawnBy_gangs : (s.drawnBy n).gangs = s.gangs := rfl
@[simp] theorem State.drawnBy_saved : (s.drawnBy n).saved = s.saved := rfl
@[simp] theorem State.drawnBy_entries : (s.drawnBy n).entries = s.entries := rfl
@[simp] theorem State.drawnBy_parts : (s.drawnBy n).parts = s.parts := rfl
@[simp] theorem State.drawnBy_cores : (s.drawnBy n).cores = s.cores := rfl
@[simp] theorem State.drawnBy_dies : (s.drawnBy n).dies = s.dies := rfl
@[simp] theorem State.drawnBy_services : (s.drawnBy n).services = s.services := rfl
@[simp] theorem State.drawnBy_diePh : (s.drawnBy n).diePh = s.diePh := rfl
@[simp] theorem State.drawnBy_pkgPh : (s.drawnBy n).pkgPh = s.pkgPh := rfl
@[simp] theorem State.drawnBy_podPh : (s.drawnBy n).podPh = s.podPh := rfl
@[simp] theorem State.drawnBy_tvec : (s.drawnBy n).tvec = s.tvec := rfl
@[simp] theorem State.drawnBy_net : (s.drawnBy n).net = s.net := rfl
@[simp] theorem State.drawnBy_blocked : (s.drawnBy n).blocked = s.blocked := rfl
@[simp] theorem State.drawnBy_ringOps : (s.drawnBy n).ringOps = s.ringOps := rfl
@[simp] theorem State.drawnBy_windows : (s.drawnBy n).windows = s.windows := rfl
@[simp] theorem State.drawnBy_wtable : (s.drawnBy n).wtable = s.wtable := rfl
@[simp] theorem State.drawnBy_programs : (s.drawnBy n).programs = s.programs := rfl
@[simp] theorem State.drawnBy_endpoints : (s.drawnBy n).endpoints = s.endpoints := rfl
@[simp] theorem State.drawnBy_placements : (s.drawnBy n).placements = s.placements := rfl
@[simp] theorem State.drawnBy_fabric : (s.drawnBy n).fabric = s.fabric := rfl
@[simp] theorem State.drawnBy_power : (s.drawnBy n).power = s.power := rfl
@[simp] theorem State.drawnBy_system : (s.drawnBy n).system = s.system := rfl
@[simp] theorem State.drawnBy_cur : (s.drawnBy n).cur = s.cur := rfl
@[simp] theorem State.drawnBy_agenda : (s.drawnBy n).agenda = s.agenda := rfl
@[simp] theorem State.drawnBy_turn : (s.drawnBy n).turn = s.turn := rfl
@[simp] theorem State.drawnBy_nextId : (s.drawnBy n).nextId = s.nextId := rfl

end

/-! ## `State.modThread` -/

section

variable (s : State) (w l : Nat) (g : Thread → Thread)
@[simp] theorem State.modThread_clk : (s.modThread w l g).clk = s.clk := by
  unfold State.modThread; split <;> rfl
@[simp] theorem State.modThread_pcc : (s.modThread w l g).pcc = s.pcc := by
  unfold State.modThread; split <;> rfl
@[simp] theorem State.modThread_mem : (s.modThread w l g).mem = s.mem := by
  unfold State.modThread; split <;> rfl
@[simp] theorem State.modThread_poison : (s.modThread w l g).poison = s.poison := by
  unfold State.modThread; split <;> rfl
@[simp] theorem State.modThread_soft : (s.modThread w l g).soft = s.soft := by
  unfold State.modThread; split <;> rfl
@[simp] theorem State.modThread_releases : (s.modThread w l g).releases = s.releases := by
  unfold State.modThread; split <;> rfl
@[simp] theorem State.modThread_lent : (s.modThread w l g).lent = s.lent := by
  unfold State.modThread; split <;> rfl
@[simp] theorem State.modThread_arrivals : (s.modThread w l g).arrivals = s.arrivals := by
  unfold State.modThread; split <;> rfl
@[simp] theorem State.modThread_launched : (s.modThread w l g).launched = s.launched := by
  unfold State.modThread; split <;> rfl
@[simp] theorem State.modThread_frames : (s.modThread w l g).frames = s.frames := by
  unfold State.modThread; split <;> rfl
@[simp] theorem State.modThread_wgs : (s.modThread w l g).wgs = s.wgs := by
  unfold State.modThread; split <;> rfl
@[simp] theorem State.modThread_gangs : (s.modThread w l g).gangs = s.gangs := by
  unfold State.modThread; split <;> rfl
@[simp] theorem State.modThread_saved : (s.modThread w l g).saved = s.saved := by
  unfold State.modThread; split <;> rfl
@[simp] theorem State.modThread_entries : (s.modThread w l g).entries = s.entries := by
  unfold State.modThread; split <;> rfl
@[simp] theorem State.modThread_parts : (s.modThread w l g).parts = s.parts := by
  unfold State.modThread; split <;> rfl
@[simp] theorem State.modThread_cores : (s.modThread w l g).cores = s.cores := by
  unfold State.modThread; split <;> rfl
@[simp] theorem State.modThread_dies : (s.modThread w l g).dies = s.dies := by
  unfold State.modThread; split <;> rfl
@[simp] theorem State.modThread_services : (s.modThread w l g).services = s.services := by
  unfold State.modThread; split <;> rfl
@[simp] theorem State.modThread_diePh : (s.modThread w l g).diePh = s.diePh := by
  unfold State.modThread; split <;> rfl
@[simp] theorem State.modThread_pkgPh : (s.modThread w l g).pkgPh = s.pkgPh := by
  unfold State.modThread; split <;> rfl
@[simp] theorem State.modThread_podPh : (s.modThread w l g).podPh = s.podPh := by
  unfold State.modThread; split <;> rfl
@[simp] theorem State.modThread_tvec : (s.modThread w l g).tvec = s.tvec := by
  unfold State.modThread; split <;> rfl
@[simp] theorem State.modThread_net : (s.modThread w l g).net = s.net := by
  unfold State.modThread; split <;> rfl
@[simp] theorem State.modThread_blocked : (s.modThread w l g).blocked = s.blocked := by
  unfold State.modThread; split <;> rfl
@[simp] theorem State.modThread_ringOps : (s.modThread w l g).ringOps = s.ringOps := by
  unfold State.modThread; split <;> rfl
@[simp] theorem State.modThread_windows : (s.modThread w l g).windows = s.windows := by
  unfold State.modThread; split <;> rfl
@[simp] theorem State.modThread_wtable : (s.modThread w l g).wtable = s.wtable := by
  unfold State.modThread; split <;> rfl
@[simp] theorem State.modThread_programs : (s.modThread w l g).programs = s.programs := by
  unfold State.modThread; split <;> rfl
@[simp] theorem State.modThread_endpoints : (s.modThread w l g).endpoints = s.endpoints := by
  unfold State.modThread; split <;> rfl
@[simp] theorem State.modThread_placements : (s.modThread w l g).placements = s.placements := by
  unfold State.modThread; split <;> rfl
@[simp] theorem State.modThread_fabric : (s.modThread w l g).fabric = s.fabric := by
  unfold State.modThread; split <;> rfl
@[simp] theorem State.modThread_power : (s.modThread w l g).power = s.power := by
  unfold State.modThread; split <;> rfl
@[simp] theorem State.modThread_system : (s.modThread w l g).system = s.system := by
  unfold State.modThread; split <;> rfl
@[simp] theorem State.modThread_cur : (s.modThread w l g).cur = s.cur := by
  unfold State.modThread; split <;> rfl
@[simp] theorem State.modThread_agenda : (s.modThread w l g).agenda = s.agenda := by
  unfold State.modThread; split <;> rfl
@[simp] theorem State.modThread_turn : (s.modThread w l g).turn = s.turn := by
  unfold State.modThread; split <;> rfl
@[simp] theorem State.modThread_draws : (s.modThread w l g).draws = s.draws := by
  unfold State.modThread; split <;> rfl
@[simp] theorem State.modThread_nextId : (s.modThread w l g).nextId = s.nextId := by
  unfold State.modThread; split <;> rfl

end

/-! ## `Thread.setReg` -/

section

variable (t : Thread) (k : Nat) (v : Word)
@[simp] theorem Thread.setReg_pc : (t.setReg k v).pc = t.pc := rfl
@[simp] theorem Thread.setReg_level : (t.setReg k v).level = t.level := rfl
@[simp] theorem Thread.setReg_queue : (t.setReg k v).queue = t.queue := rfl
@[simp] theorem Thread.setReg_preds : (t.setReg k v).preds = t.preds := rfl
@[simp] theorem Thread.setReg_pcc : (t.setReg k v).pcc = t.pcc := rfl
@[simp] theorem Thread.setReg_pass : (t.setReg k v).pass = t.pass := rfl
@[simp] theorem Thread.setReg_run : (t.setReg k v).run = t.run := rfl
@[simp] theorem Thread.setReg_due : (t.setReg k v).due = t.due := rfl
@[simp] theorem Thread.setReg_pending : (t.setReg k v).pending = t.pending := rfl
@[simp] theorem Thread.setReg_super : (t.setReg k v).super = t.super := rfl
@[simp] theorem Thread.setReg_sys : (t.setReg k v).sys = t.sys := rfl
@[simp] theorem Thread.setReg_failAlighted : (t.setReg k v).failAlighted = t.failAlighted := rfl
@[simp] theorem Thread.setReg_failMissing : (t.setReg k v).failMissing = t.failMissing := rfl
@[simp] theorem Thread.setReg_cut : (t.setReg k v).cut = t.cut := rfl
@[simp] theorem Thread.setReg_missAt : (t.setReg k v).missAt = t.missAt := rfl

end

/-! ## `Thread.pushEntry` -/

section

variable (t : Thread) (e : QEntry)
@[simp] theorem Thread.pushEntry_pc : (t.pushEntry e).pc = t.pc := rfl
@[simp] theorem Thread.pushEntry_level : (t.pushEntry e).level = t.level := rfl
@[simp] theorem Thread.pushEntry_regs : (t.pushEntry e).regs = t.regs := rfl
@[simp] theorem Thread.pushEntry_preds : (t.pushEntry e).preds = t.preds := rfl
@[simp] theorem Thread.pushEntry_pcc : (t.pushEntry e).pcc = t.pcc := rfl
@[simp] theorem Thread.pushEntry_pass : (t.pushEntry e).pass = t.pass := rfl
@[simp] theorem Thread.pushEntry_run : (t.pushEntry e).run = t.run := rfl
@[simp] theorem Thread.pushEntry_due : (t.pushEntry e).due = t.due := rfl
@[simp] theorem Thread.pushEntry_pending : (t.pushEntry e).pending = t.pending := rfl
@[simp] theorem Thread.pushEntry_super : (t.pushEntry e).super = t.super := rfl
@[simp] theorem Thread.pushEntry_sys : (t.pushEntry e).sys = t.sys := rfl
@[simp] theorem Thread.pushEntry_failAlighted : (t.pushEntry e).failAlighted = t.failAlighted := rfl
@[simp] theorem Thread.pushEntry_failMissing : (t.pushEntry e).failMissing = t.failMissing := rfl
@[simp] theorem Thread.pushEntry_cut : (t.pushEntry e).cut = t.cut := rfl
@[simp] theorem Thread.pushEntry_missAt : (t.pushEntry e).missAt = t.missAt := rfl

end

/-! ## `Thread.push` -/

section

variable (t : Thread) (v : Word)
@[simp] theorem Thread.push_pc : (t.push v).pc = t.pc := rfl
@[simp] theorem Thread.push_level : (t.push v).level = t.level := rfl
@[simp] theorem Thread.push_regs : (t.push v).regs = t.regs := rfl
@[simp] theorem Thread.push_preds : (t.push v).preds = t.preds := rfl
@[simp] theorem Thread.push_pcc : (t.push v).pcc = t.pcc := rfl
@[simp] theorem Thread.push_pass : (t.push v).pass = t.pass := rfl
@[simp] theorem Thread.push_run : (t.push v).run = t.run := rfl
@[simp] theorem Thread.push_due : (t.push v).due = t.due := rfl
@[simp] theorem Thread.push_pending : (t.push v).pending = t.pending := rfl
@[simp] theorem Thread.push_super : (t.push v).super = t.super := rfl
@[simp] theorem Thread.push_sys : (t.push v).sys = t.sys := rfl
@[simp] theorem Thread.push_failAlighted : (t.push v).failAlighted = t.failAlighted := rfl
@[simp] theorem Thread.push_failMissing : (t.push v).failMissing = t.failMissing := rfl
@[simp] theorem Thread.push_cut : (t.push v).cut = t.cut := rfl
@[simp] theorem Thread.push_missAt : (t.push v).missAt = t.missAt := rfl

end

/-! ## `Thread.advance` -/

section

variable (t : Thread) (n : Nat)
@[simp] theorem Thread.advance_level : (t.advance n).level = t.level := rfl
@[simp] theorem Thread.advance_regs : (t.advance n).regs = t.regs := rfl
@[simp] theorem Thread.advance_queue : (t.advance n).queue = t.queue := rfl
@[simp] theorem Thread.advance_preds : (t.advance n).preds = t.preds := rfl
@[simp] theorem Thread.advance_pcc : (t.advance n).pcc = t.pcc := rfl
@[simp] theorem Thread.advance_pass : (t.advance n).pass = t.pass := rfl
@[simp] theorem Thread.advance_run : (t.advance n).run = t.run := rfl
@[simp] theorem Thread.advance_due : (t.advance n).due = t.due := rfl
@[simp] theorem Thread.advance_pending : (t.advance n).pending = t.pending := rfl
@[simp] theorem Thread.advance_super : (t.advance n).super = t.super := rfl
@[simp] theorem Thread.advance_sys : (t.advance n).sys = t.sys := rfl
@[simp] theorem Thread.advance_failAlighted : (t.advance n).failAlighted = t.failAlighted := rfl
@[simp] theorem Thread.advance_failMissing : (t.advance n).failMissing = t.failMissing := rfl
@[simp] theorem Thread.advance_cut : (t.advance n).cut = t.cut := rfl
@[simp] theorem Thread.advance_missAt : (t.advance n).missAt = t.missAt := rfl

end

/-! ## `Thread.countIssue` -/

section

variable (t : Thread) 
@[simp] theorem Thread.countIssue_pc : t.countIssue.pc = t.pc := rfl
@[simp] theorem Thread.countIssue_level : t.countIssue.level = t.level := rfl
@[simp] theorem Thread.countIssue_regs : t.countIssue.regs = t.regs := rfl
@[simp] theorem Thread.countIssue_queue : t.countIssue.queue = t.queue := rfl
@[simp] theorem Thread.countIssue_preds : t.countIssue.preds = t.preds := rfl
@[simp] theorem Thread.countIssue_pcc : t.countIssue.pcc = t.pcc := rfl
@[simp] theorem Thread.countIssue_pass : t.countIssue.pass = t.pass := rfl
@[simp] theorem Thread.countIssue_run : t.countIssue.run = t.run := rfl
@[simp] theorem Thread.countIssue_due : t.countIssue.due = t.due := rfl
@[simp] theorem Thread.countIssue_super : t.countIssue.super = t.super := rfl
@[simp] theorem Thread.countIssue_sys : t.countIssue.sys = t.sys := rfl
@[simp] theorem Thread.countIssue_failAlighted : t.countIssue.failAlighted = t.failAlighted := rfl
@[simp] theorem Thread.countIssue_failMissing : t.countIssue.failMissing = t.failMissing := rfl
@[simp] theorem Thread.countIssue_cut : t.countIssue.cut = t.cut := rfl
@[simp] theorem Thread.countIssue_missAt : t.countIssue.missAt = t.missAt := rfl

end

/-! ## `Thread.setRegs` -/

section

variable (t : Thread) (k : Nat) (vs : List Word)
@[simp] theorem Thread.setRegs_pc : (t.setRegs k vs).pc = t.pc := by
  induction vs generalizing t k with
  | nil => rfl
  | cons v vs ih => exact ih (t.setReg k v) (k + 1)
@[simp] theorem Thread.setRegs_level : (t.setRegs k vs).level = t.level := by
  induction vs generalizing t k with
  | nil => rfl
  | cons v vs ih => exact ih (t.setReg k v) (k + 1)
@[simp] theorem Thread.setRegs_queue : (t.setRegs k vs).queue = t.queue := by
  induction vs generalizing t k with
  | nil => rfl
  | cons v vs ih => exact ih (t.setReg k v) (k + 1)
@[simp] theorem Thread.setRegs_preds : (t.setRegs k vs).preds = t.preds := by
  induction vs generalizing t k with
  | nil => rfl
  | cons v vs ih => exact ih (t.setReg k v) (k + 1)
@[simp] theorem Thread.setRegs_pcc : (t.setRegs k vs).pcc = t.pcc := by
  induction vs generalizing t k with
  | nil => rfl
  | cons v vs ih => exact ih (t.setReg k v) (k + 1)
@[simp] theorem Thread.setRegs_pass : (t.setRegs k vs).pass = t.pass := by
  induction vs generalizing t k with
  | nil => rfl
  | cons v vs ih => exact ih (t.setReg k v) (k + 1)
@[simp] theorem Thread.setRegs_run : (t.setRegs k vs).run = t.run := by
  induction vs generalizing t k with
  | nil => rfl
  | cons v vs ih => exact ih (t.setReg k v) (k + 1)
@[simp] theorem Thread.setRegs_due : (t.setRegs k vs).due = t.due := by
  induction vs generalizing t k with
  | nil => rfl
  | cons v vs ih => exact ih (t.setReg k v) (k + 1)
@[simp] theorem Thread.setRegs_pending : (t.setRegs k vs).pending = t.pending := by
  induction vs generalizing t k with
  | nil => rfl
  | cons v vs ih => exact ih (t.setReg k v) (k + 1)
@[simp] theorem Thread.setRegs_super : (t.setRegs k vs).super = t.super := by
  induction vs generalizing t k with
  | nil => rfl
  | cons v vs ih => exact ih (t.setReg k v) (k + 1)
@[simp] theorem Thread.setRegs_sys : (t.setRegs k vs).sys = t.sys := by
  induction vs generalizing t k with
  | nil => rfl
  | cons v vs ih => exact ih (t.setReg k v) (k + 1)
@[simp] theorem Thread.setRegs_failAlighted : (t.setRegs k vs).failAlighted = t.failAlighted := by
  induction vs generalizing t k with
  | nil => rfl
  | cons v vs ih => exact ih (t.setReg k v) (k + 1)
@[simp] theorem Thread.setRegs_failMissing : (t.setRegs k vs).failMissing = t.failMissing := by
  induction vs generalizing t k with
  | nil => rfl
  | cons v vs ih => exact ih (t.setReg k v) (k + 1)
@[simp] theorem Thread.setRegs_cut : (t.setRegs k vs).cut = t.cut := by
  induction vs generalizing t k with
  | nil => rfl
  | cons v vs ih => exact ih (t.setReg k v) (k + 1)
@[simp] theorem Thread.setRegs_missAt : (t.setRegs k vs).missAt = t.missAt := by
  induction vs generalizing t k with
  | nil => rfl
  | cons v vs ih => exact ih (t.setReg k v) (k + 1)

end

/-! ## `Thread.pushAll` -/

section

variable (t : Thread) (vs : List Word)
@[simp] theorem Thread.pushAll_pc : (t.pushAll vs).pc = t.pc := by
  induction vs generalizing t with
  | nil => rfl
  | cons v vs ih => exact ih (t.push v)
@[simp] theorem Thread.pushAll_level : (t.pushAll vs).level = t.level := by
  induction vs generalizing t with
  | nil => rfl
  | cons v vs ih => exact ih (t.push v)
@[simp] theorem Thread.pushAll_regs : (t.pushAll vs).regs = t.regs := by
  induction vs generalizing t with
  | nil => rfl
  | cons v vs ih => exact ih (t.push v)
@[simp] theorem Thread.pushAll_preds : (t.pushAll vs).preds = t.preds := by
  induction vs generalizing t with
  | nil => rfl
  | cons v vs ih => exact ih (t.push v)
@[simp] theorem Thread.pushAll_pcc : (t.pushAll vs).pcc = t.pcc := by
  induction vs generalizing t with
  | nil => rfl
  | cons v vs ih => exact ih (t.push v)
@[simp] theorem Thread.pushAll_pass : (t.pushAll vs).pass = t.pass := by
  induction vs generalizing t with
  | nil => rfl
  | cons v vs ih => exact ih (t.push v)
@[simp] theorem Thread.pushAll_run : (t.pushAll vs).run = t.run := by
  induction vs generalizing t with
  | nil => rfl
  | cons v vs ih => exact ih (t.push v)
@[simp] theorem Thread.pushAll_due : (t.pushAll vs).due = t.due := by
  induction vs generalizing t with
  | nil => rfl
  | cons v vs ih => exact ih (t.push v)
@[simp] theorem Thread.pushAll_pending : (t.pushAll vs).pending = t.pending := by
  induction vs generalizing t with
  | nil => rfl
  | cons v vs ih => exact ih (t.push v)
@[simp] theorem Thread.pushAll_super : (t.pushAll vs).super = t.super := by
  induction vs generalizing t with
  | nil => rfl
  | cons v vs ih => exact ih (t.push v)
@[simp] theorem Thread.pushAll_sys : (t.pushAll vs).sys = t.sys := by
  induction vs generalizing t with
  | nil => rfl
  | cons v vs ih => exact ih (t.push v)
@[simp] theorem Thread.pushAll_failAlighted : (t.pushAll vs).failAlighted = t.failAlighted := by
  induction vs generalizing t with
  | nil => rfl
  | cons v vs ih => exact ih (t.push v)
@[simp] theorem Thread.pushAll_failMissing : (t.pushAll vs).failMissing = t.failMissing := by
  induction vs generalizing t with
  | nil => rfl
  | cons v vs ih => exact ih (t.push v)
@[simp] theorem Thread.pushAll_cut : (t.pushAll vs).cut = t.cut := by
  induction vs generalizing t with
  | nil => rfl
  | cons v vs ih => exact ih (t.push v)
@[simp] theorem Thread.pushAll_missAt : (t.pushAll vs).missAt = t.missAt := by
  induction vs generalizing t with
  | nil => rfl
  | cons v vs ih => exact ih (t.push v)

end

/-! ## `Thread.setPred` -/

section

variable (t : Thread) (i : Nat) (v : Bool)
@[simp] theorem Thread.setPred_pc : (t.setPred i v).pc = t.pc := by
  unfold Thread.setPred; split <;> rfl
@[simp] theorem Thread.setPred_level : (t.setPred i v).level = t.level := by
  unfold Thread.setPred; split <;> rfl
@[simp] theorem Thread.setPred_regs : (t.setPred i v).regs = t.regs := by
  unfold Thread.setPred; split <;> rfl
@[simp] theorem Thread.setPred_queue : (t.setPred i v).queue = t.queue := by
  unfold Thread.setPred; split <;> rfl
@[simp] theorem Thread.setPred_pcc : (t.setPred i v).pcc = t.pcc := by
  unfold Thread.setPred; split <;> rfl
@[simp] theorem Thread.setPred_pass : (t.setPred i v).pass = t.pass := by
  unfold Thread.setPred; split <;> rfl
@[simp] theorem Thread.setPred_run : (t.setPred i v).run = t.run := by
  unfold Thread.setPred; split <;> rfl
@[simp] theorem Thread.setPred_due : (t.setPred i v).due = t.due := by
  unfold Thread.setPred; split <;> rfl
@[simp] theorem Thread.setPred_pending : (t.setPred i v).pending = t.pending := by
  unfold Thread.setPred; split <;> rfl
@[simp] theorem Thread.setPred_super : (t.setPred i v).super = t.super := by
  unfold Thread.setPred; split <;> rfl
@[simp] theorem Thread.setPred_sys : (t.setPred i v).sys = t.sys := by
  unfold Thread.setPred; split <;> rfl
@[simp] theorem Thread.setPred_failAlighted : (t.setPred i v).failAlighted = t.failAlighted := by
  unfold Thread.setPred; split <;> rfl
@[simp] theorem Thread.setPred_failMissing : (t.setPred i v).failMissing = t.failMissing := by
  unfold Thread.setPred; split <;> rfl
@[simp] theorem Thread.setPred_cut : (t.setPred i v).cut = t.cut := by
  unfold Thread.setPred; split <;> rfl
@[simp] theorem Thread.setPred_missAt : (t.setPred i v).missAt = t.missAt := by
  unfold Thread.setPred; split <;> rfl

end

/-! ## `Thread.writeD` -/

section

variable (t : Thread) (d : Option Nat) (ws : List Word)
@[simp] theorem Thread.writeD_pc : (t.writeD d ws).pc = t.pc := by
  cases d <;> simp [Thread.writeD]
@[simp] theorem Thread.writeD_level : (t.writeD d ws).level = t.level := by
  cases d <;> simp [Thread.writeD]
@[simp] theorem Thread.writeD_queue : (t.writeD d ws).queue = t.queue := by
  cases d <;> simp [Thread.writeD]
@[simp] theorem Thread.writeD_preds : (t.writeD d ws).preds = t.preds := by
  cases d <;> simp [Thread.writeD]
@[simp] theorem Thread.writeD_pcc : (t.writeD d ws).pcc = t.pcc := by
  cases d <;> simp [Thread.writeD]
@[simp] theorem Thread.writeD_pass : (t.writeD d ws).pass = t.pass := by
  cases d <;> simp [Thread.writeD]
@[simp] theorem Thread.writeD_run : (t.writeD d ws).run = t.run := by
  cases d <;> simp [Thread.writeD]
@[simp] theorem Thread.writeD_due : (t.writeD d ws).due = t.due := by
  cases d <;> simp [Thread.writeD]
@[simp] theorem Thread.writeD_pending : (t.writeD d ws).pending = t.pending := by
  cases d <;> simp [Thread.writeD]
@[simp] theorem Thread.writeD_super : (t.writeD d ws).super = t.super := by
  cases d <;> simp [Thread.writeD]
@[simp] theorem Thread.writeD_sys : (t.writeD d ws).sys = t.sys := by
  cases d <;> simp [Thread.writeD]
@[simp] theorem Thread.writeD_failAlighted : (t.writeD d ws).failAlighted = t.failAlighted := by
  cases d <;> simp [Thread.writeD]
@[simp] theorem Thread.writeD_failMissing : (t.writeD d ws).failMissing = t.failMissing := by
  cases d <;> simp [Thread.writeD]
@[simp] theorem Thread.writeD_cut : (t.writeD d ws).cut = t.cut := by
  cases d <;> simp [Thread.writeD]
@[simp] theorem Thread.writeD_missAt : (t.writeD d ws).missAt = t.missAt := by
  cases d <;> simp [Thread.writeD]

end

/-! ## `Thread.result` -/

section

variable (t : Thread) (d : Option Nat) (ws : List Word)
@[simp] theorem Thread.result_pc : (t.result d ws).pc = t.pc := by
  simp [Thread.result]
@[simp] theorem Thread.result_level : (t.result d ws).level = t.level := by
  simp [Thread.result]
@[simp] theorem Thread.result_preds : (t.result d ws).preds = t.preds := by
  simp [Thread.result]
@[simp] theorem Thread.result_pcc : (t.result d ws).pcc = t.pcc := by
  simp [Thread.result]
@[simp] theorem Thread.result_pass : (t.result d ws).pass = t.pass := by
  simp [Thread.result]
@[simp] theorem Thread.result_run : (t.result d ws).run = t.run := by
  simp [Thread.result]
@[simp] theorem Thread.result_due : (t.result d ws).due = t.due := by
  simp [Thread.result]
@[simp] theorem Thread.result_pending : (t.result d ws).pending = t.pending := by
  simp [Thread.result]
@[simp] theorem Thread.result_super : (t.result d ws).super = t.super := by
  simp [Thread.result]
@[simp] theorem Thread.result_sys : (t.result d ws).sys = t.sys := by
  simp [Thread.result]
@[simp] theorem Thread.result_failAlighted : (t.result d ws).failAlighted = t.failAlighted := by
  simp [Thread.result]
@[simp] theorem Thread.result_failMissing : (t.result d ws).failMissing = t.failMissing := by
  simp [Thread.result]
@[simp] theorem Thread.result_cut : (t.result d ws).cut = t.cut := by
  simp [Thread.result]
@[simp] theorem Thread.result_missAt : (t.result d ws).missAt = t.missAt := by
  simp [Thread.result]

end

end Sys2Proof.Machine
end

