-- ==== Sys2Proof/Laws/Tables.lean ====
section
/-! SUPPORT. Reads after writes of the tables of a state, and the canonical form of sparse tables, which every
update keeps. -/

namespace Sys2Proof.Machine

open Sys2Proof

/-! ## Tables by key -/

section

variable {α : Type}

@[simp] theorem look_put_self (l : List (Nat × α)) (k : Nat) (v : α) : look (put l k v) k = some v := by
  induction l with
  | nil => simp [put, look]
  | cons p l ih =>
    obtain ⟨a, u⟩ := p
    by_cases h : a = k <;> simp [put, look, h, ih]

theorem look_put_of_ne (l : List (Nat × α)) {j k : Nat} (v : α) (h : j ≠ k) : look (put l k v) j = look l j := by
  induction l with
  | nil => simp [put, look, Ne.symm h]
  | cons p l ih =>
    obtain ⟨a, u⟩ := p
    by_cases ha : a = k
    · subst ha; simp [put, look, Ne.symm h]
    · simp only [put, ha, if_false, look, ih]

@[simp] theorem lookD_put_self (d : α) (l : List (Nat × α)) (k : Nat) (v : α) : lookD d (put l k v) k = v := by
  simp [lookD]

theorem lookD_put_of_ne (d : α) (l : List (Nat × α)) {j k : Nat} (v : α) (h : j ≠ k) :
    lookD d (put l k v) j = lookD d l j := by
  simp [lookD, look_put_of_ne l v h]

@[simp] theorem length_setAt (l : List α) (i : Nat) (v : α) : (setAt l i v).length = l.length := by
  induction l generalizing i with
  | nil => rfl
  | cons a l ih => cases i <;> simp [setAt, ih]

theorem getElem?_setAt_self (l : List α) (i : Nat) (v : α) (h : i < l.length) : (setAt l i v)[i]? = some v := by
  induction l generalizing i with
  | nil => simp at h
  | cons a l ih =>
    cases i with
    | zero => rfl
    | succ i => simpa [setAt] using ih i (by simpa using h)

theorem getElem?_setAt_of_ne (l : List α) {i j : Nat} (v : α) (h : j ≠ i) : (setAt l i v)[j]? = l[j]? := by
  induction l generalizing i j with
  | nil => rfl
  | cons a l ih =>
    cases i with
    | zero => cases j with
      | zero => exact absurd rfl h
      | succ j => simp [setAt]
    | succ i => cases j with
      | zero => simp [setAt]
      | succ j => simpa [setAt] using ih (i := i) (j := j) (fun e => h (by rw [e]))

end

/-! ## Sparse tables -/

section

variable {α : Type} [DecidableEq α] (d : α)

/-- The canonical form above a bound is kept by a smaller bound. -/
theorem swfFrom_weaken {l : Sparse α} {lo : Option Nat} {b : Nat} (h : swfFrom d (some b) l = true)
    (hb : ∀ a, lo = some a → a ≤ b) : swfFrom d lo l = true := by
  cases l with
  | nil => rfl
  | cons p l =>
    obtain ⟨a, v⟩ := p
    simp only [swfFrom, Bool.and_eq_true, decide_eq_true_eq] at h ⊢
    refine ⟨⟨?_, h.1.2⟩, h.2⟩
    cases lo with
    | none => rfl
    | some c => have := hb c rfl; simp only [decide_eq_true_eq]; omega

theorem sget_of_lt {l : Sparse α} {b k : Nat} (h : swfFrom d (some b) l = true) (hk : k ≤ b) : sget d l k = d := by
  cases l with
  | nil => rfl
  | cons p l =>
    obtain ⟨a, v⟩ := p
    simp only [swfFrom, Bool.and_eq_true, decide_eq_true_eq] at h
    simp [sget, show k < a by omega]

theorem swfFrom_sset {l : Sparse α} {lo : Option Nat} {k : Nat} (v : α) (h : swfFrom d lo l = true)
    (hk : ∀ a, lo = some a → a < k) : swfFrom d lo (sset d l k v) = true := by
  induction l generalizing lo with
  | nil =>
    by_cases hv : v = d
    · simp [sset, hv, swfFrom]
    · cases lo with
      | none => simp [sset, hv, swfFrom]
      | some a => simp [sset, hv, swfFrom, hk a rfl]
  | cons p l ih =>
    obtain ⟨a, u⟩ := p
    have h' := h
    simp only [swfFrom, Bool.and_eq_true, decide_eq_true_eq] at h
    unfold sset
    by_cases h1 : k < a
    · by_cases hv : v = d
      · simpa [h1, hv] using h'
      · cases lo with
        | none => simp [h1, hv, swfFrom, h.1.2, h.2]
        | some b => simp [h1, hv, swfFrom, hk b rfl, h.1.2, h.2]
    · by_cases h2 : k = a
      · subst h2
        by_cases hv : v = d
        · have : swfFrom d lo l = true := swfFrom_weaken d h.2 (fun b hb => Nat.le_of_lt (hk b hb))
          simpa [hv] using this
        · cases lo with
          | none => simp [hv, swfFrom, h.2]
          | some b => simp [hv, swfFrom, hk b rfl, h.2]
      · have ih' := ih h.2 (fun b hb => by cases hb; omega)
        simp only [h1, h2, if_false, swfFrom, Bool.and_eq_true, decide_eq_true_eq]
        exact ⟨h.1, ih'⟩

/-- A change of one key keeps the canonical form. -/
theorem swf_sset {l : Sparse α} (k : Nat) (v : α) (h : swf d l = true) : swf d (sset d l k v) = true :=
  swfFrom_sset d v h (by simp)

theorem sget_sset_self {l : Sparse α} {lo : Option Nat} (k : Nat) (v : α) (h : swfFrom d lo l = true) :
    sget d (sset d l k v) k = v := by
  induction l generalizing lo with
  | nil =>
    by_cases hv : v = d <;> simp [sset, hv, sget]
  | cons p l ih =>
    obtain ⟨a, u⟩ := p
    simp only [swfFrom, Bool.and_eq_true, decide_eq_true_eq] at h
    unfold sset
    by_cases h1 : k < a
    · by_cases hv : v = d <;> simp [h1, hv, sget]
    · by_cases h2 : k = a
      · subst h2
        by_cases hv : v = d
        · simpa [hv] using sget_of_lt d h.2 (Nat.le_refl k)
        · simp [hv, sget]
      · simpa [h1, h2, sget] using ih h.2

theorem sget_sset_of_ne {l : Sparse α} {lo : Option Nat} {j k : Nat} (v : α) (h : swfFrom d lo l = true) (hj : j ≠ k) :
    sget d (sset d l k v) j = sget d l j := by
  induction l generalizing lo with
  | nil =>
    by_cases hv : v = d
    · simp [sset, hv, sget]
    · by_cases hl : j < k <;> simp [sset, hv, sget, hl, hj]
  | cons p l ih =>
    obtain ⟨a, u⟩ := p
    simp only [swfFrom, Bool.and_eq_true, decide_eq_true_eq] at h
    unfold sset
    by_cases h1 : k < a
    · by_cases hv : v = d
      · simp [h1, hv]
      · by_cases hl : j < k
        · simp [h1, hv, sget, hl, show j < a by omega]
        · simp [h1, hv, sget, hl, hj]
    · by_cases h2 : k = a
      · subst h2
        by_cases hv : v = d
        · by_cases hl : j < k
          · simp only [Nat.lt_irrefl, if_false, if_true, hv, sget, hl]
            exact sget_of_lt d h.2 (Nat.le_of_lt hl)
          · simp [hv, sget, hl, hj]
        · by_cases hl : j < k <;> simp [hv, sget, hl, hj]
      · simp only [h1, h2, if_false, sget]
        rw [ih h.2]

end

/-! ## Runs of bytes -/

/-- The entries of a run stand at its own places, in canonical form. -/
theorem swfFrom_srun (bs : List Byte) (k : Nat) (lo : Option Nat) (h : ∀ a, lo = some a → a < k) :
    swfFrom 0 lo (srun k bs) = true := by
  induction bs generalizing k lo with
  | nil => rfl
  | cons b bs ih =>
    unfold srun
    by_cases hb : b = 0
    · simpa [hb] using ih (k + 1) lo (fun a ha => Nat.lt_succ_of_lt (h a ha))
    · have := ih (k + 1) (some k) (fun a ha => by cases ha; omega)
      rw [if_neg hb]
      cases lo with
      | none => simpa [swfFrom] using ⟨hb, this⟩
      | some a => simpa [swfFrom, h a rfl] using ⟨hb, this⟩

theorem mem_srun {bs : List Byte} {k : Nat} {p : Nat × Byte} (h : p ∈ srun k bs) : k ≤ p.1 ∧ p.1 < k + bs.length := by
  induction bs generalizing k with
  | nil => simp [srun] at h
  | cons b bs ih =>
    unfold srun at h
    by_cases hb : b = 0
    · have := ih (by simpa [hb] using h)
      simp only [List.length_cons]; omega
    · rw [if_neg hb, List.mem_cons] at h
      rcases h with rfl | h
      · simp
      · have := ih h
        simp only [List.length_cons]; omega

theorem swfFrom_filter {l : Sparse Byte} {lo : Option Nat} (f : Nat × Byte → Bool) (h : swfFrom 0 lo l = true) :
    swfFrom 0 lo (l.filter f) = true := by
  induction l generalizing lo with
  | nil => rfl
  | cons p l ih =>
    obtain ⟨a, v⟩ := p
    have h' := h
    simp only [swfFrom, Bool.and_eq_true, decide_eq_true_eq] at h
    by_cases hf : f (a, v) = true
    · simp only [List.filter_cons, hf, if_true, swfFrom, Bool.and_eq_true, decide_eq_true_eq]
      exact ⟨h.1, ih h.2⟩
    · simp only [List.filter_cons, hf]
      have := ih h.2
      refine swfFrom_weaken 0 this (fun b hb => ?_)
      subst hb
      have := h.1.1
      simp only [decide_eq_true_eq] at this
      omega

/-- Two canonical runs, the first below the second, make one. -/
theorem swfFrom_append {l m : Sparse Byte} {lo : Option Nat} {b : Nat} (h : swfFrom 0 lo l = true)
    (hl : ∀ p ∈ l, p.1 < b) (hm : ∀ lo', (∀ a, lo' = some a → a < b) → swfFrom 0 lo' m = true)
    (hb : ∀ a, lo = some a → a < b) : swfFrom 0 lo (l ++ m) = true := by
  induction l generalizing lo with
  | nil => exact hm lo hb
  | cons p l ih =>
    obtain ⟨a, v⟩ := p
    simp only [swfFrom, Bool.and_eq_true, decide_eq_true_eq] at h
    simp only [List.cons_append, swfFrom, Bool.and_eq_true, decide_eq_true_eq]
    refine ⟨h.1, ih h.2 (fun p hp => hl p (List.mem_cons_of_mem _ hp)) (fun c hc => ?_)⟩
    cases hc
    exact hl (a, v) List.mem_cons_self

theorem swfFrom_above {l : Sparse Byte} {lo : Option Nat} {b : Nat} (h : swfFrom 0 lo l = true)
    (hl : ∀ p ∈ l, b ≤ p.1) (lo' : Option Nat) (h' : ∀ a, lo' = some a → a < b) : swfFrom 0 lo' l = true := by
  cases l with
  | nil => rfl
  | cons p l =>
    obtain ⟨a, v⟩ := p
    simp only [swfFrom, Bool.and_eq_true, decide_eq_true_eq] at h ⊢
    refine ⟨⟨?_, h.1.2⟩, h.2⟩
    cases lo' with
    | none => rfl
    | some c =>
      have h1 := h' c rfl
      have h2 := hl (a, v) List.mem_cons_self
      simp only [decide_eq_true_eq] at h2 ⊢
      omega

/-- A run of bytes written keeps the canonical form. -/
theorem swf_swrite {l : Sparse Byte} (k : Nat) (bs : List Byte) (h : swf 0 l = true) : swf 0 (swrite l k bs) = true := by
  unfold swf at h ⊢
  unfold swrite
  rw [List.append_assoc]
  refine swfFrom_append (b := k) (swfFrom_filter _ h) (by simp) (fun lo' hlo' => ?_) (by simp)
  refine swfFrom_append (b := k + bs.length) (swfFrom_srun bs k lo' hlo') (fun p hp => (mem_srun hp).2)
    (fun lo'' hlo'' => ?_) (fun a ha => by have := hlo' a ha; omega)
  exact swfFrom_above (swfFrom_filter (fun p => decide (k + bs.length ≤ p.1)) h) (by simp) lo'' hlo''

/-! ## Reading a run back -/

/-- The keys of a canonical table stand above its bound. -/
theorem keys_above {l : Sparse Byte} {b : Nat} (h : swfFrom 0 (some b) l = true) : ∀ p ∈ l, b < p.1 := by
  induction l generalizing b with
  | nil => simp
  | cons q l ih =>
    obtain ⟨a, u⟩ := q
    simp only [swfFrom, Bool.and_eq_true, decide_eq_true_eq] at h
    intro p hp
    rcases List.mem_cons.1 hp with e | hp
    · cases e; exact h.1.1
    · have := ih h.2 p hp
      have := h.1.1
      omega

theorem sget_of_mem {l : Sparse Byte} {lo : Option Nat} {k : Nat} {v : Byte} (h : swfFrom 0 lo l = true)
    (hm : (k, v) ∈ l) : sget 0 l k = v := by
  induction l generalizing lo with
  | nil => simp at hm
  | cons p l ih =>
    obtain ⟨a, u⟩ := p
    simp only [swfFrom, Bool.and_eq_true, decide_eq_true_eq] at h
    unfold sget
    rcases List.mem_cons.1 hm with e | hm
    · cases e; simp
    · have := keys_above h.2 _ hm
      simp only at this
      rw [if_neg (by omega), if_neg (by omega)]
      exact ih h.2 hm

theorem sget_of_not_mem {l : Sparse Byte} {k : Nat} (h : ∀ p ∈ l, p.1 ≠ k) : sget 0 l k = 0 := by
  induction l with
  | nil => rfl
  | cons p l ih =>
    obtain ⟨a, u⟩ := p
    have ha : a ≠ k := h (a, u) List.mem_cons_self
    unfold sget
    by_cases h1 : k < a
    · rw [if_pos h1]
    · rw [if_neg h1, if_neg (Ne.symm ha)]
      exact ih fun q hq => h q (List.mem_cons_of_mem _ hq)

/-- The entries of a run: each byte that is not 0, at its place. -/
theorem mem_srun_iff {bs : List Byte} {k : Nat} {p : Nat × Byte} :
    p ∈ srun k bs ↔ k ≤ p.1 ∧ bs[p.1 - k]? = some p.2 ∧ p.2 ≠ 0 := by
  induction bs generalizing k with
  | nil => simp [srun]
  | cons b bs ih =>
    obtain ⟨a, v⟩ := p
    have e : ∀ h : k + 1 ≤ a, (b :: bs)[a - k]? = bs[a - (k + 1)]? := fun h => by
      rw [show a - k = (a - (k + 1)) + 1 by omega]; rfl
    unfold srun
    by_cases hb : b = 0
    · rw [if_pos hb, ih]
      constructor
      · rintro ⟨h1, h2, h3⟩
        exact ⟨by omega, by rw [e h1]; exact h2, h3⟩
      · rintro ⟨h1, h2, h3⟩
        by_cases hk : a = k
        · subst hk
          simp only [Nat.sub_self, List.getElem?_cons_zero, Option.some.injEq] at h2
          exact absurd (h2 ▸ hb) h3
        · have h : k + 1 ≤ a := by omega
          exact ⟨h, by rw [← e h]; exact h2, h3⟩
    · rw [if_neg hb, List.mem_cons, ih]
      constructor
      · rintro (h | ⟨h1, h2, h3⟩)
        · cases h; exact ⟨Nat.le_refl _, by simp, hb⟩
        · exact ⟨by omega, by rw [e h1]; exact h2, h3⟩
      · rintro ⟨h1, h2, h3⟩
        by_cases hk : a = k
        · subst hk
          simp only [Nat.sub_self, List.getElem?_cons_zero, Option.some.injEq] at h2
          exact Or.inl (by rw [h2])
        · have h : k + 1 ≤ a := by omega
          exact Or.inr ⟨h, by rw [← e h]; exact h2, h3⟩

/-- A byte of a table after a run is written (R105): the run's own byte in it, and the old one outside. -/
theorem sget_swrite {l : Sparse Byte} (k : Nat) (bs : List Byte) (a : Nat) (h : swf 0 l = true) :
    sget 0 (swrite l k bs) a = if k ≤ a ∧ a < k + bs.length then bs.getD (a - k) 0 else sget 0 l a := by
  have hw := swf_swrite k bs h
  unfold swf at hw h
  have mem : ∀ v, (a, v) ∈ swrite l k bs ↔
      ((a, v) ∈ l ∧ (a < k ∨ k + bs.length ≤ a)) ∨ (k ≤ a ∧ bs[a - k]? = some v ∧ v ≠ 0) := by
    intro v
    unfold swrite
    simp only [List.mem_append, List.mem_filter, decide_eq_true_eq, mem_srun_iff]
    constructor
    · rintro ((h | h) | h)
      · exact Or.inl ⟨h.1, Or.inl h.2⟩
      · exact Or.inr h
      · exact Or.inl ⟨h.1, Or.inr h.2⟩
    · rintro (⟨h, h' | h'⟩ | h)
      · exact Or.inl (Or.inl ⟨h, h'⟩)
      · exact Or.inr ⟨h, h'⟩
      · exact Or.inl (Or.inr h)
  have read : ∀ (m : Sparse Byte) (v : Byte), swfFrom 0 none m = true → (v = 0 → ∀ u, (a, u) ∉ m) →
      (v ≠ 0 → (a, v) ∈ m) → sget 0 m a = v := by
    intro m v hm h0 h1
    by_cases hv : v = 0
    · rw [hv]
      exact sget_of_not_mem fun p hp e => h0 hv p.2 (by rw [← e]; exact hp)
    · exact sget_of_mem hm (h1 hv)
  have nz : ∀ u, (a, u) ∈ l → u ≠ 0 ∧ sget 0 l a = u := by
    intro u hu
    refine ⟨?_, sget_of_mem h hu⟩
    clear mem read hw
    generalize (none : Option Nat) = lo at h
    induction l generalizing lo with
    | nil => simp at hu
    | cons p l ih =>
      obtain ⟨b, w⟩ := p
      simp only [swfFrom, Bool.and_eq_true, decide_eq_true_eq] at h
      rcases List.mem_cons.1 hu with e | hu
      · cases e; exact h.1.2
      · exact ih hu (some b) h.2
  split
  · rename_i hr
    refine read _ _ hw (fun h0 u hu => ?_) (fun h0 => ?_)
    · rcases (mem u).1 hu with ⟨-, h'⟩ | ⟨-, h', hu0⟩
      · omega
      · rw [List.getD_eq_getElem?_getD, h'] at h0
        exact hu0 h0
    · refine (mem _).2 (Or.inr ⟨hr.1, ?_, h0⟩)
      rw [List.getD_eq_getElem?_getD, List.getElem?_eq_getElem (by omega)]
      rfl
  · rename_i hr
    refine read _ _ hw (fun h0 u hu => ?_) (fun h0 => ?_)
    · rcases (mem u).1 hu with ⟨h', -⟩ | ⟨h1, h', -⟩
      · exact (nz u h').1 ((nz u h').2.symm.trans h0)
      · have := (List.getElem?_eq_some_iff.1 h').1
        omega
    · refine (mem _).2 (Or.inl ⟨?_, by omega⟩)
      refine Classical.byContradiction fun hc => h0 (sget_of_not_mem fun p hp e => hc ?_)
      have hp' : (a, p.2) ∈ l := by rw [← e]; exact hp
      rw [(nz p.2 hp').2]
      exact hp'

/-- A byte of a run that is read. -/
theorem getElem?_sbytes {l : Sparse Byte} (k n i : Nat) (h : swf 0 l = true) (hi : i < n) :
    (sbytes l k n)[i]? = some (sget 0 l (k + i)) := by
  unfold sbytes
  simp only [List.getElem?_map, List.getElem?_range hi, Option.map_some, Option.some.injEq]
  unfold swf at h
  by_cases hm : ∃ v, (k + i, v) ∈ l
  · obtain ⟨v, hv⟩ := hm
    rw [sget_of_mem h hv]
    refine sget_of_mem (swfFrom_filter _ h) (List.mem_filter.2 ⟨hv, ?_⟩)
    simp only [decide_eq_true_eq]
    omega
  · have hn : ∀ p ∈ l, p.1 ≠ k + i := fun p hp e => hm ⟨p.2, by rw [← e]; exact hp⟩
    rw [sget_of_not_mem hn]
    exact sget_of_not_mem fun p hp => hn p (List.mem_filter.1 hp).1

@[simp] theorem length_sbytes (l : Sparse Byte) (k n : Nat) : (sbytes l k n).length = n := by simp [sbytes]

end Sys2Proof.Machine
end

