-- ==== Sys2Proof/Laws/Issue.lean ====
section
/-! SUPPORT. What an issue group does, said once: an instruction in one lane, and an instruction whose threads act
on their own over all lanes of its group. -/

namespace Sys2Proof.Machine

open Sys2Proof

/-! ## Waves -/

theorem find?_map_id {l : List Wave} {v w : Wave} (h : l.find? (fun x => decide (x.id = w.id)) = some w)
    (hv : v.id = w.id) :
    (l.map fun x => if x.id = v.id then v else x).find? (fun x => decide (x.id = w.id)) = some v := by
  induction l with
  | nil => simp at h
  | cons x l ih =>
    by_cases hx : x.id = w.id
    · simp [hx, hv]
    · simp only [List.find?_cons, hx, decide_false] at h
      simp only [List.map_cons, hv, hx, if_false, List.find?_cons, decide_false]
      rw [← hv]
      simpa [hv] using ih h

theorem wave?_setWave {s : State} {w : Wave} (v : Wave) (h : s.wave? w.id = some w) (hv : v.id = w.id) :
    (s.setWave v).wave? w.id = some v := find?_map_id h hv

theorem wave?_counted {s : State} {w : Wave} (h : s.wave? w.id = some w) : (s.counted w).wave? w.id = some w.counted :=
  wave?_setWave w.counted h rfl

theorem setThread_setWave (s : State) (v : Wave) (lane : Nat) (t : Thread) :
    (s.setWave v).setThread v.id lane t = s.setWave { v with threads := setAt v.threads lane t } := by
  simp only [State.setWave, State.setThread, List.map_map]
  congr 1
  apply List.map_congr_left
  intro x _
  simp only [Function.comp]
  by_cases hx : x.id = v.id <;> simp [hx]

/-! ## One lane -/

/-- What a body's answer makes of the state around an issuing lane. -/
def TRes.settle (r : TRes) (s : State) (w : Wave) (lane : Nat) (t : Thread) : State :=
  match r with
  | .done s' t' => s'.setThread w.id lane t'
  | .fault c e => (s.counted w).setThread w.id lane (t.fault c e (w.seq + 1))
  | .poison e pa =>
    ((s.counted w).logCheck (dieOf w.core) w.core 1 0 0 0 pa).setThread w.id lane (t.fault .poison e (w.seq + 1))
  | .hold s' => s'

/-- An instruction that one lane issues, its checks passed, its qualifying predicate true and no operand pending. -/
theorem execLanes_one {need : Level} {sh : Shape} {f : Fields} {off : Thread → Thread}
    {body : State → Wave → Nat → Thread → TRes} {s : State} {w : Wave} {lane : Nat} {t : Thread}
    (h : Issues need sh f s w lane t) :
    execLanes need sh f off body s =
      .next ((body (s.counted w) w.counted lane (t.issued (s.counted w) sh f)).settle s w lane t) := by
  obtain ⟨hcur, hw, ht, hc, hq, hl⟩ := h
  have hw' : (s.setWave { w with seq := w.seq + 1 }).wave? w.id = some { w with seq := w.seq + 1 } :=
    wave?_setWave { w with seq := w.seq + 1 } hw rfl
  simp only [execLanes, withGroup, hcur, hw, Wave.levelOf, ht, Option.map_some, Option.getD_some, hc, List.foldl_cons,
    List.foldl_nil, runLane, hw', hq, hl, Bool.not_true, Bool.false_eq_true, if_false]
  simp only [State.counted, Wave.counted]
  rfl

/-! ## All lanes -/

theorem mapIdx_setAt {α : Type} (l : List α) (i : Nat) (a v : α) (rest : List Nat) (h : Nat → α → α) (hi : l[i]? = some a)
    (hn : i ∉ rest) (hv : v = h i a) :
    (setAt l i v).mapIdx (fun j x => if j ∈ rest then h j x else x) =
      l.mapIdx fun j x => if j ∈ i :: rest then h j x else x := by
  apply List.ext_getElem?
  intro j
  simp only [List.getElem?_mapIdx]
  by_cases hj : j = i
  · subst hj
    have hlt : j < l.length := by
      by_cases hlt : j < l.length
      · exact hlt
      · simp [List.getElem?_eq_none (Nat.le_of_not_lt hlt)] at hi
    rw [getElem?_setAt_self l j v hlt, hi]
    simp [hn, hv]
  · rw [getElem?_setAt_of_ne l v hj]
    simp [hj]

theorem mapIdx_none {α : Type} (l : List α) (i : Nat) (rest : List Nat) (h : Nat → α → α) (hi : l[i]? = none) :
    (l.mapIdx fun j x => if j ∈ rest then h j x else x) = l.mapIdx fun j x => if j ∈ i :: rest then h j x else x := by
  apply List.ext_getElem?
  intro j
  simp only [List.getElem?_mapIdx]
  by_cases hj : j = i
  · subst hj; simp [hi]
  · simp [hj]

theorem wave?_withThreads {s : State} {w : Wave} (ts : List Thread) (h : s.wave? w.id = some w) :
    (s.setWave (w.withThreads ts)).wave? w.id = some (w.withThreads ts) :=
  wave?_setWave (w.withThreads ts) h rfl

/-- Lanes of a wave act in turn: where one lane's part changes only its thread, to `h` of it, the whole group's does
so for each. -/
theorem foldl_lanes {s : State} {w : Wave} {h : Nat → Thread → Thread} {step : State → Nat → State} {all : List Nat}
    (hstep : ∀ (ts : List Thread) (l : Nat), l ∈ all →
      ts[l]? = w.threads[l]? →
      step (s.setWave (w.withThreads ts)) l =
        match ts[l]? with
        | some t => (s.setWave (w.withThreads ts)).setThread w.id l (h l t)
        | none => s.setWave (w.withThreads ts))
    (lanes : List Nat) (hn : lanes.Nodup) (ts : List Thread) (hts : ∀ l ∈ lanes, l ∈ all ∧ ts[l]? = w.threads[l]?) :
    lanes.foldl step (s.setWave (w.withThreads ts)) =
      s.setWave (w.withThreads (ts.mapIdx fun l t => if l ∈ lanes then h l t else t)) := by
  induction lanes generalizing ts with
  | nil =>
    have : (ts.mapIdx fun l t => if l ∈ ([] : List Nat) then h l t else t) = ts := by
      apply List.ext_getElem?
      intro j
      simp [List.getElem?_mapIdx]
    rw [this]; rfl
  | cons a lanes ih =>
    rw [List.nodup_cons] at hn
    rw [List.foldl_cons, hstep ts a (hts a (List.mem_cons_self ..)).1 (hts a (List.mem_cons_self ..)).2]
    cases ht : ts[a]? with
    | none =>
      simp only []
      rw [ih hn.2 _ fun l hl => hts l (List.mem_cons_of_mem _ hl), mapIdx_none ts a lanes h ht]
    | some t =>
      simp only []
      have e : (s.setWave (w.withThreads ts)).setThread w.id a (h a t) = s.setWave (w.withThreads (setAt ts a (h a t))) :=
        setThread_setWave s (w.withThreads ts) a (h a t)
      have hts' : ∀ l ∈ lanes, l ∈ all ∧ (setAt ts a (h a t))[l]? = w.threads[l]? := by
        intro l hl
        have hh := hts l (List.mem_cons_of_mem _ hl)
        exact ⟨hh.1, by rw [getElem?_setAt_of_ne ts _ (fun e => hn.1 (by rw [← e]; exact hl)), hh.2]⟩
      rw [e, ih hn.2 _ hts', mapIdx_setAt ts a t _ lanes h ht hn.1 rfl]

/-- A body that changes only its own thread, whatever the other threads are. -/
def Own (f : Fields) (s : State) (w : Wave) (body : State → Wave → Nat → Thread → TRes) (g : Nat → Thread → Thread) : Prop :=
  ∀ (ts : List Thread) (l : Nat) (t : Thread), t.qual f = true →
    body (s.setWave (w.withThreads ts)) (w.withThreads ts) l t = .done (s.setWave (w.withThreads ts)) (g l t)

theorem qual_issued (t : Thread) (s : State) (sh : Shape) (f : Fields) : (t.issued s sh f).qual f = t.qual f := by
  unfold Thread.issued Thread.sampled Thread.countIssue Thread.qual Thread.pred
  dsimp only
  split <;> rfl

theorem counted_eq (s : State) (w : Wave) : s.setWave { w with seq := w.seq + 1 } = s.setWave (w.withThreads w.threads) := rfl

/-- An instruction whose threads each change only themselves, over all lanes of its group. -/
theorem execLanes_all {need : Level} {sh : Shape} {f : Fields} {off : Thread → Thread}
    {body : State → Wave → Nat → Thread → TRes} {s : State} {w : Wave} {lanes : List Nat} {g : Nat → Thread → Thread}
    (hg : Group need sh f s w lanes) (hb : Own f s w body g) :
    execLanes need sh f off body s = .next (s.setWave (w.mapLanes lanes (laneAfter sh f s w off g))) := by
  obtain ⟨hcur, hw, hn, hc⟩ := hg
  have e : execLanes need sh f off body s =
      .next (match checkIssue need (w.levelOf lanes) sh f w.blocks with
        | some (c, e) => faultLanes (s.setWave { w with seq := w.seq + 1 }) w.id lanes c e (w.seq + 1)
        | none => lanes.foldl (runLane sh f (w.seq + 1) off body w.id) (s.setWave { w with seq := w.seq + 1 })) := by
    simp only [execLanes, withGroup, hcur, hw]
    rfl
  rw [e, hc]
  simp only []
  rw [counted_eq, foldl_lanes (h := laneAfter sh f s w off g) ?_ lanes hn w.threads fun _ h => ⟨h, rfl⟩]
  · rfl
  · intro ts l _ _
    simp only [runLane, wave?_withThreads ts hw]
    have hth : (w.withThreads ts).threads = ts := rfl
    rw [hth]
    cases ht : ts[l]? with
    | none => rfl
    | some t =>
      simp only [laneAfter]
      cases hq : t.qual f with
      | false => simp
      | true =>
        simp only [Bool.not_true, Bool.false_eq_true, if_false]
        cases hl : t.lookahead sh f with
        | some o => rfl
        | none =>
          simp only []
          have := hb ts l (t.issued (s.setWave (w.withThreads ts)) sh f) (by rw [qual_issued]; exact hq)
          simp only [this]
          rfl

/-! ## Operands do not depend on the other threads -/

theorem read32_setWave (s : State) (v : Wave) (w : Wave) (ts : List Thread) (l : Nat) (t : Thread) (f : Fields) (o : Src) :
    read32 (s.setWave v) (w.withThreads ts) l t f o = read32 s w l t f o := by cases o <;> rfl

theorem read64_setWave (s : State) (v : Wave) (w : Wave) (ts : List Thread) (l : Nat) (t : Thread) (f : Fields) (o : Src) :
    read64 (s.setWave v) (w.withThreads ts) l t f o = read64 s w l t f o := by cases o <;> rfl

/-! ## Lanes that act together -/

theorem modThread_setWave {s : State} {w : Wave} (hw : s.wave? w.id = some w) (ts : List Thread) (l : Nat)
    (g : Thread → Thread) :
    (s.setWave (w.withThreads ts)).modThread w.id l g =
      match ts[l]? with
      | some t => (s.setWave (w.withThreads ts)).setThread w.id l (g t)
      | none => s.setWave (w.withThreads ts) := by
  simp only [State.modThread, State.thread?, wave?_withThreads ts hw, Option.bind_some]
  rfl

/-- A participating lane is one of the group, its qualifying predicate true and none of its operands pending. -/
theorem mem_clearLanes {w : Wave} {sh : Shape} {f : Fields} {lanes : List Nat} {l : Nat} {t : Thread}
    (ht : w.threads[l]? = some t) :
    l ∈ w.clearLanes sh f lanes ↔ l ∈ lanes ∧ t.qual f = true ∧ t.lookahead sh f = none := by
  simp only [Wave.clearLanes, Wave.onLanes, List.mem_filter, ht, Option.map_some, Option.getD_some,
    Option.isNone_iff_eq_none, and_assoc]

/-- An instruction whose participating threads act together and none of them faults, over all lanes of its group:
`g'` is its effect, whatever the other threads are. -/
theorem execAcross_all {sh : Shape} {f : Fields} {g : State → Wave → List Nat → Nat → Thread → Thread} {s : State} {w : Wave}
    {lanes : List Nat} {g' : List Nat → Nat → Thread → Thread} (hg : Group .user sh f s w lanes)
    (hgi : ∀ ts on l t, g (s.setWave (w.withThreads ts)) (w.issued s sh f).counted on l t = g' on l t) :
    execAcross sh f (fun _ _ _ _ => none) g s = .next (s.setWave (w.mapLanes lanes (laneAfter sh f s w (fun t => t.off sh f)
      fun l t => (g' (w.clearLanes sh f lanes) l t).advance f.form.len))) := by
  obtain ⟨hcur, hw, hn, hc⟩ := hg
  have hon : ∀ l : List Nat, l.filter (fun _ => (none : Option (Cause × DWord)).isNone) = l := by
    intro l; simp
  have e : execAcross sh f (fun _ _ _ _ => none) g s =
      .next (match checkIssue .user (w.levelOf lanes) sh f w.blocks with
        | some (c, e) => faultLanes (s.setWave { w with seq := w.seq + 1 }) w.id lanes c e (w.seq + 1)
        | none =>
          let fails (l : Nat) : Option (Cause × DWord) := ((w.issued s sh f).threads[l]?).bind fun _ => none
          let on := (w.clearLanes sh f lanes).filter fun l => (fails l).isNone
          lanes.foldl (fun s' lane =>
            if on.contains lane then
              s'.modThread w.id lane fun t => (g s' (w.issued s sh f).counted on lane (t.issued s' sh f)).advance f.form.len
            else if (w.clearLanes sh f lanes).contains lane then
              match fails lane with
              | some (c, e) => (logVault s' w.counted c e).modThread w.id lane fun t => t.fault c e (w.seq + 1)
              | none => s'
            else runOthers sh f w.counted s' lane) (s.counted w)) := by
    simp only [execAcross, withGroup, hcur, hw]
    rfl
  have hf : ∀ l : Nat, (((w.issued s sh f).threads[l]?).bind fun _ => (none : Option (Cause × DWord))) = none := by
    intro l; cases (w.issued s sh f).threads[l]? <;> rfl
  rw [e, hc]
  simp only [hf, hon]
  have hcounted : s.counted w = s.setWave (w.withThreads w.threads) := rfl
  rw [hcounted]
  rw [foldl_lanes (h := laneAfter sh f s w (fun t => t.off sh f)
      fun l t => (g' (w.clearLanes sh f lanes) l t).advance f.form.len) ?_ lanes hn w.threads fun _ h => ⟨h, rfl⟩]
  · rfl
  · intro ts l hl hts
    have hmem : ∀ t, ts[l]? = some t → ((w.clearLanes sh f lanes).contains l = true ↔ t.qual f = true ∧ t.lookahead sh f = none) := by
      intro t ht
      rw [List.contains_iff_mem, mem_clearLanes (hts ▸ ht)]
      simp [hl]
    cases ht : ts[l]? with
    | none =>
      have hno : (w.clearLanes sh f lanes).contains l = false := by
        cases hc : (w.clearLanes sh f lanes).contains l with
        | false => rfl
        | true =>
          rw [List.contains_iff_mem] at hc
          simp [Wave.clearLanes, Wave.onLanes, ← hts, ht] at hc
      simp only [hno, Bool.false_eq_true, if_false, runOthers]
      exact (modThread_setWave hw ts l _).trans (by rw [ht])
    | some t =>
      simp only [modThread_setWave hw, ht, laneAfter]
      cases hq : t.qual f with
      | false =>
        have hno : (w.clearLanes sh f lanes).contains l = false := by
          cases hc : (w.clearLanes sh f lanes).contains l with
          | false => rfl
          | true => exact absurd ((hmem t ht).1 hc).1 (by simp [hq])
        simp only [hno, Bool.false_eq_true, if_false, runOthers]
        refine (modThread_setWave hw ts l _).trans ?_
        rw [ht]
        simp [hq]
      | true =>
        cases hk : t.lookahead sh f with
        | some o =>
          have hno : (w.clearLanes sh f lanes).contains l = false := by
            cases hc : (w.clearLanes sh f lanes).contains l with
            | false => rfl
            | true => exact absurd ((hmem t ht).1 hc).2 (by simp [hk])
          simp only [hno, Bool.false_eq_true, if_false, runOthers]
          refine (modThread_setWave hw ts l _).trans ?_
          rw [ht]
          simp [hq, hk, Wave.counted]
        | none =>
          have hyes : (w.clearLanes sh f lanes).contains l = true := (hmem t ht).2 ⟨hq, hk⟩
          simp only [hyes, if_true, hgi]
          rfl

/-! ## Statements about one lane, from the body of the meaning -/

theorem fieldsOk_of_checks {need level : Level} {sh : Shape} {f : Fields} {blocks : Nat}
    (h : checkIssue need level sh f blocks = none) : sh.fieldsOk f = true := by
  unfold checkIssue at h
  cases hf : sh.fieldsOk f
  · simp only [hf] at h
    split at h <;> first | cases h | skip
    split at h <;> cases h
  · rfl

theorem completes_of_lanes {i : Instr} {need : Level} {sh : Shape} {f : Fields} {P : State → Wave → Nat → Thread → Prop}
    {after : State → Wave → Nat → Thread → State × Thread} {off : Thread → Thread} {body : State → Wave → Nat → Thread → TRes}
    (he : ∀ s, exec i s = execLanes need sh f off body s)
    (hb : sh.fieldsOk f = true → ∀ s w l t, P s w l t → body s w l t = .done (after s w l t).1 (after s w l t).2) :
    Completes i need sh f P after := by
  intro s w lane t hi hp
  rw [he, execLanes_one hi, show t.issued (s.counted w) sh f = t.issued s sh f from rfl, hb (fieldsOk_of_checks hi.checks) _ _ _ _ hp]
  rfl

theorem faultsOn_of_lanes {i : Instr} {need : Level} {sh : Shape} {f : Fields}
    {c : State → Wave → Nat → Thread → Option (Cause × DWord)} {off : Thread → Thread} {body : State → Wave → Nat → Thread → TRes}
    (he : ∀ s, exec i s = execLanes need sh f off body s)
    (hb : sh.fieldsOk f = true → ∀ s w l t r, c s w l t = some r → body s w l t = .fault r.1 r.2) :
    FaultsOn i need sh f c := by
  intro s w lane t r hi hp
  rw [he, execLanes_one hi, show t.issued (s.counted w) sh f = t.issued s sh f from rfl, hb (fieldsOk_of_checks hi.checks) _ _ _ _ r hp]
  rfl

theorem waits_of_lanes {i : Instr} {need : Level} {sh : Shape} {f : Fields} {P : State → Wave → Nat → Thread → Prop}
    {off : Thread → Thread} {body : State → Wave → Nat → Thread → TRes}
    (he : ∀ s, exec i s = execLanes need sh f off body s)
    (hb : sh.fieldsOk f = true → ∀ s w l t, P s w l t → body s w l t = .hold s) :
    Waits i need sh f P := by
  intro s w lane t hi hp
  rw [he, execLanes_one hi, show t.issued (s.counted w) sh f = t.issued s sh f from rfl, hb (fieldsOk_of_checks hi.checks) _ _ _ _ hp]
  rfl

theorem setAt_setAt {α : Type} (l : List α) (i : Nat) (a b : α) : setAt (setAt l i a) i b = setAt l i b := by
  induction l generalizing i with
  | nil => rfl
  | cons x l ih => cases i <;> simp [setAt, ih]

theorem setThread_setThread (s : State) (id lane : Nat) (a b : Thread) :
    (s.setThread id lane a).setThread id lane b = s.setThread id lane b := by
  simp only [State.setThread, List.map_map]
  congr 1
  apply List.map_congr_left
  intro x _
  simp only [Function.comp]
  by_cases hx : x.id = id <;> simp [hx, setAt_setAt]

theorem thread?_setThread {s : State} {id lane : Nat} {t u : Thread} (h : s.thread? id lane = some t) :
    (s.setThread id lane u).thread? id lane = some u := by
  simp only [State.thread?, State.wave?, State.setThread] at *
  revert h
  generalize s.waves = ws
  intro h
  induction ws with
  | nil => simp at h
  | cons x l ih =>
    by_cases hx : x.id = id
    · simp only [List.find?_cons, hx, decide_true, Option.bind_some] at h
      simp only [List.map_cons, hx, if_true, List.find?_cons, decide_true, Option.bind_some]
      exact getElem?_setAt_self _ _ _ (by
        by_cases hl : lane < x.threads.length
        · exact hl
        · simp [List.getElem?_eq_none (Nat.le_of_not_lt hl)] at h)
    · simp only [List.find?_cons, hx, decide_false] at h
      simp only [List.map_cons, hx, if_false, List.find?_cons, decide_false]
      exact ih h

theorem modThread_of_thread? {s : State} {id lane : Nat} {t : Thread} (g : Thread → Thread) (h : s.thread? id lane = some t) :
    s.modThread id lane g = s.setThread id lane (g t) := by
  simp only [State.modThread, h]

theorem thread?_counted {need : Level} {sh : Shape} {f : Fields} {s : State} {w : Wave} {lane : Nat} {t : Thread}
    (h : Issues need sh f s w lane t) : (s.counted w).thread? w.id lane = some t := by
  simp only [State.thread?, wave?_counted h.wave, Option.bind_some]
  exact h.thread

/-- A wave instruction that one lane issues: what its body answers. -/
theorem execWaveAt_one {need : Level} {sh : Shape} {f : Fields} {vals : State → Wave → Nat → Thread → List Word}
    {body : State → Wave → List Nat → List Word → WRes} {s : State} {w : Wave} {lane : Nat} {t : Thread}
    (h : Issues need sh f s w lane t) :
    execWaveAt need sh f vals body s = .next
      (match body (s.counted w) w.counted [lane] (vals (s.counted w) w.counted lane (t.issued s sh f)) with
      | .done s' g => (runOthers sh f w.counted s' lane).modThread w.id lane fun t => g lane (t.issued (runOthers sh f w.counted s' lane) sh f)
      | .fault c e => (logVault (runOthers sh f w.counted (s.counted w) lane) w.counted c e).modThread w.id lane fun t => t.fault c e (w.seq + 1)
      | .faultAll c e => (s.counted w).modThread w.id lane fun t => t.fault c e (w.seq + 1)
      | .hold => s.counted w) := by
  obtain ⟨hcur, hw, ht, hc, hq, hl⟩ := h
  have hcl : w.counted.clearLanes sh f [lane] = [lane] := by
    have ht' : w.counted.threads[lane]? = some t := ht
    simp [Wave.clearLanes, Wave.onLanes, ht', hq, hl]
  have hc' : checkIssue need (w.counted.levelOf [lane]) sh f w.counted.blocks = none := by
    have : w.counted.levelOf [lane] = t.level := by
      have ht' : w.counted.threads[lane]? = some t := ht
      simp [Wave.levelOf, ht']
    rw [this]; exact hc
  have ht' : w.counted.threads[lane]? = some t := ht
  have e : execWaveAt need sh f vals body s = withGroup s fun s w lanes =>
    match checkIssue need (w.levelOf lanes) sh f w.blocks with
    | some (c, e) => faultLanes s w.id lanes c e w.seq
    | none =>
      let on := w.clearLanes sh f lanes
      let vs := on.map fun l => ((w.threads[l]?).map fun t => vals s w l (t.issued s sh f)).getD []
      let others (s : State) : State := lanes.foldl (runOthers sh f w) s
      match on, vs with
      | _ :: _, v :: _ =>
        if !allSame vs then faultLanes s w.id lanes .illegal 7 w.seq
        else
          match body s w on v with
          | .done s' g =>
            on.foldl (fun s lane => s.modThread w.id lane fun t => g lane (t.issued s sh f)) (others s')
          | .fault c e => faultLanes (logVault (others s) w c e) w.id on c e w.seq
          | .faultAll c e => faultLanes s w.id lanes c e w.seq
          | .hold => s
      | _, _ => others s := rfl
  rw [e]
  simp only [withGroup, hcur, hw]
  have hcc : ({ w with seq := w.seq + 1 } : Wave) = w.counted := rfl
  have hss : s.setWave w.counted = s.counted w := rfl
  have hc'' : checkIssue need (w.counted.levelOf [lane]) sh f w.blocks = none := hc'
  simp only [hcc, hss, hc'', hcl, List.map_cons, List.map_nil, ht, Option.map_some, Option.getD_some, allSame, List.all_nil,
    Bool.not_true, Bool.false_eq_true, if_false, List.foldl_cons, List.foldl_nil]
  have hi : t.issued (s.counted w) sh f = t.issued s sh f := rfl
  rw [hi]
  cases body (s.counted w) w.counted [lane] (vals (s.counted w) w.counted lane (t.issued s sh f)) with
  | done s' g => rfl
  | fault c e => rfl
  | faultAll c e => rfl
  | hold => rfl

theorem runOthers_one {need : Level} {sh : Shape} {f : Fields} {s s' : State} {w : Wave} {lane : Nat} {t : Thread}
    (h : Issues need sh f s w lane t) (hs : s'.thread? w.id lane = some t) :
    runOthers sh f w.counted s' lane = s'.setThread w.id lane t := by
  have hs' : s'.thread? w.counted.id lane = some t := hs
  simp only [runOthers, modThread_of_thread? _ hs', h.on, h.clear, Bool.not_true, Bool.false_eq_true, if_false]
  rfl

theorem issued_congr {s1 s2 : State} {t : Thread} {sh : Shape} {f : Fields} (h : s1.pcc = s2.pcc) :
    t.issued s1 sh f = t.issued s2 sh f := by
  simp only [Thread.issued, Thread.sampled, h]

/-- A wave instruction that one lane issues and that completes: the state around the thread keeps the thread and PCC. -/
theorem completes_of_wave {i : Instr} {need : Level} {sh : Shape} {f : Fields} {P : State → Wave → Nat → Thread → Prop}
    {after : State → Wave → Nat → Thread → State × Thread} {vals : State → Wave → Nat → Thread → List Word}
    {body : State → Wave → List Nat → List Word → WRes}
    (he : ∀ s, exec i s = execWaveAt need sh f vals body s)
    (hb : sh.fieldsOk f = true → ∀ s w l t, P s w l t → ∃ g, body s w [l] (vals s w l t) = .done (after s w l t).1 g ∧ g l t = (after s w l t).2)
    (hk : ∀ s w l t, s.wave? w.id = some w → (after s w l t).1.thread? w.id l = s.thread? w.id l ∧ (after s w l t).1.pcc = s.pcc) :
    Completes i need sh f P after := by
  intro s w lane t hi hp
  obtain ⟨g, hg, hg'⟩ := hb (fieldsOk_of_checks hi.checks) _ _ _ _ hp
  have hk' := hk (s.counted w) w.counted lane (t.issued (s.counted w) sh f) (wave?_counted hi.wave)
  have hth : (after (s.counted w) w.counted lane (t.issued s sh f)).1.thread? w.id lane = some t :=
    hk'.1.trans (thread?_counted hi)
  rw [he, execWaveAt_one hi, hg]
  simp only []
  have h2 : ((after (s.counted w) w.counted lane (t.issued s sh f)).1.setThread w.id lane t).pcc = s.pcc := hk'.2
  rw [runOthers_one hi hth, modThread_of_thread? _ (thread?_setThread hth), setThread_setThread, ← hg', issued_congr h2]

end Sys2Proof.Machine
end

