-- ==== Sys2Proof/Tests/Slice0.lean ====
section
/-! SUPPORT. Tests: words of the spec's encodings, ill-formed terms, single instructions on small states, and states that
meet the hypotheses of the statements. -/

namespace Sys2Proof.Tests

open Sys2Proof Sys2Proof.Machine

set_option Elab.async false

/-! ## Decoding: words written out from R136-R139, R143, R152 and the tables of each family -/

/-- Fields with nothing named. -/
def bare (form : Form) : Fields :=
  { form := form, qp := 0, qn := false, la := 0, d := .none, a := .none, b := .none, c := .none, m := 0, imm := 0, e := .none,
    f := .none, x := 0 }

def at_ (bytes x : Nat) : Decoded := decode (leBytes bytes x)

/-- R140: the worked example of IADD. -/
theorem test_decode_iadd : at_ 8 0x003FF47008502C40 =
    .ok (.iadd { bare .f64 with qp := 3, qn := true, d := .n 4, a := .q 1, b := .const 7 }) 8 := by decide +kernel

theorem test_decode_fmul : at_ 12 0x3F800000003FFFE0007008E5 =
    .ok (.fmul { bare .f96 with qp := 2, d := .n 12, a := .q 0, b := .imm, imm := 0x3F800000 }) 12 := by decide +kernel

/-- R171: BRA at an offset of -32, under p1. -/
theorem test_decode_bra : at_ 12 0xFFFFFFE0003FFFFFFFFC0405 =
    .ok (.bra { bare .f96 with qp := 1, imm := 0xFFFFFFE0 }) 12 := by decide +kernel

/-- R204, R375: ERET with every field NONE. -/
theorem test_decode_eret : at_ 8 0x003FFFFFFFFC038C = .ok (.eret (bare .f64)) 8 := by decide +kernel

/-- R215: `LD.G.ADP.DR.ACQ.DIE n8, n2, 0`. -/
theorem test_decode_ld : at_ 8 0x1DBFF400906001A8 =
    .ok (.ld { bare .f64 with d := .n 8, a := .n 2, b := .const 0, m := 0x76 }) 8 := by decide +kernel

/-- `ST.G.MIN.DR.64 L2, n14, n12`. -/
theorem test_decode_st : at_ 8 0x04C381EE17FC01AC =
    .ok (.st { bare .f64 with a := .launch 2, b := .n 14, c := .n 12, m := 0x13 }) 8 := by decide +kernel

/-- `LDV n19, n16, 0 la=2`. -/
theorem test_decode_ldv : at_ 8 0x00BFF401008C81A0 =
    .ok (.ldv { bare .f64 with la := 2, d := .n 19, a := .n 16, b := .const 0, m := 2 }) 8 := by decide +kernel

/-- `MMA.J n40, 2, 3, 1, fs1, cv4`. -/
theorem test_decode_mma : at_ 8 0x2468343A10E00298 =
    .ok (.mma { bare .f64 with d := .n 40, a := .const 2, b := .const 3, c := .const 1, m := 0x91 }) 8 := by decide +kernel

/-- `AREAD.4 n16, n30 la=1`. -/
theorem test_decode_aread : at_ 8 0x007FFFF1708042B0 =
    .ok (.aread { bare .f64 with la := 1, d := .n 16, a := .n 30, m := 1 }) 8 := by decide +kernel

/-- `QBLK.X4 n28, n24, ZERO, fs0`. -/
theorem test_decode_qblk : at_ 8 0x023FF10140B002C0 =
    .ok (.qblk { bare .f64 with d := .n 28, a := .n 24, b := .special 0, m := 8 }) 8 := by decide +kernel

/-- `RGROW n15, 7`. -/
theorem test_decode_rgrow : at_ 8 0x003FFFFA387C0238 =
    .ok (.rgrow { bare .f64 with d := .n 15, a := .const 7 }) 8 := by decide +kernel

/-- `PHWAIT 0x2000, 0`. -/
theorem test_decode_phwait : at_ 12 0x00002000003FF40FF7FC022D =
    .ok (.phwait { bare .f96 with a := .imm, b := .const 0, imm := 0x2000 }) 12 := by decide +kernel

/-- `DESC n12, 0x40, n9, L10, 0, n14`. -/
theorem test_decode_desc : at_ 16 0x0000004000003D400039419FF07002E2 =
    .ok (.desc { bare .f128 with d := .n 12, a := .imm, b := .n 9, c := .launch 10, e := .const 0, f := .n 14, imm := 0x40 }) 16 := by
  decide +kernel

/-- `(p4) NODEA.IDX n20, L2, n19, n18`. -/
theorem test_decode_nodea : at_ 8 0x0044423E109012EC =
    .ok (.nodea { bare .f64 with qp := 4, d := .n 20, a := .launch 2, b := .n 19, c := .n 18, m := 1 }) 8 := by decide +kernel

/-- `RDRMW.CAS.RET n34, 0x0F01, n10, n12, w0`. -/
theorem test_decode_rdrmw : at_ 12 0x00000F01280381AFF0C80245 =
    .ok (.rdrmw { bare .f96 with d := .n 34, a := .imm, b := .n 10, c := .n 12, m := 0x0A0, imm := 0x0F01 }) 12 := by decide +kernel

/-- `TLBINV.PAGE n20, n24, n26`. -/
theorem test_decode_tlbinv : at_ 8 0x0005428127FC0388 =
    .ok (.tlbinv { bare .f64 with a := .n 20, b := .n 24, c := .n 26 }) 8 := by decide +kernel

/-- `CSRW n10, 0x350, n9`. -/
theorem test_decode_csrw : at_ 12 0x00000350003FE19FF0680385 =
    .ok (.csrw { bare .f96 with d := .n 10, a := .imm, b := .n 9, imm := 0x350 }) 12 := by decide +kernel

/-- `CWARM n8, L2, 0x0000`. -/
theorem test_decode_cwarm : at_ 8 0x003FF40E10600300 =
    .ok (.cwarm { bare .f64 with d := .n 8, a := .launch 2, b := .const 0 }) 8 := by decide +kernel

/-- R140, R153: PAD32, and an opcode that is not assigned. -/
theorem test_decode_pad : at_ 4 3 = .pad := by decide +kernel
theorem test_decode_unassigned : at_ 8 0x003FFFFFFFFC00B0 = .bad (.illOpc 0x2C (bare .f64)) .unassigned 8 := by decide +kernel

/-- Fields of a collective word with nothing named. -/
def cbare : CFields := { d := 0, a := 0, b := 0, fa := false, ib := false, op := 0, imm := 0 }

/-- R304: `CSHR k0, F.OFF, 8`. -/
theorem test_decode_cshr : decodeCollective 0x00000000080C040E =
    some (.cshr { cbare with a := 1, fa := true, ib := true, imm := 8 }) := by decide +kernel

/-- R304: `CBR.NZ k1, dup` with the target 12. -/
theorem test_decode_cbr : decodeCollective 0x000000000C000402 = some (.cbr { cbare with a := 1, imm := 12 }) := by decide +kernel

/-- R304: `CCOMB.F32 k2, F.SRC, k0`. -/
theorem test_decode_ccomb : decodeCollective 0x000000000004009B = some (.ccomb { cbare with d := 2, fa := true }) := by
  decide +kernel

/-- `CCMP.LTU k0, F.PORT, 16`. -/
theorem test_decode_ccmp : decodeCollective 0x00000000103C1010 =
    some (.ccmp { cbare with a := 4, fa := true, ib := true, op := 3, imm := 16 }) := by decide +kernel

/-- `CPLACE.FRAG F.OFF, 1`. -/
theorem test_decode_cplace : decodeCollective 0x000000000104041C =
    some (.cplace { cbare with a := 1, fa := true, imm := 1 }) := by decide +kernel

/-- `CACK F.SRC, k3, 4`. -/
theorem test_decode_cack : decodeCollective 0x000000000404C022 =
    some (.cack { cbare with fa := true, b := 3, imm := 4 }) := by decide +kernel

/-! ## Ill-formed terms: one for each check -/

theorem smoke_notCanonical : (Instr.nop { bare .f64 with imm := 1 }).illFormed = some .notCanonical := by decide +kernel
theorem smoke_unassigned : (Instr.illOpc 0x2C (bare .f64)).illFormed = some .unassigned := by decide +kernel
/-- R151: BRA in F64. -/
theorem smoke_form : (Instr.bra (bare .f64)).illFormed = some .form := by decide +kernel
/-- R144: an M bit that is not assigned, an operand that is not used, a lookahead without a long-latency result. -/
theorem smoke_modifier : (Instr.nop { bare .f64 with m := 1 }).illFormed = some .fields := by decide +kernel
theorem smoke_operand : (Instr.nop { bare .f64 with a := .n 1 }).illFormed = some .fields := by decide +kernel
theorem smoke_lookahead : (Instr.iadd { bare .f64 with a := .n 1, b := .n 2, la := 1 }).illFormed = some .fields := by decide +kernel
theorem smoke_reserved : (Instr.iadd { bare .f64 with a := .reserved 0, b := .n 2 }).illFormed = some .fields := by decide +kernel
/-- R305: a field without a use. -/
theorem smoke_collective : (Instr.cnop { cbare with d := 1 }).illFormed = some .collective := by decide +kernel
theorem smoke_event : Instr.packageReset.illFormed = some .event := by decide +kernel
theorem smoke_wellFormed : (Instr.iadd { bare .f64 with d := .n 0, a := .n 1, b := .n 2 }).wellFormed = true := by decide +kernel
/-- What the checks refuse the decoder refuses, by the name of the check. -/
theorem smoke_decode : at_ 8 (encodeNat 0 { bare .f64 with m := 1 }) = .bad (.nop { bare .f64 with m := 1 }) .fields 8 := by
  decide +kernel

/-! ## Single instructions on a small state: one wave of one thread on core 0, slot 1 -/

/-- The entry, gang and workgroup 0, 1 and 2 of the small state. -/
def ent : Entry := { fetchEntry 0 with level := .user }
def gang0 : Gang := fetchGang 0 0
def grp : Workgroup :=
  { fetchGroup 0 with vaultSize := 4096, ringLen := 16, nslots := 4, ntiles := 4, hasPaths := true }

/-- A thread at 0x1000 with some registers. -/
def thr (level : Level) (rs : List (Nat × Word)) : Thread := rs.foldl (fun t r => t.setReg r.1 r.2) (Thread.start 0x1000 level)

def wav (t : Thread) : Wave := { fetchWave 0 0 with threads := [t] }

/-- The state in which the thread's wave has issued; TVEC enables both vectors. -/
def world (t : Thread) : State :=
  { State.reset with
    waves := [wav t], wgs := [grp], gangs := [gang0], entries := [ent], cur := .group 3 [0], nextId := 100, tvec := 0x8001
    parts := [(0, { Partition.reset with tvec := 0x4001 })] }

/-- The state after an instruction. -/
def run (i : Instr) (s : State) : State := match exec i s with | .next t => t | _ => s

/-- What an instruction leaves in its thread. -/
def after {α : Type} (i : Instr) (t : Thread) (get : Thread → α) : Option α := ((run i (world t)).thread? 3 0).map get

/-- D, A, B and C in registers 0 to 3, with modifiers. -/
def dabc (m : BitVec 10) : Fields := { bare .f64 with d := .n 0, a := .n 1, b := .n 2, c := .n 3, m := m }
def dab (m : BitVec 10) : Fields := { bare .f64 with d := .n 0, a := .n 1, b := .n 2, m := m }
def da (m : BitVec 10) : Fields := { bare .f64 with d := .n 0, a := .n 1, m := m }

/-- R182: `.SAT`, and the step past the instruction. -/
theorem test_iadd_sat : after (.iadd (dab 1)) (thr .user [(1, 0x7FFFFFFF), (2, 1)]) (fun t => (t.reg 0, t.q 0, t.pc)) =
    some (0x7FFFFFFF, 0x7FFFFFFF, 0x1008) := by decide +kernel
theorem test_isub_usat : after (.isub (dab 2)) (thr .user [(1, 1), (2, 2)]) (fun t => t.reg 0) = some 0 := by decide +kernel
theorem test_iadd64_carry :
    after (.iadd64 { bare .f64 with d := .n 0, a := .n 2, b := .n 4 }) (thr .user [(2, 0xFFFFFFFF), (3, 1), (4, 1), (5, 2)])
      (fun t => (t.reg 0, t.reg 1, t.q 0, t.q 1)) = some (0, 4, 0, 4) := by decide +kernel
theorem test_imulh_signed : after (.imulh (dab 0)) (thr .user [(1, 0xFFFFFFFF), (2, 2)]) (fun t => t.reg 0) = some 0xFFFFFFFF := by
  decide +kernel
theorem test_imulh_unsigned : after (.imulh (dab 1)) (thr .user [(1, 0xFFFFFFFF), (2, 2)]) (fun t => t.reg 0) = some 1 := by decide +kernel
/-- R182: IABS of the most negative number. -/
theorem test_iabs : after (.iabs (da 0)) (thr .user [(1, 0x80000000)]) (fun t => t.reg 0) = some 0x80000000 := by decide +kernel
theorem test_iabs_sat : after (.iabs (da 1)) (thr .user [(1, 0x80000000)]) (fun t => t.reg 0) = some 0x7FFFFFFF := by decide +kernel
theorem test_ishl_out : after (.ishl (dab 0)) (thr .user [(1, 1), (2, 32)]) (fun t => t.reg 0) = some 0 := by decide +kernel
theorem test_ishr_fill : after (.ishr (dab 2)) (thr .user [(1, 0x80000000), (2, 40)]) (fun t => t.reg 0) = some 0xFFFFFFFF := by
  decide +kernel
/-- R183: the worked example of SHF. -/
theorem test_shf_left : after (.shf (dabc 2)) (thr .user [(1, 0x89ABCDEF), (2, 0x01234567), (3, 8)]) (fun t => t.reg 0) =
    some 0x23456789 := by decide +kernel
theorem test_shf_right : after (.shf (dabc 0)) (thr .user [(1, 0x89ABCDEF), (2, 0x01234567), (3, 0xFFFFFFF8)]) (fun t => t.reg 0) =
    some 0x6789ABCD := by decide +kernel
/-- R184: 0x22 gives a AND NOT b. -/
theorem test_lop3 : after (.lop3 (dabc 0x22)) (thr .user [(1, 0xFF00FF00), (2, 0x0FF00FF0)]) (fun t => t.reg 0) = some 0xF000F000 := by
  decide +kernel
theorem test_clz_zero : after (.clz (da 0)) (thr .user []) (fun t => t.reg 0) = some 32 := by decide +kernel
theorem test_brev : after (.brev (da 0)) (thr .user [(1, 1)]) (fun t => t.reg 0) = some 0x80000000 := by decide +kernel
/-- R185: a field past the top, with the sign. -/
theorem test_bfe_sign : after (.bfe (dab 1)) (thr .user [(1, 0x80000000), (2, 0x0420)]) (fun t => t.reg 0) = some 0xFFFFFFFF := by
  decide +kernel
theorem test_bfi : after (.bfi (dabc 0)) (thr .user [(1, 0xF), (2, 0x0404), (3, 0xFFFFFF0F)]) (fun t => t.reg 0) = some 0xFFFFFFFF := by
  decide +kernel
/-- R186: the worked examples of PRMT. -/
theorem test_prmt : after (.prmt (dabc 0)) (thr .user [(1, 0x44332211), (2, 0x88776655), (3, 0xA740)]) (fun t => t.reg 0) =
    some 0xFF885511 := by decide +kernel
theorem test_prmt_sign : after (.prmt (dabc 0)) (thr .user [(1, 0x80), (3, 0xAAA0)]) (fun t => t.reg 0) = some 0xFFFFFF80 := by
  decide +kernel
theorem test_icmp_targets : after (.icmp { dab 0x11 with d := .reserved 0 }) (thr .user []) (fun t => t.due.isSome) = some true := by
  decide +kernel
/-- R189: PSET of p2 and p3. -/
theorem test_pset : after (.pset { bare .f64 with a := .n 8, m := 0x0C }) (thr .user [(8, 0xFF)]) (fun t => (t.pred 1, t.pred 2, t.pred 3)) =
    some (false, true, true) := by decide +kernel
theorem test_ppack : after (.ppack { bare .f64 with d := .n 0 }) (thr .user []) (fun t => t.reg 0) = some 1 := by decide +kernel

/-! Floating point -/

theorem test_fadd_tie : after (.fadd (dab 0)) (thr .user [(1, 0x4B800000), (2, 0x3F800000)]) (fun t => t.reg 0) = some 0x4B800000 := by
  decide +kernel
/-- R191: terms that cancel give -0.0 in `.RDN` only. -/
theorem test_fadd_cancel : after (.fadd (dab 2)) (thr .user [(1, 0x3F800000), (2, 0xBF800000)]) (fun t => t.reg 0) = some 0x80000000 := by
  decide +kernel
theorem test_ffma_once : after (.ffma (dabc 0)) (thr .user [(1, 0x3F800001), (2, 0x3F800001), (3, 0xBF800002)]) (fun t => t.reg 0) =
    some 0x28800000 := by decide +kernel
theorem test_fmin_nan : after (.fmin (dab 0)) (thr .user [(1, 0x7FC00001), (2, 5)]) (fun t => t.reg 0) = some 5 := by decide +kernel
theorem test_fmax_zeros : after (.fmax (dab 0)) (thr .user [(1, 0x80000000), (2, 0)]) (fun t => t.reg 0) = some 0 := by decide +kernel
theorem test_frnd_half : after (.frnd (da 0)) (thr .user [(1, 0x40200000)]) (fun t => t.reg 0) = some 0x40000000 := by decide +kernel
theorem test_fsqrt : after (.fsqrt (da 0)) (thr .user [(1, 0x41100000)]) (fun t => t.reg 0) = some 0x40400000 := by decide +kernel
theorem test_frcp_zero : after (.frcp (da 0)) (thr .user [(1, 0x80000000)]) (fun t => t.reg 0) = some 0xFF800000 := by decide +kernel
/-- R194: `.BLO` multiplies both halves by the low half of B. -/
theorem test_hfma2 : after (.hfma2 (dabc 0x10)) (thr .user [(1, 0x40003F80), (2, 0x3F804040), (3, 0x3F800000)]) (fun t => t.reg 0) =
    some 0x40E04040 := by decide +kernel
theorem test_f2i_sat : after (.f2i (da 1)) (thr .user [(1, 0x4F800000)]) (fun t => t.reg 0) = some 0x7FFFFFFF := by decide +kernel
theorem test_i2f : after (.i2f (da 0)) (thr .user [(1, 0xFFFFFFFF)]) (fun t => t.reg 0) = some 0xBF800000 := by decide +kernel
theorem test_fclass : after (.fclass (da 0)) (thr .user [(1, 0x7F800001)]) (fun t => t.reg 0) = some 0x100 := by decide +kernel

/-! Control and traps -/

theorem test_call : after (.call { bare .f96 with d := .n 4, imm := 0xFFFFFFF0 }) (thr .user []) (fun t => (t.pc, t.reg 4, t.reg 5, t.q 0)) =
    some (0xFF0, 0x100C, 0, 0x100C) := by decide +kernel
/-- R141: a target that is not aligned. -/
theorem test_brx_fault : after (.brx { bare .f64 with a := .n 2 }) (thr .user [(2, 0x2002)]) (fun t => (t.pc, t.due.map fun r => (r.cause, r.eval))) =
    some (0x1000, some (.illFetch, 0x2002)) := by decide +kernel
/-- R175: a trap to SUPER from SYS. -/
theorem test_trap_illegal : after (.trap { bare .f64 with a := .n 0 }) (thr .sys []) (fun t => t.due.map fun r => (r.cause, r.eval)) =
    some (some (.illegal, 7)) := by decide +kernel
/-- R154: a privileged instruction at USER. -/
theorem test_csrr_priv : after (.csrr (da 0)) (thr .user [(1, 0x300)]) (fun t => t.due.map fun r => r.cause) = some (some .priv) := by
  decide +kernel
/-- R372, R375: trap entry and return. -/
theorem test_enter : ((thr .user []).enter .super 0x4001 { cause := .trap, epc := 0x1008, eval := 9, imp := false, toSys := false, seq := 1 }).pc = 0x4000 := by
  decide +kernel
theorem test_eret : after (.eret (bare .f64)) ((thr .user []).enter .super 0x4001
    { cause := .trap, epc := 0x1008, eval := 9, imp := false, toSys := false, seq := 1 }) (fun t => (t.pc, t.level, t.super.inTrap)) =
    some (0x1008, .user, false) := by decide +kernel
theorem test_eret_not_in_trap : after (.eret (bare .f64)) (thr .super []) (fun t => t.due.map fun r => r.cause) = some (some .illegal) := by
  decide +kernel
theorem test_csrw_set : after (.csrw { dab 1 with d := .none }) (thr .super [(1, 0x307), (2, 5)]) (fun t => (t.q 0, t.super.esav)) =
    some (0, [5, 0, 0, 0]) := by decide +kernel
theorem test_sleep : after (.sleep { bare .f64 with a := .n 1 }) (thr .user [(1, 7)]) (fun t => t.run) = some (.parked (.sleep 7) 8) := by
  decide +kernel

/-! Memory, synchronisation, copies and the ring -/

/-- R213, R50: a load is pending in the queue and its register. -/
theorem test_ldv : after (.ldv { bare .f64 with la := 1, d := .n 4, a := .n 1, b := .const 0, m := 2 }) (thr .user [(1, 0x40)])
    (fun t => (t.queue.head?, t.pending.length, t.pc)) = some (some (.pend 100 0), 1, 0x1008) := by decide +kernel
/-- R85: past the end of the allocation. -/
theorem test_ldv_bounds : after (.ldv { bare .f64 with la := 1, d := .n 4, a := .n 1, b := .const 0, m := 2 }) (thr .user [(1, 4096)])
    (fun t => t.due.map fun r => (r.cause, r.eval)) = some (some (.vaultBounds, 4096)) := by decide +kernel
/-- R114: a store waits in the queue, and the vault holds it once it drains. -/
theorem test_stv :
    let s := run (.stv { bare .f64 with a := .n 1, b := .n 2, c := .const 4, m := 2 }) (world (thr .user [(1, 0x40), (2, 0x01020304)]))
    let u := run (.storeQueueDrain 0 0 1) s
    (s.waves.map fun w => w.store.length, s.wgs.map fun g => sbytes g.vault 0x44 4, u.wgs.map fun g => sbytes g.vault 0x44 4) =
      ([1], [[0, 0, 0, 0]], [[4, 3, 2, 1]]) := by decide +kernel
/-- R93, R223: EXPECT 2, three arrivals. -/
theorem test_latch :
    let s := (world (thr .user [])).setLatch { wg := 2, off := 0 } 2 0 0
    let u := s.arrive { wg := 2, off := 0 } 3
    (u.latchWord { wg := 2, off := 0 } 1, u.latchWord { wg := 2, off := 0 } 2) = (1, 1) := by decide +kernel
theorem test_rshrink :
    let s := run (.rshrink (da 0)) (world (thr .user [(1, 2), (9, 7), (240, 7)]))
    (s.waves.map fun w => w.blocks, (s.thread? 3 0).map fun t => (t.reg 0, t.reg 9, t.reg 240)) = ([29], some (29, 7, 0)) := by decide +kernel
/-- R225, R231: XFILL writes its entry, and the engine fills the range. -/
theorem test_xfill :
    let s := run (.xfill { bare .f64 with d := .n 4, a := .n 1, b := .n 2, c := .n 3, m := 4 })
      (world (thr .user [(1, 0x100), (2, 0x04030201), (3, 6)]))
    let s := s.copyRings
    let s := run (.copyArrival 2 0 0 6) (run (.copyTakeup 2) s)
    s.wgs.map (fun g => sbytes g.vault 0x100 8) = [[1, 2, 3, 4, 1, 2, 0, 0]] := by decide +kernel

/-! ## States that meet the hypotheses of the statements

Each theorem takes a statement and uses it at a concrete state, so it shows that the hypotheses of the clause named can be met
together. -/

/-- The wave that issues in a small state, and its first thread. -/
def theWave (s : State) : Wave := s.waves.headD (wav (thr .user []))
def theThread (s : State) : Thread := (theWave s).threads.headD (thr .user [])

/-- One lane may issue an instruction of this shape. -/
def ready (need : Level) (sh : Shape) (f : Fields) (s : State) : Bool :=
  s.cur = .group (theWave s).id [0] && s.wave? (theWave s).id = some (theWave s) && (theWave s).threads[0]? = some (theThread s)
    && checkIssue need (theThread s).level sh f (theWave s).blocks = none && (theThread s).qual f
    && (theThread s).lookahead sh f = none

theorem issues {need : Level} {sh : Shape} {f : Fields} {s : State} (h : ready need sh f s = true) :
    Issues need sh f s (theWave s) 0 (theThread s) := by
  simp only [ready, Bool.and_eq_true, decide_eq_true_eq] at h
  exact ⟨h.1.1.1.1.1, h.1.1.1.1.2, h.1.1.1.2, h.1.1.2, h.1.2, h.2⟩

/-- A group of lanes may issue an instruction of this shape. -/
def readyGroup (need : Level) (sh : Shape) (f : Fields) (s : State) (lanes : List Nat) : Bool :=
  s.cur = .group (theWave s).id lanes && s.wave? (theWave s).id = some (theWave s) && decide lanes.Nodup
    && checkIssue need ((theWave s).levelOf lanes) sh f (theWave s).blocks = none

theorem group {need : Level} {sh : Shape} {f : Fields} {s : State} {lanes : List Nat}
    (h : readyGroup need sh f s lanes = true) : Group need sh f s (theWave s) lanes := by
  simp only [readyGroup, Bool.and_eq_true, decide_eq_true_eq] at h
  exact ⟨h.1.1.1, h.1.1.2, h.1.2, h.2⟩

/-- A specifier for a use, and a D field. -/
def pickSrc : Use → Src
  | .none | .opt32 => .none
  | .s32 => .n 16
  | .s64 => .n 18
  | .run _ => .n 32
  | .seq _ => .n 64
  | .pred => .p 1
def pickD : DUse → Src
  | .none => .none
  | .preds => .n 1
  | _ => .n 0

/-- The fields of an opcode in some form with some modifiers. -/
def pickFields (opc : BitVec 8) (form : Form) (m : BitVec 10) : Fields :=
  let f : Fields := { bare form with m := m }
  match (Instr.ofOpc opc f).proc with
  | some (_, _, sh) => { f with a := pickSrc sh.a, b := pickSrc sh.b, c := pickSrc sh.c, e := pickSrc sh.e, f := pickSrc sh.f, d := pickD sh.d }
  | none => f

/-- The instruction of an opcode may issue, alone and in its group, on the small state. -/
def mayStand (i : Instr) : Bool :=
  match i.proc with
  | some (_, f, sh) =>
    let s := world (thr (needed i) [])
    i.wellFormed && ready (needed i) sh f s && readyGroup (needed i) sh f s [0]
  | none => false

/-- Every processor instruction of the table has fields with which it may issue: the hypotheses `Group` and `Issues` of
the statements about it can be met. -/
theorem witness_every_opcode : (List.range 256).all (fun k =>
    let opc := BitVec.ofNat 8 k
    match (Instr.ofOpc opc (bare .f64)) with
    | .illOpc _ _ => true
    | _ => [Form.f64, .f96, .f128].any fun form => [0, 1, 2, 3, 4, 6, 8, 9, 0x10].any fun m =>
        mayStand (Instr.ofOpc opc (pickFields opc form (BitVec.ofNat 10 m)))) = true := by decide +kernel

/-! ### Encodings and the step -/

theorem witness_DecodeEncode (h : Obligations.DecodeEncode) : decode (encode (.iadd (dab 0)) ++ []) = .ok (.iadd (dab 0)) 8 :=
  h (.iadd (dab 0)) _ _ _ [] rfl (by decide +kernel)

theorem witness_EncodeDecode (h : Rules.EncodeDecode) : ∃ b, encode (.eret (bare .f64)) = b :=
  ⟨_, (h (leBytes 8 0x003FFFFFFFFC038C) _ 8 (by decide +kernel)).1⟩

theorem witness_CollectiveDecodeEncode (h : Rules.CollectiveDecodeEncode) :
    decodeCollective (encodeCollective 0x0E { cbare with a := 1, fa := true, ib := true, imm := 8 }) =
      some (.cshr { cbare with a := 1, fa := true, ib := true, imm := 8 })
    ∧ ∃ opc c sh, Instr.coll (.cbr { cbare with a := 1, imm := 12 }) = some (opc, c, sh) :=
  ⟨h.1 _ _ _ _ rfl (by decide +kernel),
    let ⟨a, b, c, hh, _⟩ := h.2 0x000000000C000402 _ test_decode_cbr
    ⟨a, b, c, hh⟩⟩

def sNop : State := State.reset.withCode (leBytes 8 0x003FFFFFFFFC0000)

theorem witness_StepRunsFetched (h : Rules.StepRunsFetched) : ∃ u, step sNop = u :=
  ⟨_, h sNop (.nop (bare .f64)) _ [] 0 1 (theWave sNop) (theThread sNop) fetchPa fetchLeaf (by
      constructor <;> first | decide +kernel | rfl | exact ⟨8, .inl (by decide +kernel)⟩)⟩

def noFrag : Fragment :=
  { window := 5, off := 0, data := [], seq := 0, port := 33, from_ := 0, phase := some 1 }
def inv : Invocation := { frag := noFrag, timer := false, phase := 1, pc := 0, steps := 0, k := List.replicate 16 0 }

/-- A window 5 whose executor stands at an instruction. -/
def exe (w : Window) (i : Instr) : State :=
  { State.reset with
    windows := [(5, { w with running := some inv })], programs := [(0, { Program.reset with loaded := [i] })]
    cur := .executor 5, nextId := 100 }

theorem witness_StepRunsOthers (h : Rules.StepRunsOthers) :
    (∃ u, step { exe Window.reset (.cnop cbare) with cur := .none, agenda := [.executor 5] } = u)
    ∧ ∃ u, step { State.reset with agenda := [.event .shutterInput] } = u :=
  ⟨⟨_, h.1 _ 5 [] inv (.cnop cbare) rfl (by decide +kernel) (by decide +kernel)⟩, ⟨_, h.2 _ [] .shutterInput rfl (by decide +kernel)⟩⟩

def sCached : State := { State.reset with cores := [(0, { Core.reset with code := [(2, [1, 2])] })] }
theorem witness_FetchesOldOrNew (h : Rules.FetchesOldOrNew) :
    (∃ l, sCached.fetchBytes 0 .sys 32 8 = l) ∧ (sCached.fetchBytes 0 .sys 65 1 = [0] ∨ sCached.fetchBytes 0 .sys 65 1 = [2])
    ∧ look ((sCached.cacheCode 0 64).core 0).code 2 = some [1, 2] ∧ look ((sCached.dropCode 0).core 0).code 2 = none :=
  ⟨⟨_, (h sCached 0 32 8 .sys).1 (by decide +kernel)⟩, (h sCached 0 65 1 .sys).2.1 [1, 2] (by decide +kernel),
    (h sCached 0 64 1 .sys).2.2.1 (by decide +kernel), (h sCached 0 64 1 .sys).2.2.2⟩

/-- The state that a step answers. -/
def stepped (s : State) : State := match step s with | .next t => t | _ => s
def sTick : State := { State.reset with agenda := [.tick], mem := [(4, 1)] }

def goes (s : State) : Bool := match step s with | .next _ => true | _ => false
theorem steps {s : State} (h : goes s = true) : step s = .next (stepped s) := by
  unfold goes at h
  unfold stepped
  cases hs : step s <;> simp_all

theorem witness_StepSettles (h : Obligations.StepSettles) : (stepped sTick).Settled :=
  h sTick _ ⟨rfl, by decide +kernel, by decide +kernel, by decide +kernel⟩ (steps (by decide +kernel))

theorem witness_StepKeepsMemory (h : Obligations.StepKeepsMemory) : Memory.wf (stepped sTick).mem = true :=
  h sTick _ (by decide +kernel) (steps (by decide +kernel))

/-! ### Checks at issue, groups -/

theorem witness_ChecksFault (h : Rules.ChecksFault) : ∃ u, exec (.nop { bare .f64 with m := 1 }) (world (thr .user [])) = .next u :=
  ⟨_, h (.nop { bare .f64 with m := 1 }) _ _ _ _ (wav (thr .user [])) [0] .illegal 5 rfl rfl (by decide +kernel) (by decide) (by decide +kernel)
    (by decide +kernel)⟩

theorem witness_CheckOrder (h : Rules.CheckOrder) :
    checkIssue .super .user (shapeBare (bare .f64)) (bare .f64) 1 = some (.priv, 0)
    ∧ checkIssue .user .user (shapeBra (bare .f64)) (bare .f64) 1 = some (.illegal, 4)
    ∧ checkIssue .user .user (shapeBare { bare .f64 with a := .n 0 }) { bare .f64 with a := .n 0 } 1 = some (.illegal, 5)
    ∧ checkIssue .user .user (shapeDAB (dab 0) 0) { dab 0 with d := .n 8 } 1 = some (.illegal, 6)
    ∧ checkIssue .user .user (shapeDAB (dab 0) 0) (dab 0) 1 = none :=
  ⟨(h _ _ _ _ _).1 (by decide), ((h _ _ _ _ _).2 (by decide)).1 (by decide +kernel),
    ((h _ _ _ _ _).2 (by decide)).2.1 (by decide +kernel) (by decide +kernel),
    ((h _ _ _ _ _).2 (by decide)).2.2.1 (by decide +kernel) (by decide +kernel) (by decide +kernel),
    ((h _ _ _ _ _).2 (by decide)).2.2.2 (by decide +kernel) (by decide +kernel) (by decide +kernel)⟩

theorem witness_UnassignedOpcode (h : Rules.UnassignedOpcode) : ∃ u, exec (.illOpc 0x2C (bare .f64)) (world (thr .user [])) = .next u :=
  ⟨_, h _ _ _ (wav (thr .user [])) [0] rfl (by decide +kernel) (by decide)⟩

theorem witness_FalsePredicatePushesZeros (h : Rules.FalsePredicatePushesZeros) :
    ∃ u, exec (.iadd { dab 0 with qp := 1 }) (world (thr .user [])) = .next u :=
  ⟨_, h _ _ _ _ _ (theWave (world (thr .user []))) [0] rfl (group (by decide +kernel)) (by decide +kernel) (by decide) (by
    intro l hl t ht
    obtain rfl : l = 0 := by simpa using hl
    cases ht
    decide +kernel)⟩

/-- A thread whose q0 is a pending result. -/
def tPend : Thread := (thr .user [(1, 0x40)]).pend 50 0 2 1 (some 4) (.vault 2 0x40 4) none

theorem witness_PendingOperandFaults (h : Rules.PendingOperandFaults) :
    ∃ u, exec (.iadd { dab 0 with b := .q 0 }) (world tPend) = .next u :=
  ⟨_, h _ _ _ _ _ (wav tPend) 0 tPend (.q 0) rfl rfl (by decide +kernel) (by decide +kernel) (by decide +kernel) (by decide +kernel)
    (by decide +kernel) (by decide +kernel)⟩

theorem witness_LaneByLane (h : Rules.LaneByLane) : ∃ u, exec (.bra { bare .f96 with imm := 8 }) (world (thr .user [])) = .next u :=
  let ⟨_, hl⟩ := h (.bra, .user, shapeBra) (by simp) { bare .f96 with imm := 8 }
  ⟨_, hl _ _ [0] (group (by decide +kernel))⟩

/-- Two lanes whose registers 1 differ. -/
def sTwo : State :=
  { world (thr .user []) with
    waves := [{ wav (thr .user []) with threads := [thr .user [(1, 1)], thr .user [(1, 2)]] }], cur := .group 3 [0, 1] }

theorem witness_WaveInstructionsAgree (h : Rules.WaveInstructionsAgree) :
    (∃ u, exec (.ivl { bare .f64 with a := .n 1, qp := 1 }) sTwo = .next u) ∧ ∃ u, exec (.ivl { bare .f64 with a := .n 1 }) sTwo = .next u :=
  ⟨⟨_, (h (.ivl, shapeA32) (by simp) { bare .f64 with a := .n 1, qp := 1 } sTwo _ [0, 1] (group (by decide +kernel))).1 (by
      intro l hl t ht
      have : l = 0 ∨ l = 1 := by simpa using hl
      rcases this with rfl | rfl <;> (cases ht; decide +kernel))⟩,
    ⟨_, (h (.ivl, shapeA32) (by simp) { bare .f64 with a := .n 1 } sTwo (theWave sTwo) [0, 1] (group (by decide +kernel))).2
      ⟨0, by decide +kernel, 1, by decide +kernel, _, _, rfl, rfl, by decide +kernel⟩⟩⟩

/-! ### Arithmetic and conversions -/

theorem witness_IntegerArithmetic (h : Obligations.IntegerArithmetic) : ∃ u, exec (.iadd (dab 1)) (world (thr .user [])) = .next u :=
  ⟨_, h.1 (dab 1) _ _ [0] (group (by decide +kernel))⟩

theorem witness_Shifts (h : Obligations.Shifts) : ∃ u, exec (.shf (dabc 3)) (world (thr .user [])) = .next u :=
  ⟨_, h.2.2 (dabc 3) _ _ [0] (group (by decide +kernel))⟩

theorem witness_FloatMinimum (h : Rules.FloatMinimum) :
    fmin32 0x7FC00000 0xFFC00000 = 0x7FC00000 ∧ fmin32 0x7FC00000 1 = 1 ∧ fmax32 1 0x7FC00000 = 1 ∧ fmin32 0 0x3F800000 = 0
    ∧ fmax32 0 0xBF800000 = 0 ∧ fmin32 0 0x80000000 = 0x80000000 :=
  ⟨((h 0x7FC00000 0xFFC00000).1 (by decide +kernel) (by decide +kernel)).1,
    ((h 0x7FC00000 1).2.1 (by decide +kernel) (by decide +kernel)).1,
    ((h 1 0x7FC00000).2.2.1 (by decide +kernel) (by decide +kernel)).2,
    ((h 0 0x3F800000).2.2.2.1 (by decide +kernel)).1, ((h 0 0xBF800000).2.2.2.2.1 (by decide +kernel)).2,
    ((h 0 0x80000000).2.2.2.2.2 (by decide +kernel) (by decide)).1⟩

theorem witness_SpecialFunctions (h : Obligations.SpecialFunctions) :
    (∃ g : Word → Word, g 0x7FC00001 = 0x7FC00000) ∧ ∃ g : Word → Word, g 0xBF800000 = 0x7FC00000 :=
  ⟨h.1.elim fun g hg => ⟨g, hg.2.1 0x7FC00001 (by decide +kernel)⟩, h.2.2.1.elim fun g hg => ⟨g, hg.2 0xBF800000 (by decide +kernel)⟩⟩

theorem witness_FloatArithmetic (h : Rules.FloatArithmetic) : ∃ v : Word, v = 0x7FC00000 :=
  ⟨_, (h _ (List.mem_cons_self ..)).2 (dab 0) 0x7FC00001 0 0 (by decide +kernel)⟩

/-- The record's format slot 0: FP32 to BF16, RNE. -/
def recFs (w : Word) : Record := { words := (List.replicate 64 0).set 24 w }
def sFs (w : Word) (t : Thread) : State := { world t with entries := [{ ent with record := recFs w }] }

theorem witness_SlotConversions (h : Rules.SlotConversions) :
    (∃ u, exec (.cvt (dabc 0)) (sFs 0x100 (thr .user [])) = .next u) ∧ (∃ u, exec (.cvt (dabc 8)) (sFs 0x100 (thr .user [])) = .next u)
    ∧ (∃ u, exec (.cvtp (dab 0)) (sFs 0x100 (thr .user [])) = .next u) ∧ ∃ u, exec (.cvtp (dab 0)) (sFs 0 (thr .user [])) = .next u :=
  ⟨⟨_, (h (dabc 0)).1 _ _ _ _ (issues (by decide +kernel)) (by decide +kernel)⟩,
    ⟨_, (h (dabc 8)).2.1 _ _ _ _ (issues (by decide +kernel)) (by decide +kernel)⟩,
    ⟨_, (h (dab 0)).2.2.1 _ _ _ _ (issues (by decide +kernel)) (by decide +kernel)⟩,
    ⟨_, (h (dab 0)).2.2.2.1 _ _ _ _ (issues (by decide +kernel)) (by decide +kernel)⟩⟩

/-! ### Control and traps -/

theorem witness_Transfers (h : Rules.Transfers) :
    (∃ u, exec (.bra { bare .f96 with imm := 8 }) (world (thr .user [])) = .next u)
    ∧ (∃ u, exec (.bra { bare .f96 with imm := 6 }) (world (thr .user [])) = .next u)
    ∧ (∃ u, exec (.brx { bare .f64 with a := .n 2 }) (world (thr .user [(2, 0x2000)])) = .next u)
    ∧ (∃ u, exec (.brx { bare .f64 with a := .n 2 }) (world (thr .user [(3, 0x00400000)])) = .next u)
    ∧ (∃ u, exec (.call { bare .f96 with imm := 8 }) (world (thr .user [])) = .next u)
    ∧ (∃ u, exec (.call { bare .f96 with imm := 1 }) (world (thr .user [])) = .next u)
    ∧ (∃ u, exec (.callx { bare .f64 with a := .n 2 }) (world (thr .user [])) = .next u)
    ∧ (∃ u, exec (.callx { bare .f64 with a := .n 2 }) (world (thr .user [(2, 1)])) = .next u)
    ∧ (∃ u, exec (.ret { bare .f64 with a := .n 2 }) (world (thr .user [])) = .next u)
    ∧ ∃ u, exec (.ret { bare .f64 with a := .n 2 }) (world (thr .user [(2, 1)])) = .next u :=
  ⟨⟨_, (h _).1.1 _ _ _ _ (issues (by decide +kernel)) (by decide +kernel)⟩,
    ⟨_, (h _).1.2 _ _ _ _ (.illFetch, 0x1006) (issues (by decide +kernel)) (by decide +kernel)⟩,
    ⟨_, (h _).2.1.1 _ _ _ _ (issues (by decide +kernel)) (by decide +kernel)⟩,
    ⟨_, (h _).2.1.2 _ _ _ _ (.translation, 0x0040000000000000) (issues (by decide +kernel)) (by decide +kernel)⟩,
    ⟨_, (h _).2.2.1.1 _ _ _ _ (issues (by decide +kernel)) (by decide +kernel)⟩,
    ⟨_, (h _).2.2.1.2 _ _ _ _ (.illFetch, 0x1001) (issues (by decide +kernel)) (by decide +kernel)⟩,
    ⟨_, (h _).2.2.2.1.1 _ _ _ _ (issues (by decide +kernel)) (by decide +kernel)⟩,
    ⟨_, (h _).2.2.2.1.2 _ _ _ _ (.illFetch, 1) (issues (by decide +kernel)) (by decide +kernel)⟩,
    ⟨_, (h _).2.2.2.2.1 _ _ _ _ (issues (by decide +kernel)) (by decide +kernel)⟩,
    ⟨_, (h _).2.2.2.2.2 _ _ _ _ (.illFetch, 1) (issues (by decide +kernel)) (by decide +kernel)⟩⟩

theorem witness_Exit (h : Rules.Exit) :
    (∃ u, exec (.exit (bare .f64)) { sTwo with cur := .group 3 [0] } = .next u) ∧ ∃ u, exec (.exit (bare .f64)) (world (thr .user [])) = .next u :=
  ⟨⟨_, (h (bare .f64) { sTwo with cur := .group 3 [0] } _ 0 _ (issues (by decide +kernel))).1 ⟨1, thr .user [(1, 2)], by decide, rfl, by decide +kernel⟩⟩,
    ⟨_, (h (bare .f64) (world (thr .user [])) _ 0 _ (issues (by decide +kernel))).2 (by
      intro l t hl ht
      match l with
      | 0 => exact absurd rfl hl
      | n + 1 => simp [theWave, world, wav] at ht) (by decide +kernel)⟩⟩

theorem witness_SoftwareTraps (h : Rules.SoftwareTraps) :
    (∃ u, exec (.trap { bare .f64 with a := .n 1 }) (world (thr .user [])) = .next u)
    ∧ (∃ u, exec (.trap { bare .f64 with a := .n 1, m := 1 }) (world (thr .user [])) = .next u)
    ∧ (∃ u, exec (.bkpt { bare .f64 with a := .n 1 }) (world (thr .user [])) = .next u)
    ∧ ∃ u, exec (.bkpt { bare .f64 with a := .n 1 }) { world (thr .user []) with wgs := [{ grp with dbgHalt := true }] } = .next u :=
  ⟨⟨_, (h _).1 _ _ _ _ (issues (by decide +kernel)) (by decide +kernel)⟩,
    ⟨_, (h _).2.1 _ _ _ _ (.priv, 0) (issues (by decide +kernel)) (by decide +kernel)⟩,
    ⟨_, (h _).2.2.1 _ _ _ _ (issues (by decide +kernel)) (by decide +kernel)⟩,
    ⟨_, (h _).2.2.2 _ _ _ _ (issues (by decide +kernel)) (by decide +kernel)⟩⟩

theorem witness_SyncAndHalt (h : Rules.SyncAndHalt) :
    (∃ u, exec (.wsync { bare .f64 with a := .n 1 }) (world (thr .user [(1, 1)])) = .next u)
    ∧ ∃ u, exec (.wsync { bare .f64 with a := .n 1 }) (world (thr .user [(1, 2)])) = .next u :=
  ⟨⟨_, (h _).1 _ _ _ _ (issues (by decide +kernel)) (by decide +kernel)⟩,
    ⟨_, (h _).2.1 _ _ _ _ (.illegal, 7) (issues (by decide +kernel)) (by decide +kernel)⟩⟩

/-- What holds of the set bits of a word. -/
theorem setBits {n : Nat} {x : BitVec n} {P : Nat → Prop} (h : ∀ i < n, x.getLsbD i = true → P i) (i : Nat) (hi : x.getLsbD i = true) :
    P i := by
  rcases Nat.lt_or_ge i n with hl | hl
  · exact h i hl hi
  · rw [BitVec.getLsbD_of_ge _ _ hl] at hi
    cases hi

/-- 32 threads of which the first two are parked at one WSYNC. -/
def wSync : Wave :=
  let p : Thread := { thr .user [] with run := .parked (.wsync 3) 8 }
  { wav (thr .user []) with threads := p :: p :: List.replicate 30 (thr .user []) }

theorem witness_WsyncConverges (h : Rules.WsyncConverges) : (wSync.wsyncs.threads[0]?.map fun t => t.run) = some .running := by
  rw [h wSync 3 0x1000 8 rfl (by
    intro l t ht
    match l with
    | 0 | 1 => cases ht; decide +kernel
    | n + 2 =>
      have hn : n < 30 := by
        have := (List.getElem?_eq_some_iff.mp ht).1
        simp [wSync, wav, fetchWave] at this
        omega
      have : t = thr .user [] := by
        have e : wSync.threads[n + 2]? = some (thr .user []) := by
          show (List.replicate 30 (thr .user []))[n]? = _
          rw [List.getElem?_replicate, if_pos hn]
        exact (Option.some.inj (e.symm.trans ht)).symm
      subst this
      exact fun _ => ⟨fun hb => absurd (setBits (P := fun i => i < 2) (by decide) _ hb) (by omega), fun _ => rfl⟩) 0 _ rfl]
  decide +kernel

theorem witness_TrapEntry (h : Rules.TrapEntry) :
    ((thr .user []).enter .sys 0x8001 { cause := .trap, epc := 0x1008, eval := 0, imp := false, toSys := true, seq := 1 }).level = .sys :=
  (h _ _ _ _ (by decide)).1

/-- A trap that is due. -/
def aTrap (sys : Bool) : TrapReq := { cause := .trap, epc := 0x1008, eval := 0, imp := false, toSys := sys, seq := 1 }

theorem witness_TrapLevel (h : Rules.TrapLevel) :
    (∃ u, (world (thr .user [])).takeTrap 0 (thr .user []) (aTrap false) = u)
    ∧ (∃ u, { world (thr .user []) with parts := [] }.takeTrap 0 (thr .user []) (aTrap false) = u)
    ∧ (∃ u, (world (thr .user [])).takeTrap 0 (thr .user []) (aTrap true) = u)
    ∧ ∃ u, State.reset.takeTrap 0 (thr .user []) (aTrap false) = u :=
  ⟨⟨_, (h _ _ _ _).1 (by decide +kernel) (by decide +kernel)⟩,
    ⟨_, (h _ _ _ _).2.1 (by decide +kernel) (by decide +kernel) (by decide +kernel)⟩,
    ⟨_, (h _ _ _ _).2.2.1 (by decide +kernel) (by decide +kernel)⟩,
    ⟨_, (h _ _ _ _).2.2.2 (by decide +kernel) (by decide +kernel)⟩⟩

/-- A thread in a handler of SUPER. -/
def inSuper (epc : DWord) : Thread := (thr .user []).enter .super 0x4001 { aTrap false with epc := epc }

theorem witness_TrapReturn (h : Obligations.TrapReturn) :
    (∃ u, exec (.eret (bare .f64)) (world (inSuper 0x1008)) = .next u) ∧ (∃ u, exec (.eret (bare .f64)) (world (inSuper 0x1002)) = .next u)
    ∧ ∃ u, exec (.eret (bare .f64)) (world (thr .super [])) = .next u :=
  ⟨⟨_, (h _).1 _ _ _ _ (issues (by decide +kernel)) (by decide +kernel)⟩,
    ⟨_, (h _).2.1 _ _ _ _ (.illFetch, 0x1002) (issues (by decide +kernel)) (by decide +kernel)⟩,
    ⟨_, (h _).2.1 _ _ _ _ (.illegal, 7) (issues (by decide +kernel)) (by decide +kernel)⟩⟩

theorem witness_Intervals (h : Rules.Intervals) :
    (∃ u, exec (.ivl { bare .f64 with a := .n 1 }) (world (thr .user [(1, 0xFF)])) = .next u)
    ∧ ∃ u, exec (.ivl { bare .f64 with a := .n 1 }) (world (thr .user [(1, 0x1FF)])) = .next u :=
  ⟨⟨_, h.1 _ _ _ _ _ (issues (by decide +kernel)) ⟨by decide +kernel, by decide +kernel, setBits (x := (0xFF : Word)) (by decide)⟩⟩,
    ⟨_, h.2.1 _ _ _ _ _ (issues (by decide +kernel)) (by rintro ⟨_, h, _⟩; revert h; decide +kernel)⟩⟩

/-! ### Memory -/

/-- Equality of results that are or are not an error, where it can be decided. -/
@[reducible] def exceptEq {α β : Type} [DecidableEq α] [DecidableEq β] : DecidableEq (Except α β)
  | .ok a, .ok b => decidable_of_iff (a = b) (by simp)
  | .error a, .error b => decidable_of_iff (a = b) (by simp)
  | .ok _, .error _ => .isFalse (by simp)
  | .error _, .ok _ => .isFalse (by simp)

/-- A declared buffer of the small workgroup at 0x100. -/
def buf (st : BufState) (latch : Bool) : Buffer := { base := 0x100, len := 64, latch := latch, state := st, fill := 0, drains := 0 }
def withBuf (b : Buffer) (t : Thread) : State := { world t with wgs := [{ grp with buffers := [(0, b)] }] }

def fLdv : Fields := { bare .f64 with la := 1, d := .n 4, a := .n 1, b := .const 0, m := 2 }
def fStv : Fields := { bare .f64 with a := .n 1, b := .n 2, c := .const 0, m := 2 }

theorem witness_VaultAccess (h : Rules.VaultAccess) :
    (∃ u, exec (.ldv fLdv) (world (thr .user [(1, 0x40)])) = .next u)
    ∧ (∃ u, exec (.stv fStv) (withBuf (buf .empty false) (thr .user [(1, 0x13C)])) = .next u)
    ∧ (∃ u, exec (.ldv fLdv) (world (thr .user [(1, 4096)])) = .next u)
    ∧ (∃ u, exec (.ldv fLdv) (withBuf (buf .empty false) (thr .user [(1, 0x100)])) = .next u)
    ∧ (∃ u, exec (.stv fStv) (world (thr .user [(1, 0x41)])) = .next u)
    ∧ ∃ u, exec (.stv fStv) (withBuf (buf .full true) (thr .user [(1, 0x100)])) = .next u :=
  ⟨⟨_, (h fLdv grp 0x40).1 _ _ _ _ (issues (by decide +kernel)) (by let _ := @exceptEq; decide)⟩,
    ⟨_, (h fStv { grp with buffers := [(0, buf .empty false)] } 0x13C).2.1 _ _ _ _ (issues (by decide +kernel)) (by let _ := @exceptEq; decide)⟩,
    ⟨_, (h fLdv grp 0).2.2.1 _ _ _ _ (.vaultBounds, 4096) (issues (by decide +kernel)) (by decide +kernel)⟩,
    ⟨_, (h fLdv grp 0).2.2.1 _ _ _ _ (.vaultState, 0x100) (issues (by decide +kernel)) (by decide +kernel)⟩,
    ⟨_, (h fStv grp 0).2.2.2 _ _ _ _ (.vaultBounds, 0x41) (issues (by decide +kernel)) (by decide +kernel)⟩,
    ⟨_, (h fStv grp 0).2.2.2 _ _ _ _ (.vaultState, 0x100) (issues (by decide +kernel)) (by decide +kernel)⟩⟩

theorem witness_VaultAddresses (h : Rules.VaultAddresses) :
    (∃ u, (world (thr .user [])).vaultAt { wav (thr .user []) with kind := .service } 0 4 4 = u)
    ∧ (∃ u, (world (thr .user [])).vaultAt (wav (thr .user [])) 0x40000000 4 4 = u)
    ∧ ∃ u, (world (thr .user [])).vaultAt (wav (thr .user [])) 4092 4 4 = u :=
  ⟨⟨_, (h _ _ _ _ _ (by decide)).1 (by decide)⟩, ⟨_, ((h _ _ _ _ _ (by decide)).2 (by decide)).1 grp (by decide +kernel) (by decide +kernel)⟩,
    ⟨_, ((h _ _ _ _ _ (by decide)).2 (by decide)).2 grp grp (by decide +kernel) (by decide +kernel)⟩⟩

/-- The small state with the page at 0x10000 mapped to the same address, and a leaf of some bits over R, W, X and U. -/
def mapped (bits : DWord) (t : Thread) : State :=
  { world t with cores := [(0, { Core.reset with tlb := [tlbEntry 0 2 (fetchLeaf ||| bits) fetchVa] })] }

def fLd (m : BitVec 10) : Fields := { bare .f64 with la := 1, d := .n 8, a := .n 2, b := .const 0, m := m }
def fSt (m : BitVec 10) : Fields := { bare .f64 with a := .n 2, b := .n 4, c := .const 0, m := m }
def tAt (va : Word) : Thread := thr .user [(2, va), (4, 7)]

/-- The state in which an instruction's access runs, once counted. -/
def counted (s : State) : State := s.counted (theWave s)

/-- The small state with the page at 0x10000 mapped to the same place of package 1. -/
def mappedAway (t : Thread) : State :=
  { world t with cores := [(0, { Core.reset with tlb := [tlbEntry 0 2 (fetchLeaf ||| 0x800000000000) fetchVa] })] }
def fPref : Fields := { bare .f64 with a := .n 2, b := .const 0 }
/-- The small wave's thread reads nothing while an acquire is outstanding. -/
def acquiringThread (va : Word) : Thread :=
  { tAt va with pending := [{ id := 50, seq := 0, pc := 0, left := 1, dst := none, words := 1, access := .global 0 4 0 .min true (some .die) none, lost := [], value := none }] }

theorem witness_GlobalAccess (h : Rules.GlobalAccess) :
    (∃ u, exec (.ld (fLd 2)) (mapped 0 (tAt 0x10040)) = .next u) ∧ (∃ u, exec (.ld (fLd 2)) (mappedAway (tAt 0x10040)) = .next u)
    ∧ (∃ u, exec (.ld (fLd 0x12)) (mapped 0 (tAt 0x10040)) = .next u)
    ∧ (∃ u, exec (.ld (fLd 2)) (mapped 0 (tAt 0x10041)) = .next u) ∧ (∃ u, exec (.ldl (fLd 1)) (mapped 0 (tAt 0x10040)) = .next u)
    ∧ (∃ u, exec (.ldl (fLd 1)) (mappedAway (tAt 0x10040)) = .next u)
    ∧ (∃ u, exec (.ldl (fLd 0x11)) (mapped 0 (tAt 0x10040)) = .next u) ∧ (∃ u, exec (.ldl (fLd 1)) (mapped 0 (tAt 0x10010)) = .next u)
    ∧ (∃ u, exec (.st (fSt 2)) (mapped 0 (tAt 0x10040)) = .next u) :=
  ⟨⟨_, (h (fLd 2) (counted (mapped 0 (tAt 0x10040))) 0x10040 fetchLeaf).1.1 _ _ _ _ (issues (by decide +kernel)) (by decide +kernel)⟩,
    ⟨_, (h (fLd 2) (counted (mappedAway (tAt 0x10040))) 0x800000010040 (fetchLeaf ||| 0x800000000000)).1.2.1 _ _ _ _ (issues (by decide +kernel)) (by decide +kernel)⟩,
    ⟨_, (h (fLd 0x12) (counted (mapped 0 (tAt 0x10040))) 0x10040 fetchLeaf).1.2.2.1 _ _ _ _ (issues (by decide +kernel)) (by decide +kernel)⟩,
    ⟨_, (h (fLd 2) State.reset 0 0).1.2.2.2 _ _ _ _ (.illegal, 7) (issues (by decide +kernel)) (by decide +kernel)⟩,
    ⟨_, (h (fLd 1) (counted (mapped 0 (tAt 0x10040))) 0x10040 fetchLeaf).2.1.1 _ _ _ _ (issues (by decide +kernel)) (by decide +kernel)⟩,
    ⟨_, (h (fLd 1) (counted (mappedAway (tAt 0x10040))) 0x800000010040 (fetchLeaf ||| 0x800000000000)).2.1.2.1 _ _ _ _ (issues (by decide +kernel)) (by decide +kernel)⟩,
    ⟨_, (h (fLd 0x11) (counted (mapped 0 (tAt 0x10040))) 0x10040 fetchLeaf).2.1.2.2.1 _ _ _ _ (issues (by decide +kernel)) (by decide +kernel)⟩,
    ⟨_, (h (fLd 1) State.reset 0 0).2.1.2.2.2 _ _ _ _ (.illegal, 7) (issues (by decide +kernel)) (by decide +kernel)⟩,
    ⟨_, (h (fSt 2) (counted (mapped 0 (tAt 0x10040))) 0x10040 fetchLeaf).2.2.1 _ _ _ _ (issues (by decide +kernel)) (by decide +kernel)⟩⟩

theorem witness_GlobalAccess_pref (h : Rules.GlobalAccess) :
    (∃ u, exec (.pref fPref) (mapped 0 (tAt 0x10040)) = .next u) ∧ (∃ u, exec (.pref fPref) (mapped 0x2000 (tAt 0x10040)) = .next u)
    ∧ (∃ u, exec (.pref fPref) (world (tAt 0x10040)) = .next u) ∧ ∃ u, exec (.pref fPref) (world (acquiringThread 0x10040)) = .next u :=
  ⟨⟨_, (h fPref State.reset 0x10040 fetchLeaf).2.2.2.1 _ _ _ _ (issues (by decide +kernel)) (by decide +kernel)⟩,
    ⟨_, (h fPref State.reset 0 0).2.2.2.2.1 _ _ _ _ (issues (by decide +kernel)) (by
      have e : (counted (mapped 0x2000 (tAt 0x10040))).lookupVa 0 (rootTag ((counted (mapped 0x2000 (tAt 0x10040))).rootOfWave (wav (tAt 0x10040)))) .user .r 0x10040 = .psn 0x10040 := by
        decide +kernel
      exact cast (congrArg (fun r : Tr => match r with | .ok _ _ | .miss => False | _ => True) e).symm trivial)⟩,
    ⟨_, (h fPref State.reset 0 0).2.2.2.2.2.1 _ _ _ _ (issues (by decide +kernel)) (by decide +kernel)⟩,
    ⟨_, (h fPref State.reset 0 0).2.2.2.2.2.2 _ _ _ _ (issues (by decide +kernel)) (by decide +kernel)⟩⟩

/-- A store of the thread that is not performed. -/
def aStore : Access1 :=
  { id := 60, wave := 3, core := 0, lane := 0, seq := 0, origin := { pkg := 0, wg := 2, gang := 1, die := 0, part := 0, job := none }, rel := none, level := .user,
    via := none, sent := none, work := .store 0x10040 [1, 2, 3, 4] .min false }
def storing (a : Access1) (t : Thread) : State := { world t with waves := [{ wav t with store := [a] }] }

theorem witness_Fences (h : Rules.Fences) :
    (∃ u, exec (.fence (pickFields 0x6E .f64 0x24)) (world (thr .user [])) = .next u)
    ∧ ∃ u, exec (.fence (pickFields 0x6E .f64 0x24)) (storing aStore (thr .user [])) = .next u :=
  ⟨⟨_, (h _).1 _ _ _ _ (issues (by decide +kernel)) (by
      refine ⟨fun _ => by decide +kernel, fun _ p hp => ?_⟩
      have e : ((theThread (world (thr .user []))).issued (world (thr .user [])) (shapeFence (pickFields 0x6E .f64 0x24))
          (pickFields 0x6E .f64 0x24)).pending = [] := by decide +kernel
      exact absurd (e ▸ hp) (by simp))⟩,
    ⟨_, (h _).2 _ _ _ _ (issues (by decide +kernel)) (by
      rintro ⟨h1, _⟩
      exact absurd (h1 (by decide +kernel)) (by decide +kernel))⟩⟩

def fAtom : Fields := { bare .f64 with la := 1, d := .n 8, a := .n 2, b := .n 4 }
def fRed : Fields := { bare .f64 with a := .n 2, b := .n 4 }

theorem witness_Atomics (h : Rules.Atomics) :
    (∃ u, exec (.atom fAtom) (mapped 0 (tAt 0x10040)) = .next u) ∧ (∃ u, exec (.red fRed) (mapped 0 (tAt 0x10040)) = .next u)
    ∧ (∃ u, exec (.red fRed) (mapped 0x2000 (tAt 0x10040)) = .next u)
    ∧ (∃ u, exec (.atom fAtom) (mapped 0 (tAt 0x10042)) = .next u) ∧ ∃ u, exec (.red fRed) (mapped 0 (tAt 0x10042)) = .next u :=
  ⟨⟨_, (h fAtom (counted (mapped 0 (tAt 0x10040))) 0x10040 fetchLeaf).1 _ _ _ _ (issues (by decide +kernel)) (by decide +kernel)⟩,
    ⟨_, (h fRed (counted (mapped 0 (tAt 0x10040))) 0x10040 fetchLeaf).2.1 _ _ _ _ (issues (by decide +kernel)) (by decide +kernel)⟩,
    ⟨_, (h fRed (counted (mapped 0x2000 (tAt 0x10040))) 0x10040 0).2.2.1 _ _ _ _ (issues (by decide +kernel)) (by decide +kernel)⟩,
    ⟨_, (h fAtom State.reset 0 0).2.2.2.1 _ _ _ _ (.illegal, 7) (issues (by decide +kernel)) (by decide +kernel)⟩,
    ⟨_, (h fRed State.reset 0 0).2.2.2.2 _ _ _ _ (.illegal, 7) (issues (by decide +kernel)) (by decide +kernel)⟩⟩

/-! ### Results that arrive, memory performed -/

/-- A thread with one result pending, of two words for registers 4 and 5. -/
def tWaits (a : Access) (v : Option (List Word)) : Thread := (thr .user []).pend 50 0 0 2 (some 4) a v

theorem witness_PendingResults (h : Rules.PendingResults) :
    (∃ v, ((thr .user []).pend 50 0 2 1 (some 4) (.vault 2 0x40 4) none).queue.length = v)
    ∧ ∃ v, ((tWaits (.bufqB 0) none).deliver ((tWaits (.bufqB 0) none).pending.headD
        { id := 0, seq := 0, pc := 0, left := 0, dst := none, words := 2, access := .bufqB 0, lost := [], value := none }) [7, 8]).reg 5 = v :=
  ⟨⟨_, (h.1 (thr .user []) 50 0 2 1 (some 4) (.vault 2 0x40 4) none (by decide) (by decide +kernel)).1⟩,
    ⟨_, (h.2 _ _ _ (by decide +kernel) (by decide +kernel)).2.2.2.1 5⟩⟩

theorem witness_ResultsArrive (h : Rules.ResultsArrive) :
    (∃ u, exec (.longLatencyResult 0 0 1 0 50) (world (tWaits (.vault 2 0x40 8) (some [7, 8]))) = .next u)
    ∧ (∃ u, exec (.longLatencyResult 0 0 1 0 50) (world ((thr .user []).pend 50 0 2 2 (some 4) (.vault 2 0x40 8) (some [7, 8]))) = .next u)
    ∧ (∃ u, exec (.longLatencyResult 0 0 1 0 50) (world (tWaits (.bufqL ⟨2, 0x100⟩) none)) = .next u)
    ∧ (∃ u, exec (.longLatencyResult 0 0 1 0 50) (world (tWaits (.vault 2 0x40 8) none)) = .next u)
    ∧ ∃ u, exec (.longLatencyResult 0 0 1 0 50) (world (tWaits (.global 0x10040 8 0x10040 .min false (some .die) none) none)) = .next u :=
  ⟨⟨_, (h _ _ _ _ _ _ _ _ _ rfl rfl rfl rfl (by decide +kernel) rfl rfl).1 _ rfl⟩,
    ⟨_, (h _ _ _ _ _ _ _ _ _ rfl rfl rfl rfl (by decide +kernel) rfl rfl).1 _ rfl⟩,
    ⟨_, (h _ _ _ _ _ _ _ _ _ rfl rfl rfl rfl (by decide +kernel) rfl rfl).2.1 _ rfl rfl⟩,
    ⟨_, (h _ _ _ _ _ _ _ _ _ rfl rfl rfl rfl (by decide +kernel) rfl rfl).2.2.1 grp _ _ _ rfl rfl (by decide +kernel) (by decide +kernel)
      (by decide +kernel)⟩,
    ⟨_, (h _ _ _ _ _ _ _ _ _ rfl rfl rfl rfl (by decide +kernel) rfl rfl).2.2.2 _ _ _ _ _ _ rfl rfl (by decide +kernel) (by decide +kernel)
      (by decide +kernel) (by decide +kernel)⟩⟩

theorem witness_WritesBytes (h : Rules.WritesBytes) :
    (∃ v, (sTick.poke 0 4 [0, 2] none).peek 5 1 = v) ∧ ∃ v, (sTick.poke 0 4 [0, 2] none).peek 4 2 = v :=
  ⟨⟨_, (h sTick 0 4 [0, 2] none (by decide +kernel)).2.1 5⟩, ⟨_, (h sTick 0 4 [0, 2] none (by decide +kernel)).2.2.1 2 (by decide)⟩⟩

/-- An access of the thread with other work. -/
def works (w : Work) : Access1 := { aStore with work := w }
def released1 : Access1 := { aStore with rel := some { scope := .die, mask := 7 }, seq := 1 }
def drained (s : State) : Prop := ∃ u, exec (.storeQueueDrain 0 0 1) s = .next u

/-- A request to a service wave, of the thread's pending result. -/
def aReq : SvcReq :=
  { id := 50, ret := true, signed := false, wide := false, op := 0, pa := 0x10040, va := 0x10040, operand := 5, compare := 0, core := 0,
    wave := 3, lane := 0, seq := 0, route := .min, scope := none, via := none, reply := none }

/-- Die 0 holds the only copy of the line at 0x40 of package 1. -/
def withLine (s : State) : State :=
  { s with dies := [(0, { Die.reset with lines := [(2 ^ 40, { filling := false, dirty := false, cls := .min, only := true })] })] }

/-- The oldest access of the small wave's queue may leave it. -/
def leaves (s : State) (a : Access1) : Bool :=
  (s.waves.filter fun x => x.core = 0 && x.slot = 1).find? (fun x => x.store ≠ []) = some (theWave s) && (theWave s).store = [a]
    && (theWave s).readsBefore a.seq 0 = [] && (a.rel.all fun r => s.released a.wave a.lane a.seq r.scope r.mask)
    && !s.rings a.work && !s.stalledWave (theWave s).id

theorem leaving (s : State) (a : Access1) (hl : leaves s a = true) :
    (s.waves.filter fun x => x.core = 0 && x.slot = 1).find? (fun x => x.store ≠ []) = some (theWave s) ∧ (theWave s).store = [a]
    ∧ (theWave s).readsBefore a.seq 0 = [] ∧ (∀ r, a.rel = some r → s.released a.wave a.lane a.seq r.scope r.mask = true)
    ∧ (s.rings a.work = true → s.released a.wave a.lane a.seq .sys 7 = true) ∧ s.stalledWave (theWave s).id = false := by
  simp only [leaves, Bool.and_eq_true, decide_eq_true_eq, Bool.not_eq_true'] at hl
  exact ⟨hl.1.1.1.1.1, hl.1.1.1.1.2, hl.1.1.1.2, fun r e => by have := hl.1.1.2; rw [e] at this; exact this,
    fun e => absurd (hl.1.2.symm.trans e) (by decide), hl.2⟩

theorem witness_StoreQueueDrains (h : Rules.StoreQueueDrains) :
    drained { storing released1 (thr .user []) with net := [{ aStore with id := 59 }] }
    ∧ drained (storing (works (.vault 2 0x40 [1])) (thr .user [])) ∧ drained (storing released1 (thr .user []))
    ∧ drained (withLine (storing (works (.store (2 ^ 47 + 0x40) [1] .min false)) (thr .user [])))
    ∧ drained (storing (works (.store (2 ^ 47 + 0x40) [1] .min false)) (thr .user []))
    ∧ drained (storing (works (.store (2 ^ 47 + 0x40) [1] .min true)) (thr .user []))
    ∧ drained (storing (works (.store (mkPa 0 1 0x1000) [1] .min true)) (thr .user []))
    ∧ drained (storing (works (.svc aReq .min)) (thr .user [])) :=
  ⟨⟨_, (h _ 0 0 1 (theWave (storing released1 (thr .user []))) _ _ rfl rfl (by decide +kernel)).1 fun e => absurd (e.1 _ rfl) (by decide +kernel)⟩,
    let l := leaving (storing (works (.vault 2 0x40 [1])) (thr .user [])) (works (.vault 2 0x40 [1])) (by decide +kernel);
      ⟨_, ((h _ 0 0 1 _ _ _ l.1 l.2.1 l.2.2.1).2 l.2.2.2).1 _ _ _ rfl⟩,
    let l := leaving (storing released1 (thr .user [])) released1 (by decide +kernel);
      ⟨_, ((h _ 0 0 1 _ _ _ l.1 l.2.1 l.2.2.1).2 l.2.2.2).2.1 _ _ _ rfl (by decide +kernel)⟩,
    let l := leaving (withLine (storing (works (.store (2 ^ 47 + 0x40) [1] .min false)) (thr .user []))) (works (.store (2 ^ 47 + 0x40) [1] .min false)) (by decide +kernel);
      ⟨_, ((h _ 0 0 1 _ _ _ l.1 l.2.1 l.2.2.1).2 l.2.2.2).2.1 _ _ _ rfl (by decide +kernel)⟩,
    let l := leaving (storing (works (.store (2 ^ 47 + 0x40) [1] .min false)) (thr .user [])) (works (.store (2 ^ 47 + 0x40) [1] .min false)) (by decide +kernel);
      ⟨_, ((h _ 0 0 1 _ _ _ l.1 l.2.1 l.2.2.1).2 l.2.2.2).2.2.1 _ _ _ rfl (by decide +kernel) (by decide +kernel)⟩,
    let l := leaving (storing (works (.store (2 ^ 47 + 0x40) [1] .min true)) (thr .user [])) (works (.store (2 ^ 47 + 0x40) [1] .min true)) (by decide +kernel);
      ⟨_, ((h _ 0 0 1 _ _ _ l.1 l.2.1 l.2.2.1).2 l.2.2.2).2.2.2.1 _ _ _ rfl (by decide +kernel)⟩,
    let l := leaving (storing (works (.store (mkPa 0 1 0x1000) [1] .min true)) (thr .user [])) (works (.store (mkPa 0 1 0x1000) [1] .min true)) (by decide +kernel);
      ⟨_, ((h _ 0 0 1 _ _ _ l.1 l.2.1 l.2.2.1).2 l.2.2.2).2.2.2.2.1 _ _ _ _ rfl (by decide +kernel) (by decide +kernel)⟩,
    let l := leaving (storing (works (.svc aReq .min)) (thr .user [])) (works (.svc aReq .min)) (by decide +kernel);
      ⟨_, ((h _ 0 0 1 _ _ _ l.1 l.2.1 l.2.2.1).2 l.2.2.2).2.2.2.2.2 (by intro _ _ _ e; cases e) (by intro _ _ _ _ e; cases e)⟩⟩

theorem witness_VaultWrites (h : Rules.VaultWrites) : ∃ x, (world (thr .user [])).wg? 2 = some grp ∧
    ((world (thr .user [])).vaultWrite 2 0x40 [1, 2]).wg? 2 = some x :=
  let ⟨x, hx, _⟩ := h (world (thr .user [])) 2 0x40 [1, 2] grp (by decide +kernel) (by decide +kernel)
  ⟨x, by decide +kernel, hx⟩

def flying (a : Access1) (t : Thread) : State := { world t with net := [a] }
def performed (s : State) : Prop := ∃ u, exec (.directAccessPerform 60) s = .next u
def sReq : State := { world (tWaits (.atomic 0x10040 false) none) with services := [(0, { queue := [aReq], waiting := [], taken := [] })] }
def sLine (filling : Bool) : State :=
  { State.reset with dies := [(0, { Die.reset with lines := [(0x801, { filling := filling, dirty := false, cls := .min })] })] }

theorem witness_MemoryEvents (h : Rules.MemoryEvents) :
    performed (flying aStore (thr .user [])) ∧ performed (flying (works (.svc aReq .min)) (thr .user []))
    ∧ performed (flying (works (.load 0x10040 8 .min 50)) (tWaits (.global 0x10040 8 0x10040 .min true none none) none))
    ∧ performed (flying (works (.store (2 ^ 47 + 0x40) [1] .min false)) (thr .user []))
    ∧ (∃ u, exec (.serviceRequestArrive 0 0)
        { State.reset with services := [(0, { queue := [], waiting := [aReq], taken := [] })] } = .next u) :=
  ⟨⟨_, (h.1 _ 60 aStore rfl rfl (by decide +kernel) (by decide +kernel)).1 _ _ _ _ rfl (by decide +kernel) (by decide +kernel)⟩,
    ⟨_, (h.1 _ 60 (works (.svc aReq .min)) rfl rfl (by decide +kernel) (by decide +kernel)).2.1 _ _ rfl (by decide +kernel)⟩,
    ⟨_, (h.1 _ 60 (works (.load 0x10040 8 .min 50)) rfl rfl (by decide +kernel) (by decide +kernel)).2.2.1 _ _ _ _ _ _ _ _ _ rfl
      (by decide +kernel) (by decide +kernel) rfl rfl rfl rfl⟩,
    ⟨_, (h.1 _ 60 (works (.store (2 ^ 47 + 0x40) [1] .min false)) rfl rfl (by decide +kernel) (by decide +kernel)).2.2.2 _ _ rfl rfl
      (by decide +kernel)⟩,
    ⟨_, h.2.1 _ 0 0 _ _ (by decide) (by decide) rfl (by decide)⟩⟩

/-- Die 0 waits for a line of package 1 that it asked for. -/
def sAsked : State :=
  { State.reset with dies := [(0, { Die.reset with lines := [(2 ^ 40, { filling := true, dirty := false, cls := .min, asked := some 7 })] })] }

theorem witness_MemoryEvents_lines (h : Rules.MemoryEvents) :
    (∃ u, exec (.cacheFill 0 0x801) (sLine true) = .next u) ∧ exec (.cacheFill 0 (2 ^ 40)) sAsked = .next sAsked
    ∧ (∃ u, exec (.directoryRecall 0 0x801) (sLine false) = .next u) ∧ (∃ u, exec (.directoryRecall 0 (2 ^ 40)) (withLine State.reset) = .next u)
    ∧ ∃ u, exec (.directoryRecall 0 0x801) (sLine true) = .next u :=
  ⟨⟨_, (h.2.2 _ 0 0x801 { filling := true, dirty := false, cls := .min } rfl).1 rfl⟩,
    (h.2.2 sAsked 0 (2 ^ 40) { filling := true, dirty := false, cls := .min, asked := some 7 } (by decide +kernel)).2.1 (by decide),
    ⟨_, (h.2.2 _ 0 0x801 { filling := false, dirty := false, cls := .min } rfl).2.2.1 rfl (by decide +kernel)⟩,
    ⟨_, (h.2.2 _ 0 (2 ^ 40) { filling := false, dirty := false, cls := .min, only := true } (by decide +kernel)).2.2.2.1 rfl (by decide +kernel)
      (by decide +kernel)⟩,
    ⟨_, (h.2.2 _ 0 0x801 { filling := true, dirty := false, cls := .min } rfl).2.2.2.2 rfl⟩⟩

theorem witness_AtomicsAtomic (h : Rules.AtomicsAtomic) :
    (∃ u, (sReq.serve 0).peek 0x10040 1 = u) ∧ ∃ u, (sReq.serve 0).thread? 3 0 = u := by
  have k := h sReq 0 aReq [] (theWave sReq) (theThread sReq) _ rfl rfl (by decide) (by decide +kernel) (by decide +kernel) (by decide +kernel)
    rfl rfl rfl (by decide +kernel)
  exact ⟨⟨_, k.1 0x10040⟩, ⟨_, k.2.2.1 rfl⟩⟩

/-- The small state with a service wave. -/
def sService (v : Service) (t : Thread) : State :=
  { world t with waves := [{ wav t with kind := .service }], services := [(0, v)] }
def fRecv : Fields := { bare .f64 with d := .n 16 }
def fReply : Fields := { bare .f64 with a := .n 1, b := .n 2 }
def tRecv : Thread := { thr .sys [] with run := .parked (.svcrecv 16) 8 }

theorem witness_ServiceInstructions (h : Rules.ServiceInstructions) :
    (∃ u, exec (.svcrecv fRecv) (sService Service.reset (thr .sys [])) = .next u)
    ∧ (∃ u, exec (.svcrecv fRecv) (world (thr .sys [])) = .next u)
    ∧ (∃ u, (sService { Service.reset with queue := [aReq] } tRecv).wakeThread { wav tRecv with kind := .service } 0 tRecv = u)
    ∧ (∃ u, exec (.svcreply fReply) (sService Service.reset (thr .sys [(1, 50)])) = .next u)
    ∧ ∃ u, exec (.svcreply fReply) (sService { Service.reset with taken := [aReq] } (thr .sys [(1, 50)])) = .next u :=
  ⟨⟨_, (h fRecv 16).1 _ _ _ _ (issues (by decide +kernel)) (by decide +kernel)⟩,
    ⟨_, (h fRecv 16).2.1 _ _ _ _ (.illegal, 7) (issues (by decide +kernel)) (by decide +kernel)⟩,
    ⟨_, (h fRecv 16).2.2.1 _ _ _ _ _ _ _ rfl rfl⟩,
    ⟨_, (h fReply 0).2.2.2.1 _ _ _ _ (issues (by decide +kernel)) (by decide +kernel)⟩,
    ⟨_, (h fReply 0).2.2.2.2 aReq _ _ _ _ (issues (by decide +kernel)) (by decide +kernel)⟩⟩

/-! ### Buffers, latches, phasers, register blocks -/

def fBuf (m : BitVec 10) : Fields := { bare .f64 with a := .n 1, b := .n 2, c := .n 3, m := m }
def fBufn (m : BitVec 10) : Fields := { bare .f64 with a := .n 1, m := m }
def fBufq (m : BitVec 10) : Fields := { bare .f64 with la := 1, d := .n 4, a := .n 1, m := m }
/-- The small workgroup with one buffer. -/
def grpB (b : Buffer) : Workgroup := { grp with buffers := [(0, b)] }

theorem witness_Buffers (h : Obligations.Buffers) :
    (∃ u, exec (.bufdecl (fBuf 0)) (world (thr .user [(1, 63)])) = .next u)
    ∧ (∃ u, exec (.bufdecl (fBuf 0)) (world (thr .user [(2, 4032), (3, 64)])) = .next u)
    ∧ (∃ u, exec (.bufdecl (fBuf 1)) (world (thr .user [(2, 4032), (3, 64)])) = .next u)
    ∧ (∃ u, exec (.bufdecl (fBuf 0)) (world (thr .user [(1, 64)])) = .next u)
    ∧ (∃ u, exec (.bufset (fBufn 0)) (withBuf (buf .empty false) (thr .user [])) = .next u)
    ∧ (∃ u, exec (.bufset (fBufn 1)) (withBuf (buf .empty false) (thr .user [])) = .next u)
    ∧ (∃ u, exec (.bufset (fBufn 0)) (withBuf (buf .full false) (thr .user [])) = .next u)
    ∧ (∃ u, exec (.bufset (fBufn 0)) (withBuf (buf .draining false) (thr .user [])) = .next u)
    ∧ (∃ u, exec (.bufset (fBufn 0)) (world (thr .user [(1, 64)])) = .next u)
    ∧ (∃ u, exec (.bufq (fBufq 0)) (world (thr .user [(1, 63)])) = .next u)
    ∧ ∃ u, exec (.bufq (fBufq 1)) (withBuf (buf .empty true) (thr .user [(1, 0x100)])) = .next u :=
  ⟨⟨_, (h (fBuf 0) grp).1 _ _ _ _ (issues (by decide +kernel)) (by
      and_intros <;> try decide +kernel
      exact fun hl => absurd (show (0 : Nat) ≠ 0 from hl) (by simp))⟩,
    ⟨_, (h (fBuf 0) grp).2.1 _ _ _ _ (issues (by decide +kernel)) (by
      and_intros <;> try decide +kernel
      exact fun _ k b hb => absurd (show (k, b) ∈ ([] : List (Nat × Buffer)) from hb) (by simp))⟩,
    ⟨_, (h (fBuf 1) grp).2.1 _ _ _ _ (issues (by decide +kernel)) (by
      and_intros <;> try decide +kernel
      exact fun _ k b hb => absurd (show (k, b) ∈ ([] : List (Nat × Buffer)) from hb) (by simp))⟩,
    ⟨_, (h (fBuf 0) grp).2.2.1 _ _ _ _ (.illegal, 7) (issues (by decide +kernel)) (by decide +kernel)⟩,
    ⟨_, ((h (fBufn 0) (grpB (buf .empty false))).2.2.2.1 (buf .empty false)).1 _ _ _ _ (issues (by decide +kernel)) (by decide +kernel)⟩,
    ⟨_, ((h (fBufn 1) (grpB (buf .empty false))).2.2.2.1 (buf .empty false)).2.1 _ _ _ _ (issues (by decide +kernel)) (by decide +kernel)⟩,
    ⟨_, ((h (fBufn 0) (grpB (buf .full false))).2.2.2.1 (buf .full false)).2.2.1 _ _ _ _ (issues (by decide +kernel)) (by decide +kernel)⟩,
    ⟨_, ((h (fBufn 0) (grpB (buf .draining false))).2.2.2.1 (buf .draining false)).2.2.2 _ _ _ _ (.vaultState, 0x8000000000000000)
      (issues (by decide +kernel)) (by decide +kernel)⟩,
    ⟨_, ((h (fBufn 0) grp).2.2.2.1 (buf .full false)).2.2.2 _ _ _ _ (.illegal, 7) (issues (by decide +kernel)) (by decide +kernel)⟩,
    ⟨_, (h (fBufq 0) grp).2.2.2.2.1 _ _ _ _ (issues (by decide +kernel)) (by decide +kernel)⟩,
    ⟨_, (h (fBufq 1) grp).2.2.2.2.2 ⟨2, 0x100⟩ _ _ _ _ (issues (by decide +kernel)) (by let _ := @exceptEq; decide)⟩⟩

theorem witness_LatchArrives (h : Rules.LatchArrives) :
    (∃ v, (((world (thr .user [])).arrive ⟨2, 0x100⟩ 3).latchWord ⟨2, 0x100⟩ 1).toNat = v)
    ∧ ∃ v, ((((world (thr .user [])).setLatch ⟨2, 0x100⟩ 2 1 0xFFFFFFFF).arrive ⟨2, 0x100⟩ 4).latchWord ⟨2, 0x100⟩ 1).toNat = v :=
  ⟨⟨_, ((h (world (thr .user [])) ⟨2, 0x100⟩ grp 3 (by decide +kernel) (by decide +kernel) (by decide)).2.1 (by decide +kernel)).1⟩,
    ⟨_, ((h ((world (thr .user [])).setLatch ⟨2, 0x100⟩ 2 1 0xFFFFFFFF) ⟨2, 0x100⟩ _ 4 rfl (by decide +kernel) (by decide)).2.2.1
      (by decide +kernel)).1⟩⟩

/-- A latch buffer at 0x100, and a thread that names its first latch. -/
def sLatch (rs : List (Nat × Word)) : State := withBuf (buf .empty true) (thr .user ((1, 0x100) :: rs))
def fLat (m : BitVec 10) : Fields := { bare .f64 with a := .n 1, b := .n 2, m := m }
def fTry : Fields := { bare .f64 with d := .n 4, a := .n 1, b := .n 2, c := .n 3, m := 2 }
def fArr : Fields := { bare .f64 with d := .n 4, a := .n 1, b := .n 2 }
def parked (p : Park) : Thread := { thr .user [] with run := .parked p 8 }

/-- The same with an access in the wave's store queue. -/
def sLatchStoring (a : Access1) : State := { sLatch [] with waves := [{ wav (thr .user [(1, 0x100)]) with store := [a] }] }

theorem witness_Latches (h : Rules.Latches) :
    (∃ u, exec (.ltinit (fLat 0)) (sLatch [(2, 4)]) = .next u) ∧ (∃ u, exec (.ltinit (fLat 0)) (sLatchStoring (works (.vault 2 0x40 [1]))) = .next u)
    ∧ (∃ u, exec (.ltinit (fLat 0)) (world (thr .user [(1, 0x100)])) = .next u)
    ∧ (∃ u, exec (.ltexp (fLat 1)) (sLatch [(2, 4)]) = .next u) ∧ (∃ u, exec (.ltexp (fLat 0)) (sLatch []) = .next u)
    ∧ (∃ u, exec (.ltarr fArr) (sLatch [(2, 1)]) = .next u) ∧ (∃ u, exec (.ltarr fArr) (sLatchStoring aStore) = .next u)
    ∧ (∃ u, exec (.ltwait (fLat 0)) (sLatch []) = .next u) ∧ (∃ u, exec (.lttry fTry) (sLatch [(3, 0x20000)]) = .next u) :=
  ⟨⟨_, (h.1 (fLat 0) ⟨2, 0x100⟩).1 _ _ _ _ (issues (by decide +kernel)) (by
      refine ⟨by let _ := @exceptEq; decide, by decide +kernel, by decide +kernel, fun a ha => ?_⟩
      exact absurd (show a ∈ ([] : List Access1) from ha) (by simp))⟩,
    ⟨_, (h.1 (fLat 0) ⟨2, 0x100⟩).2.1 _ _ _ _ (issues (by decide +kernel)) (by
      refine ⟨by let _ := @exceptEq; decide, .inr ⟨by decide +kernel, by decide +kernel, fun e => ?_⟩⟩
      exact e _ (List.mem_singleton.mpr rfl) _ _ _ rfl)⟩,
    ⟨_, (h.1 (fLat 0) ⟨2, 0x100⟩).2.2.1 _ _ _ _ (.vaultState, 0x100) (issues (by decide +kernel)) (by decide +kernel)⟩,
    ⟨_, (h.1 (fLat 1) ⟨2, 0x100⟩).2.2.2.1 _ _ _ _ (issues (by decide +kernel)) (by let _ := @exceptEq; decide)⟩,
    ⟨_, (h.1 (fLat 0) ⟨2, 0x100⟩).2.2.2.1 _ _ _ _ (issues (by decide +kernel)) (by let _ := @exceptEq; decide)⟩,
    ⟨_, (h.1 fArr ⟨2, 0x100⟩).2.2.2.2.1 _ _ _ _ (issues (by decide +kernel)) (by let _ := @exceptEq; decide)⟩,
    ⟨_, (h.1 fArr ⟨2, 0x100⟩).2.2.2.2.2.1 _ _ _ _ (issues (by decide +kernel)) (by let _ := @exceptEq; decide)⟩,
    ⟨_, (h.1 (fLat 0) ⟨2, 0x100⟩).2.2.2.2.2.2.1 _ _ _ _ (issues (by decide +kernel)) (by let _ := @exceptEq; decide)⟩,
    ⟨_, (h.1 fTry ⟨2, 0x100⟩).2.2.2.2.2.2.2 _ _ _ _ (issues (by decide +kernel)) (by let _ := @exceptEq; decide)⟩⟩

theorem witness_Latches_waits (h : Rules.Latches) :
    (∃ u, (world (parked (.ltwait ⟨2, 0x100⟩ 1))).wakeThread (wav (parked (.ltwait ⟨2, 0x100⟩ 1))) 0 (parked (.ltwait ⟨2, 0x100⟩ 1)) = u)
    ∧ (∃ u, (world (parked (.lttry ⟨2, 0x100⟩ 0 9 2 none))).wakeThread (wav (parked (.lttry ⟨2, 0x100⟩ 0 9 2 none))) 0
        (parked (.lttry ⟨2, 0x100⟩ 0 9 2 none)) = u)
    ∧ (∃ u, exec (.lttryTimeout 0 0 1 0) (world (parked (.lttry ⟨2, 0x100⟩ 0 0 2 (some 4)))) = .next u)
    ∧ ∃ u, exec (.lttryTimeout 0 0 1 0) (world (parked (.lttry ⟨2, 0x100⟩ 0 9 2 (some 4)))) = .next u :=
  ⟨⟨_, (h.2.1 _ _ 0 _ ⟨2, 0x100⟩ 1 0 0 none 8).1 rfl⟩, ⟨_, (h.2.1 _ _ 0 _ ⟨2, 0x100⟩ 0 9 2 none 8).2 rfl⟩,
    ⟨_, h.2.2 _ _ _ _ _ _ _ _ _ _ _ _ _ rfl rfl rfl⟩, ⟨_, h.2.2 _ _ _ _ _ _ _ _ _ _ _ _ _ rfl rfl rfl⟩⟩

theorem witness_SleepEnds (h : Rules.SleepEnds) :
    (∃ u, exec (.sleepWake 0 0 1 0) (world (parked (.sleep 0))) = .next u) ∧ (∃ u, exec (.sleepWake 0 0 1 0) (world (parked (.sleep 1))) = .next u)
    ∧ ∃ u, ({ world (parked (.sleep 0)) with pcc := 63 } : State).wakeThread (wav (parked (.sleep 0))) 0 (parked (.sleep 0)) = u :=
  ⟨⟨_, (h _ _ _ _ _ _ _ _ _ rfl rfl rfl).1⟩, ⟨_, (h _ _ _ _ _ _ _ _ _ rfl rfl rfl).1⟩,
    ⟨_, (h { world (parked (.sleep 0)) with pcc := 63 } 0 0 1 0 _ _ _ _ rfl rfl rfl).2 (by decide +kernel)⟩⟩

/-- A phaser whose only member is the small wave, which has or has not signalled its open phase. -/
def aPhaser (done : Bool) : Phaser :=
  { phase := 4, members := [{ wave := 3, sig := true, wait := true, joined := 4, next := if done then 5 else 4 }] }
def mPhaser (done : Bool) : Member := { wave := 3, sig := true, wait := true, joined := 4, next := if done then 5 else 4 }

theorem witness_PhaserPhases (h : Rules.PhaserPhases) :
    (∃ p, (aPhaser true).complete = p) ∧ (aPhaser false).complete = aPhaser false ∧ (∃ p, ((aPhaser true).join 9 true true).1 = p)
    ∧ (aPhaser false).leave 9 = aPhaser false ∧ ∃ p, (aPhaser false).leave 3 = p :=
  ⟨⟨_, (h (aPhaser true) 0).1 (by decide +kernel) (by decide +kernel)⟩, (h (aPhaser false) 0).2.1 (.inr (by decide +kernel)),
    ⟨_, (h (aPhaser true) 9).2.2.1 true true⟩, (h (aPhaser false) 9).2.2.2.1 (by decide +kernel),
    ⟨_, (h (aPhaser false) 3).2.2.2.2 _ rfl rfl rfl rfl rfl⟩⟩

/-- The small state with one CORE phaser. -/
def sPhaser (p : Phaser) (t : Thread) : State :=
  { world t with
    wgs := [{ grp with phasers := [(0, p)] }], entries := [{ ent with record := { words := (List.replicate 64 0).set 8 0x11000000 } }] }
def fPh (m : BitVec 10) : Fields := { bare .f64 with d := .n 4, a := .n 1, m := m }

theorem witness_Phasers (h : Rules.Phasers) :
    (∃ u, exec (.phreg (fPh 2)) (sPhaser Phaser.reset (thr .user [])) = .next u)
    ∧ (∃ u, exec (.phdrop (fBufn 0)) (sPhaser (aPhaser false) (thr .user [])) = .next u)
    ∧ (∃ u, exec (.phsig (fPh 0)) (sPhaser (aPhaser false) (thr .user [])) = .next u)
    ∧ (∃ u, exec (.phsig (fPh 0)) (sPhaser (aPhaser true) (thr .user [])) = .next u)
    ∧ (∃ u, exec (.phnext (fPh 0)) (sPhaser (aPhaser false) (thr .user [])) = .next u)
    ∧ (∃ u, exec (.phwait (fLat 0)) (sPhaser (aPhaser false) (thr .user [(2, 4)])) = .next u)
    ∧ (∃ u, exec (.phtry fTry) (sPhaser (aPhaser false) (thr .user [(2, 4)])) = .next u)
    ∧ (∃ u, (world (parked (.phwait ⟨0, 2, 0⟩ 1))).wakeThread (wav (parked (.phwait ⟨0, 2, 0⟩ 1))) 0 (parked (.phwait ⟨0, 2, 0⟩ 1)) = u)
    ∧ (∃ u, (world (parked (.phnext ⟨0, 2, 0⟩ 1 true none))).wakeThread (wav (parked (.phnext ⟨0, 2, 0⟩ 1 true none))) 0
        (parked (.phnext ⟨0, 2, 0⟩ 1 true none)) = u)
    ∧ (∃ u, (world (parked (.phtry ⟨0, 2, 0⟩ 0xFFFFFFFF 9 2 none))).wakeThread (wav (parked (.phtry ⟨0, 2, 0⟩ 0xFFFFFFFF 9 2 none))) 0
        (parked (.phtry ⟨0, 2, 0⟩ 0xFFFFFFFF 9 2 none)) = u)
    ∧ (∃ u, exec (.phtryTimeout 0 0 1 0) (world (parked (.phtry ⟨0, 2, 0⟩ 0 0 2 (some 4)))) = .next u)
    ∧ ∃ u, exec (.phtryTimeout 0 0 1 0) (world (parked (.phtry ⟨0, 2, 0⟩ 0 9 2 (some 4)))) = .next u :=
  ⟨⟨_, (h.1 (fPh 2) ⟨0, 2, 0⟩ (mPhaser true)).1 _ _ _ _ (issues (by decide +kernel)) (by let _ := @exceptEq; decide)⟩,
    ⟨_, (h.1 (fBufn 0) ⟨0, 2, 0⟩ (mPhaser false)).2.1 _ _ _ _ (issues (by decide +kernel)) (by let _ := @exceptEq; decide)⟩,
    ⟨_, (h.1 (fPh 0) ⟨0, 2, 0⟩ (mPhaser false)).2.2.1 _ _ _ _ (issues (by decide +kernel)) (by let _ := @exceptEq; decide)⟩,
    ⟨_, (h.1 (fPh 0) ⟨0, 2, 0⟩ (mPhaser true)).2.2.2.1 _ _ _ _ (issues (by decide +kernel)) (by let _ := @exceptEq; decide)⟩,
    ⟨_, (h.1 (fPh 0) ⟨0, 2, 0⟩ (mPhaser false)).2.2.2.2.1 _ _ _ _ (issues (by decide +kernel)) (by let _ := @exceptEq; decide)⟩,
    ⟨_, (h.1 (fLat 0) ⟨0, 2, 0⟩ (mPhaser false)).2.2.2.2.2.1 _ _ _ _ (issues (by decide +kernel)) (by let _ := @exceptEq; decide)⟩,
    ⟨_, (h.1 fTry ⟨0, 2, 0⟩ (mPhaser false)).2.2.2.2.2.2 _ _ _ _ (issues (by decide +kernel)) (by let _ := @exceptEq; decide)⟩,
    ⟨_, (h.2.1 _ _ 0 _ ⟨0, 2, 0⟩ 1 0 0 none 8).1 rfl⟩, ⟨_, (h.2.1 _ _ 0 _ ⟨0, 2, 0⟩ 1 0 0 none 8).2.1 rfl⟩,
    ⟨_, (h.2.1 _ _ 0 _ ⟨0, 2, 0⟩ 0xFFFFFFFF 9 2 none 8).2.2 rfl⟩,
    ⟨_, h.2.2 _ _ _ _ _ _ _ _ _ _ _ _ _ rfl rfl rfl⟩, ⟨_, h.2.2 _ _ _ _ _ _ _ _ _ _ _ _ _ rfl rfl rfl⟩⟩

/-- The small state with a wave of some blocks. -/
def sBlocks (n : Nat) (t : Thread) : State := { world t with waves := [{ wav t with blocks := n }] }

/-- A second thread of the wave stands at an access that waits for its translation. -/
def sMissing : State :=
  { world (thr .user [(1, 7)]) with
    waves := [{ wav (thr .user [(1, 7)]) with blocks := 8, threads := [thr .user [(1, 7)], { thr .user [] with missAt := some 0x1000 }] }] }

theorem witness_RegisterBlocks (h : Rules.RegisterBlocks) :
    (∃ u, exec (.rgrow (fPh 0)) (sBlocks 31 (thr .user [])) = .next u) ∧ (∃ u, exec (.rgrow (fPh 0)) (sBlocks 8 (thr .user [(1, 23)])) = .next u)
    ∧ (∃ u, exec (.rgrow (fPh 0)) (sBlocks 8 (thr .user [(1, 24)])) = .next u)
    ∧ (∃ u, exec (.rshrink (fPh 0)) (sBlocks 8 (thr .user [(1, 8)])) = .next u)
    ∧ (∃ u, exec (.rshrink (fPh 0)) (sBlocks 8 (thr .user [(1, 7)])) = .next u)
    ∧ (∃ u, exec (.rshrink (fPh 0)) sMissing = .next u)
    ∧ ∃ u, exec (.rgrowGrant 0 0) (sBlocks 8 (parked (.rgrow 2 0 0 (some 4)))) = .next u :=
  ⟨⟨_, (h.1 (fPh 0)).1 _ _ _ _ (issues (by decide +kernel)) (by decide +kernel)⟩,
    ⟨_, (h.1 (fPh 0)).2.1 _ _ _ _ (issues (by decide +kernel)) (by decide +kernel)⟩,
    ⟨_, (h.1 (fPh 0)).2.2.1 _ _ _ _ (.illegal, 7) (issues (by decide +kernel)) (by decide +kernel)⟩,
    ⟨_, (h.1 (fPh 0)).2.2.2.1 _ _ _ _ (.illegal, 7) (issues (by decide +kernel)) (by decide +kernel)⟩,
    let ⟨x, _, _, e, _⟩ := (h.1 (fPh 0)).2.2.2.2.2 _ _ _ _ (issues (by decide +kernel)) (by decide +kernel) (by decide +kernel)
      (by decide +kernel)
    ⟨x, e⟩,
    ⟨_, (h.1 (fPh 0)).2.2.2.2.1 _ _ _ _ (issues (by decide +kernel)) (by decide +kernel)⟩,
    ⟨_, h.2 (sBlocks 8 (parked (.rgrow 2 0 0 (some 4)))) 0 0 (theWave (sBlocks 8 (parked (.rgrow 2 0 0 (some 4))))) 2 0 0 rfl rfl⟩⟩

/-! ### Copies and the ring -/

/-- A small copy from 0x40 to 0x80 of the small workgroup, and that workgroup with it, published. -/
def aCopy : Copy :=
  { index := 0, wave := some 3, lane := 0, seq := 0, level := .user, kind := .copy, route := .min, src := .vault 2 0x40, dst := .vault 2 0x80,
    len := 64, latch := none, aux := 0, notBefore := false, stride := 0, rows := 0, list := none, tensor := none, state := .waiting,
    moved := [], token := none, lines := [] }
def grpCopy (c : Copy) : Workgroup := { grp with vault := swrite [] 3520 [1], pub := 1, copies := [c] }
def sCopy (c : Copy) (t : Thread) : State := { world t with wgs := [grpCopy c] }

/-- Operands of a copy: A in 1 (or 6, 64 bits), B in 2 (or 8), C in 3, E none, F in 5. -/
def fCopy (x : BitVec 14) (m : BitVec 10) : Fields :=
  { bare .f128 with d := .n 10, a := .n 1, b := .n 2, c := .n 3, e := .n 4, x := x, m := m }
def tCopy : Thread := thr .user [(1, 0x40), (2, 0x80), (3, 64), (4, 0xFFFFFFFF), (7, 0), (6, 0x100), (8, 0x10000)]

/-- The small workgroup, which has met the page of a destination. -/
def grpSeen : Workgroup := { grp with seenPages := [(0x10000, 0x10000)] }

theorem witness_CopyIssue (h : Obligations.CopyIssue) :
    (∃ u, exec (.xcopy (fCopy 0xC 0)) (world tCopy) = .next u)
    ∧ (∃ u, exec (.xdrain { fCopy 4 0 with b := .n 8 }) { world tCopy with wgs := [grpSeen] } = .next u)
    ∧ (∃ u, exec (.xgath { fCopy 0 0 with a := .n 8, f := .n 1 }) (world (tCopy.setReg 3 0x20002)) = .next u)
    ∧ ∃ u, exec (.xfill (fCopy 0 4)) (world tCopy) = .next u :=
  ⟨((h (fCopy 0xC 0)).1 _ _ _ _ grp _ _ (issues (by decide +kernel)) (by decide +kernel) (by decide +kernel) (by decide +kernel)
      (by decide +kernel) rfl).elim fun _ e => ⟨_, e.2.2⟩,
    ((h { fCopy 4 0 with b := .n 8 }).2.1 _ _ _ _ grpSeen _ _ (issues (by decide +kernel)) (by decide +kernel) (by decide +kernel) (by decide +kernel)
      (by decide +kernel) rfl).elim fun _ e => ⟨_, e.2.2⟩,
    ((h { fCopy 0 0 with a := .n 8, f := .n 1 }).2.2.1 _ _ _ _ grp _ _ (issues (by decide +kernel)) (by decide +kernel) (by decide +kernel) (by decide +kernel)
      (by decide +kernel) rfl).elim fun _ e => ⟨_, e.2.2⟩,
    ((h (fCopy 0 4)).2.2.2 _ _ _ _ grp _ _ (issues (by decide +kernel)) (by decide +kernel) (by decide +kernel) (by decide +kernel)
      (by decide +kernel) rfl).elim fun _ e => ⟨_, e.2.2⟩⟩

def taken (s : State) : Prop := ∃ u, exec (.copyTakeup 2) s = .next u
def bigCopy (k : CopyKind) : Copy := { aCopy with len := 2 ^ 20 + 1, kind := k }
def sTokens (bulk drain : Nat) (c : Copy) : State := { world (thr .user []) with wgs := [{ grpCopy c with bulk := bulk, drain := drain }] }
def active (c : Copy) : State := sCopy { c with state := .active } (thr .user [])
def arrives (s : State) : Prop := ∃ u, exec (.copyArrival 2 0 0 64) s = .next u

theorem witness_CopyEngine (h : Rules.CopyEngine) :
    taken (sCopy { aCopy with notBefore := true, aux := 1 } (thr .user [])) ∧ taken (sCopy aCopy (thr .user []))
    ∧ taken (sTokens 0 1 (bigCopy .drain)) ∧ taken (sTokens 1 1 (bigCopy .copy)) ∧ taken (sTokens 0 1 (bigCopy .copy))
    ∧ arrives (active { aCopy with kind := .fill, aux := 0x04030201 }) ∧ arrives (active aCopy) ∧ arrives (active { aCopy with len := 63 })
    ∧ (∃ u, exec (.copyComplete 2 0) (active { aCopy with kind := .fill, src := .global 0, moved := [(0, 64)] }) = .next u)
    ∧ (∃ u, exec (.copyComplete 2 0) (active { aCopy with moved := [(0, 63)] }) = .next u)
    ∧ ∃ u, exec (.copyFail 2 0 8) (active { aCopy with src := .global 0x0040000000000000 }) = .next u :=
  ⟨⟨_, (h.1 _ 2 (grpCopy { aCopy with notBefore := true, aux := 1 }) _ rfl (by decide) (by decide +kernel) (by decide +kernel) rfl).1 (by decide +kernel)⟩,
    ⟨_, (h.1 _ 2 (grpCopy aCopy) _ rfl (by decide) (by decide +kernel) (by decide +kernel) rfl).2.1 (.inl rfl) (by decide)⟩,
    ⟨_, (h.1 _ 2 _ _ rfl (by decide) (by decide +kernel) (by decide +kernel) rfl).2.2.1 (.inl rfl) (by decide) rfl (by decide)⟩,
    ⟨_, (h.1 _ 2 _ _ rfl (by decide) (by decide +kernel) (by decide +kernel) rfl).2.2.2.1 (.inl rfl) (by decide) (.inl (by decide)) (by decide)⟩,
    ⟨_, (h.1 _ 2 _ _ rfl (by decide) (by decide +kernel) (by decide +kernel) rfl).2.2.2.2 (.inl rfl) (by decide) (.inl (by decide)) (by decide)⟩,
    ⟨_, (h.2 _ 2 0 0 64 (grpCopy _) _ rfl rfl rfl).1 2 0x80 _ _ ⟨by decide, by decide, by decide⟩ rfl rfl (by decide +kernel) (.inl ⟨rfl, rfl⟩)⟩,
    ⟨_, (h.2 _ 2 0 0 64 (grpCopy _) _ rfl rfl rfl).1 2 0x80 _ _ ⟨by decide, by decide, by decide⟩ rfl rfl (by decide +kernel)
      (.inr ⟨.inl rfl, 2, 0x40, _, rfl, rfl, by decide, by decide +kernel, by decide +kernel, rfl⟩)⟩,
    ⟨_, (h.2 _ 2 0 0 64 (grpCopy _) _ rfl rfl rfl).2.1 (by decide)⟩,
    ⟨_, (h.2 _ 2 0 0 64 (grpCopy _) _ rfl rfl rfl).2.2.1 rfl rfl⟩,
    ⟨_, (h.2 _ 2 0 0 64 (grpCopy _) _ rfl rfl rfl).2.2.2.1 (.inl (by decide))⟩,
    ⟨_, (h.2 _ 2 0 8 64 (grpCopy _) _ rfl rfl rfl).2.2.2.2 _ 2 0x80 .translation _ rfl rfl rfl (by decide +kernel) rfl⟩⟩

def fXs : Fields := { bare .f64 with la := 1, d := .n 4, a := .n 1 }
def fXw : Fields := { bare .f64 with d := .n 4, a := .n 6, m := 1 }

theorem witness_CopyStatus (h : Rules.CopyStatus) :
    (∃ u, exec (.xstat fXs) (world (thr .user [(1, 0xFFFF)])) = .next u)
    ∧ (∃ u, exec (.xwait fXw) (sCopy { aCopy with state := .complete } (thr .user [])) = .next u)
    ∧ (∃ u, exec (.xwait fXw) (sCopy { aCopy with state := .failed 5 } (thr .user [])) = .next u)
    ∧ (∃ u, exec (.xwait fXw) (sCopy aCopy (thr .user [])) = .next u)
    ∧ (∃ u, exec (.xwaitTimeout 0 0 1 0) (world (parked (.xwait 0 1 true none))) = .next u)
    ∧ (∃ u, exec (.xwaitTimeout 0 0 1 0) (world (parked (.xwait 0 0 true none))) = .next u)
    ∧ ∃ u, exec (.xwaitTimeout 0 0 1 0) (world (parked (.xwait 0 0 false none))) = .next u :=
  ⟨⟨_, (h.1 fXs grp).1 _ _ _ _ (issues (by decide +kernel)) (by decide +kernel)⟩,
    ⟨_, (h.1 fXw (grpCopy { aCopy with state := .complete })).2.1 1 _ _ _ _ (issues (by decide +kernel))
      (by
      refine ⟨by decide +kernel, by decide +kernel, ?_⟩
      generalize hn : Workgroup.numberState _ _ = n
      obtain rfl : n = .status .complete := hn.symm.trans (by decide +kernel)
      rfl)⟩,
    ⟨_, (h.1 fXw (grpCopy { aCopy with state := .failed 5 })).2.1 2 _ _ _ _ (issues (by decide +kernel))
      (by
      refine ⟨by decide +kernel, by decide +kernel, ?_⟩
      generalize hn : Workgroup.numberState _ _ = n
      obtain rfl : n = .status (.failed 5) := hn.symm.trans (by decide +kernel)
      rfl)⟩,
    ⟨_, (h.1 fXw (grpCopy aCopy)).2.2 _ _ _ _ (issues (by decide +kernel)) (by decide +kernel)⟩,
    by
      and_intros <;> exact ⟨_, h.2 _ _ _ _ _ _ _ _ _ _ _ _ rfl rfl rfl⟩⟩

/-- The small workgroup, back on its core, with the promise of copy number 0x100 at time 0. -/
def grpMet : Workgroup := { grp with met := [(0x100, 0)] }

theorem witness_CopyStatus_restored (h : Rules.CopyStatus) :
    ∃ u, exec (.xwait fXw) { world (thr .user [(6, 0x100)]) with wgs := [grpMet] } = .next u :=
  ⟨_, (h.1 fXw grpMet).2.1 1 _ _ _ _ (issues (by decide +kernel)) (by
    refine ⟨by decide +kernel, by decide +kernel, ?_⟩
    generalize hn : Workgroup.numberState _ _ = n
    obtain rfl : n = .unpublished := hn.symm.trans (by decide +kernel)
    exact ⟨rfl, by decide +kernel⟩)⟩

/-- Ring instructions of tag 5, in register 1. -/
def fRing (m : BitVec 10) : Fields := { bare .f64 with a := .n 1, m := m }
def tRing : Thread := thr .user [(1, 5)]
/-- 32 operations in the core's capture table. -/
def aRing : RingOp :=
  { id := 40, part := 0, core := 0, wave := 3, lane := 0, seq := 0, tag := 5, word := 0, kind := .alight false, ord := false, d := none,
    issuedAt := 0, eligible := some 0, probing := false }
def sFull : State := { world tRing with ringOps := List.replicate 32 aRing }
def posted : RingOp := { aRing with kind := .rmw 0 false false false 1 0 [] 0xFFFF }
def sPosted : State := { world tRing with ringOps := [posted] }
def sPassed : State :=
  { world (thr .user []) with
    parts := [(0, { Partition.reset with tvec := 0x4001, ring := { Ring.reset with passed := [0] } })], ringOps := [posted] }

theorem witness_RingIssue (h : Rules.RingIssue) :
    ((∃ u, exec (.rdcap { fRing 0 with d := .n 16 }) (world tRing) = .next u)
      ∧ (∃ u, exec (.rdcap { fRing 0 with d := .n 16 }) (world (thr .user [])) = .next u)
      ∧ ∃ u, exec (.rdcap { fRing 0 with d := .n 16 }) sFull = .next u)
    ∧ (∃ u, exec (.rdboard { fRing 0 with b := .n 16 }) (world tRing) = .next u)
    ∧ (∃ u, exec (.rdalight { fRing 0 with d := .n 16 }) (world tRing) = .next u)
    ∧ (∃ u, exec (.rdrmw { fRing 128 with d := .n 16, b := .n 8 }) (world tRing) = .next u)
    ∧ (∃ u, exec (.rdrmw { fRing 0 with b := .n 8 }) (world tRing) = .next u)
    ∧ (∃ u, exec (.rdfence { bare .f64 with d := .n 4 }) (world tRing) = .next u)
    ∧ (∃ u, exec (.rdfence { bare .f64 with d := .n 4 }) sPosted = .next u)
    ∧ ∃ u, exec (.rdcancel { bare .f64 with d := .n 4 }) sPassed = .next u :=
  ⟨⟨⟨_, (h { fRing 0 with d := .n 16 }).1.1 _ _ _ _ (issues (by decide +kernel)) (by decide +kernel)⟩,
      ⟨_, (h { fRing 0 with d := .n 16 }).1.2.1 _ _ _ _ (.illegal, 7) (issues (by decide +kernel)) (by decide +kernel)⟩,
      ⟨_, (h { fRing 0 with d := .n 16 }).1.2.2 _ _ _ _ (issues (by decide +kernel)) (by decide +kernel)⟩⟩,
    ⟨_, (h { fRing 0 with b := .n 16 }).2.1.1 _ _ _ _ (issues (by decide +kernel)) (by decide +kernel)⟩,
    ⟨_, (h { fRing 0 with d := .n 16 }).2.2.1.1 _ _ _ _ (issues (by decide +kernel)) (by decide +kernel)⟩,
    ⟨_, (h { fRing 128 with d := .n 16, b := .n 8 }).2.2.2.1.1 _ _ _ _ (issues (by decide +kernel)) (by decide +kernel)⟩,
    ⟨_, (h { fRing 0 with b := .n 8 }).2.2.2.1.1 _ _ _ _ (issues (by decide +kernel)) (by decide +kernel)⟩,
    ⟨_, (h { bare .f64 with d := .n 4 }).2.2.2.2.1 _ _ _ _ (issues (by decide +kernel)) (by decide +kernel)⟩,
    ⟨_, (h { bare .f64 with d := .n 4 }).2.2.2.2.2.1 _ _ _ _ (issues (by decide +kernel)) (by decide +kernel)⟩,
    ⟨_, (h { bare .f64 with d := .n 4 }).2.2.2.2.2.2 _ _ _ _ (issues (by decide +kernel)) (by decide +kernel)⟩⟩

/-- An operation that parks its thread, and a slot at its station. -/
def sRing (k : RingKind) (slot : Slot) : State :=
  { world (parked (.ring 40)) with
    parts := [(0, { Partition.reset with ring := { Ring.reset with slots := [(0, slot)] } })], ringOps := [{ aRing with kind := k }] }
def slot5 : Slot := { tag := 5, payload := List.replicate 16 1, ghost := none }
def passes (s : State) : Prop := ∃ u, exec (.ringSlotPass 0 0) s = .next u

theorem witness_RingMoves (h : Rules.RingMoves) :
    (∃ u, exec (.ringOpEligible 40) (sRing (.cap false false) slot5) = .next u)
    ∧ passes (sRing (.cap false false) slot5) ∧ passes (sRing (.cap true false) slot5) ∧ passes (sRing (.alight false) slot5)
    ∧ passes (sRing (.board (List.replicate 16 2) false) Slot.empty) ∧ passes (sRing (.rmw 0 false true false 1 0 [] 0xFFFF) slot5)
    ∧ passes (sRing (.alight false) Slot.empty)
    ∧ (∃ u, exec (.ringOpMissing 40) { sRing (.alight false) slot5 with clk := 4160 } = .next u)
    ∧ (∃ u, exec (.ringOpMissing 40) { sRing (.alight false) slot5 with clk := 4159 } = .next u)
    ∧ ∃ u, exec (.ringFull 40) { sRing (.board [] false) slot5 with clk := 16640 } = .next u :=
  ⟨⟨_, h.1 _ _⟩,
    ⟨_, (h.2.1 _ 0 0 _ _ _ _ _ _ _ (by decide +kernel) (by decide +kernel) (by decide +kernel) rfl rfl rfl rfl rfl rfl rfl).1 _ rfl (by decide +kernel)⟩,
    ⟨_, (h.2.1 _ 0 0 _ _ _ _ _ _ _ (by decide +kernel) (by decide +kernel) (by decide +kernel) rfl rfl rfl rfl rfl rfl rfl).2.1 _ rfl (by decide +kernel)⟩,
    ⟨_, (h.2.1 _ 0 0 _ _ _ _ _ _ _ (by decide +kernel) (by decide +kernel) (by decide +kernel) rfl rfl rfl rfl rfl rfl rfl).2.2.1 _ rfl
      (by decide +kernel)⟩,
    ⟨_, (h.2.1 _ 0 0 _ _ _ _ _ _ _ (by decide +kernel) (by decide +kernel) (by decide +kernel) rfl rfl rfl rfl rfl rfl rfl).2.2.2.1 _ _ rfl rfl rfl
      (by decide +kernel)⟩,
    ⟨_, (h.2.1 _ 0 0 _ _ _ _ _ _ _ (by decide +kernel) (by decide +kernel) (by decide +kernel) rfl rfl rfl rfl rfl rfl rfl).2.2.2.2.1 _ _ _ _ _ _ rfl
      (by decide +kernel)⟩,
    ⟨_, (h.2.1 _ 0 0 _ _ _ _ _ _ _ (by decide +kernel) (by decide +kernel) (by decide +kernel) rfl rfl rfl rfl rfl rfl rfl).2.2.2.2.2 _ rfl
      (by decide +kernel) (by decide +kernel)⟩,
    ⟨_, (h.2.2 _ { aRing with kind := .alight false } _ _ _ _ rfl rfl rfl rfl rfl).1 _ rfl⟩,
    ⟨_, (h.2.2 _ { aRing with kind := .alight false } _ _ _ _ rfl rfl rfl rfl rfl).1 _ rfl⟩,
    ⟨_, (h.2.2 _ { aRing with kind := .board [] false } _ _ _ _ rfl rfl rfl rfl rfl).2 _ _ rfl rfl⟩⟩

/-! ### Operand slots, tickets, tiles -/

/-- Whether a check passes, and the value that it gives. -/
def passesCheck {α β : Type} (x : Except α β) : Bool := match x with | .ok _ => true | .error _ => false
theorem okSome {α β : Type} {x : Except α β} (h : passesCheck x = true) : ∃ y, x = .ok y := by
  cases x with
  | ok y => exact ⟨y, rfl⟩
  | error _ => cases h
theorem okOf {α β : Type} [DecidableEq β] {x : Except α β} {y : β} (h : (match x with | .ok z => decide (z = y) | .error _ => false) = true) :
    x = .ok y := by
  cases x with
  | ok z => exact congrArg _ (of_decide_eq_true h)
  | error _ => cases h

/-- Bytes of a tree descriptor: 64 elements, depth 1, format slot 0, records of 320 bytes. -/
def treeBytes : List Byte := [0, 0, 0, 0, 0, 0, 0, 0, 64, 0, 0, 0, 1, 0, 0, 0, 0x40, 1]
def aTree : TreeDesc := { base := 0, h := 64, depth := 1, fs := 0x333, stride := 320 }
def freeSlot : OpSlot := { held := false, marked := false, markTicket := 0, bytes := [], poison := [] }
/-- A workgroup whose slots 0 and 1 are held, with a tree descriptor at 0x100 and a FULL buffer of 8,192 bytes at 0x1000. -/
def grpT : Workgroup :=
  { grp with
    vaultSize := 65536, vault := swrite [] 0x100 treeBytes
    buffers := [(0, { base := 0x1000, len := 8192, latch := false, state := .full, fill := 0, drains := 0 })]
    slots := [(0, { freeSlot with held := true }), (1, { freeSlot with held := true })] }
def tokens (n : Nat) : List (Nat × Core) := [(0, { Core.reset with stocks := [(1, { since := List.replicate n 0 })] })]
/-- The small state with that workgroup, a token of the wave's pane, and format slot 0 with one matrix format for A, B and O. -/
def sTile (g : Workgroup) (t : Thread) : State := { sFs 0x333 t with wgs := [g], cores := tokens 1 }
def sPoor (g : Workgroup) (t : Thread) : State := { sTile g t with cores := [] }
def anOp (k : TicketKind) : TicketOp := { ticket := 1, wave := 3, core := 0, pane := some 1, level := .user, tileSeq := 0, kind := k, before := [], others := [] }
/-- 64 operations issued and not completed. -/
def grpFull : Workgroup := { grpT with ops := List.replicate 64 (anOp (.aclr 1)) }

/-- A layout of 128 chunks of 64 bytes from 0x1000. -/
def lay : List Word := [0x1000, 64, 0, 0, 0, 0x00010080, 0x00010001, 3]
def grpLay : Workgroup := { grpT with layouts := [(2, lay)] }
def aLoad : Oload :=
  { id := 70, wave := 3, slot := 2, chunk := 64, code := 3, from_ := [(2, 0x1000), (2, 0x1040)], before := [(2, grpT.vault)] }
def tClaim (m : DWord) : Thread := parked (.oclaim m 80)
def fSlots : Fields := { bare .f64 with a := .n 6 }
def fDo : Fields := { bare .f64 with d := .n 4 }

theorem witness_OperandSlots (h : Rules.OperandSlots) :
    (∃ u, exec (.oclaim fSlots) (sTile grpT (thr .user [(6, 0xC)])) = .next u)
    ∧ (∃ u, exec (.oclaim fSlots) (sTile grpT (thr .user [])) = .next u)
    ∧ (∃ u, exec (.orelease fSlots) (sTile grpT (thr .user [(6, 2)])) = .next u)
    ∧ (∃ u, exec (.layset { bare .f64 with a := .n 1, b := .n 16 }) (sTile grpT (thr .user [(1, 7), (23, 3)])) = .next u)
    ∧ (∃ u, exec (.oload (fBuf 0)) (sTile grpLay (thr .user [(3, 2)])) = .next u)
    ∧ (∃ u, exec (.ofence fDo) (sTile { grpT with conflicts := 9 } (thr .user [])) = .next u)
    ∧ (∃ u, exec (.ofence fDo) (sTile { grpT with oloads := [aLoad] } (thr .user [])) = .next u)
    ∧ (∃ u, State.grantClaims 2 1 (sTile grpT (tClaim 0xC)) = u)
    ∧ ∃ u, exec (.oloadComplete 2 70) (sTile { grpT with oloads := [aLoad] } (thr .user [])) = .next u :=
  ⟨⟨_, (h.1 fSlots grpT).1 _ _ _ _ (issues (by decide +kernel)) ⟨by decide +kernel, by decide +kernel, setBits (x := (0xC : DWord)) (by decide)⟩⟩,
    ⟨_, (h.1 fSlots grpT).2.1 _ _ _ _ (.illegal, 7) (issues (by decide +kernel)) (by decide +kernel)⟩,
    ⟨_, (h.1 fSlots grpT).2.2.1 1 _ _ _ _ (issues (by decide +kernel)) (by decide +kernel)⟩,
    ⟨_, (h.1 { bare .f64 with a := .n 1, b := .n 16 } grpT).2.2.2.1 _ _ _ _ (issues (by decide +kernel)) (by decide +kernel)⟩,
    ⟨_, (h.1 (fBuf 0) grpLay).2.2.2.2.1 lay ((List.range 128).map fun i => (2, 0x1000 + 64 * i)) _ _ _ _ (issues (by decide +kernel)) (by
      and_intros <;> first | exact okOf (by decide +kernel) | decide +kernel)⟩,
    ⟨_, (h.1 fDo { grpT with conflicts := 9 }).2.2.2.2.2.1 _ _ _ _ (issues (by decide +kernel)) (by decide +kernel)⟩,
    ⟨_, (h.1 fDo { grpT with oloads := [aLoad] }).2.2.2.2.2.2 aLoad _ _ _ _ (issues (by decide +kernel)) (by decide +kernel)⟩,
    ⟨_, (h.2.1 (sTile grpT (tClaim 0xC)) 2 grpT 80 0xC (by decide +kernel) (by decide +kernel) (by decide +kernel)).1⟩,
    ⟨_, h.2.2 (sTile { grpT with oloads := [aLoad] } (thr .user [])) 2 70 { grpT with oloads := [aLoad] } aLoad (by decide +kernel) (by decide +kernel)
      (by decide +kernel) (by
        intro c hc
        obtain rfl | rfl : c = (2, 0x1000) ∨ c = (2, 0x1040) := by simpa [aLoad] using hc
        · exact ⟨{ grpT with oloads := [aLoad] }, by decide +kernel, by decide +kernel, by decide +kernel⟩
        · exact ⟨{ grpT with oloads := [aLoad] }, by decide +kernel, by decide +kernel, by decide +kernel⟩)⟩⟩

/-- Operands of a ticketed operation: D in 10, A in 1, B in 2, C in 3. -/
def fTk (m : BitVec 10) : Fields := { bare .f64 with d := .n 10, a := .n 1, b := .n 2, c := .n 3, m := m }
def fTr : Fields := { fTk 0 with b := .none }
def fAc : Fields := { bare .f64 with d := .n 10, a := .n 1 }
def fDesc : Fields := { bare .f128 with d := .n 10, a := .n 1, b := .n 2, c := .n 3, e := .n 4 }
def tMma : Thread := thr .user [(2, 1)]

theorem witness_TicketIssue (h : Rules.TicketIssue) :
    (∃ u, exec (.mma (fTk 0)) (sTile grpT tMma) = .next u) ∧ (∃ u, exec (.mma (fTk 0)) (sPoor grpT tMma) = .next u)
    ∧ (∃ u, exec (.mtrans fTr) (sTile grpT tMma) = .next u) ∧ (∃ u, exec (.mtrans fTr) (sTile grpFull tMma) = .next u)
    ∧ (∃ u, exec (.mperm (fTk 0)) (sTile grpT tMma) = .next u) ∧ (∃ u, exec (.mrsum fTr) (sTile grpT tMma) = .next u)
    ∧ (∃ u, exec (.aclr fAc) (sTile grpT (thr .user [(1, 0xF)])) = .next u)
    ∧ (∃ u, exec (.aclr fAc) (sTile grpFull (thr .user [(1, 0xF)])) = .next u)
    ∧ (∃ u, exec (.adrain { fTk 0 with c := .none }) (sTile grpT (thr .user [(1, 3), (2, 0x4000)])) = .next u)
    ∧ (∃ u, exec (.pgroup (fTk 0)) (sTile grpT (thr .user [(2, 0x800), (3, 1)])) = .next u)
    ∧ (∃ u, exec (.dgrad (fTk 0)) (sTile grpT (thr .user [(1, 0x100)])) = .next u)
    ∧ ∃ u, exec (.desc fDesc) (sTile grpT (thr .user [(1, 0x100), (2, 0x800), (3, 128)])) = .next u :=
  ⟨⟨_, ((h (fTk 0) grpT).1 rfl).1 _ _ _ _ (issues (by decide +kernel)) (by
      and_intros <;> decide +kernel)⟩,
    ⟨_, ((h (fTk 0) grpT).1 rfl).2 _ _ _ _ (issues (by decide +kernel)) (by decide +kernel) (by decide +kernel) (by
      and_intros <;> decide +kernel)⟩,
    ⟨_, (h fTr grpT).2.1.1 _ _ _ _ (issues (by decide +kernel)) (by decide +kernel)⟩,
    ⟨_, (h fTr grpFull).2.1.2 _ _ _ _ (issues (by decide +kernel)) (by decide +kernel) (by decide +kernel) (by decide +kernel)⟩,
    ⟨_, (h (fTk 0) grpT).2.2.1.1 _ _ _ _ (issues (by decide +kernel)) (by decide +kernel)⟩,
    ⟨_, (h fTr grpT).2.2.2.1.1 _ _ _ _ (issues (by decide +kernel)) (by decide +kernel)⟩,
    ⟨_, (h fAc grpT).2.2.2.2.1.1 _ _ _ _ (issues (by decide +kernel)) (by decide +kernel)⟩,
    ⟨_, (h fAc grpFull).2.2.2.2.1.2 _ _ _ _ (issues (by decide +kernel)) (by decide +kernel) (by decide +kernel) (by decide +kernel)⟩,
    ⟨_, (h { fTk 0 with c := .none } grpT).2.2.2.2.2.1.1 _ _ _ _ (issues (by decide +kernel)) (by
      and_intros <;> try decide +kernel
      · exact fun hm => absurd hm (by decide +kernel)
      · exact fun hm => absurd hm (by decide +kernel)
      · intro i hi
        apply okSome
        revert i
        decide +kernel)⟩,
    ⟨_, (h (fTk 0) grpT).2.2.2.2.2.2.1.1 _ _ _ _ (issues (by decide +kernel)) (by
      and_intros <;> first | decide +kernel | exact okSome (by decide +kernel))⟩,
    ⟨_, ((h (fTk 0) grpT).2.2.2.2.2.2.2.1 aTree).1 _ _ _ _ (issues (by decide +kernel))
      ⟨by decide +kernel, by decide +kernel, by decide +kernel, by decide +kernel, okOf (by decide +kernel)⟩⟩,
    ⟨_, ((h fDesc grpT).2.2.2.2.2.2.2.2 aTree).1 _ _ _ _ (issues (by decide +kernel)) (by
      and_intros <;> first | decide +kernel | exact okOf (by decide +kernel) | skip
      · intro i hi
        apply okSome
        revert i
        decide +kernel
      · exact fun hn => absurd rfl hn)⟩⟩

def aSign (n : Nat) (x : Option SignFields) : Convergence := { n := n, count := 0, fields := x }
def grpSign (v : Convergence) : Workgroup := { grpT with cvs := [(0, v)] }
def mmaFields : SignFields := { a := 0, b := 1, c := 0, m := 0, e := none }

theorem witness_Signatures (h : Rules.Signatures) :
    (∃ u, exec (.msign { bare .f64 with a := .n 1, m := 15 }) (sTile grpT (thr .user [(1, 1024)])) = .next u)
    ∧ (∃ u, exec (.mma (fTk 16)) (sTile (grpSign (aSign 2 none)) tMma) = .next u)
    ∧ (∃ u, exec (.mma (fTk 16)) (sTile (grpSign (aSign 2 (some { mmaFields with c := 1 }))) tMma) = .next u)
    ∧ ∃ u, exec (.mma (fTk 16)) (sTile (grpSign (aSign 1 (some mmaFields))) tMma) = .next u :=
  ⟨⟨_, (h { bare .f64 with a := .n 1, m := 15 } grpT).1 _ _ _ _ (issues (by decide +kernel)) (by decide +kernel)⟩,
    ⟨_, ((h (fTk 16) (grpSign (aSign 2 none))).2 (by decide) (aSign 2 none)).1 _ _ _ _ (issues (by decide +kernel)) (by decide +kernel)⟩,
    ⟨_, ((h (fTk 16) (grpSign (aSign 2 (some { mmaFields with c := 1 })))).2 (by decide) (aSign 2 (some { mmaFields with c := 1 }))).2.1 _ _ _ _
      (.msignMismatch, 0) (issues (by decide +kernel)) (by decide +kernel)⟩,
    ⟨_, ((h (fTk 16) (grpSign (aSign 1 (some mmaFields)))).2 (by decide) (aSign 1 (some mmaFields))).2.2 _ _ _ _ (issues (by decide +kernel))
      (by decide +kernel)⟩⟩

theorem witness_TicketWaits (h : Rules.TicketWaits) :
    (∃ u, exec (.mwait fAc) (sTile grpT (thr .user [])) = .next u)
    ∧ (∃ u, exec (.mwait fAc) (sTile { grpT with issued := 1 } (thr .user [(1, 1)])) = .next u)
    ∧ ∃ u, exec (.mwait fAc) (sTile grpT (thr .user [(1, 1)])) = .next u :=
  ⟨⟨_, (h fAc grpT).1 _ _ _ _ (issues (by decide +kernel)) (by decide +kernel)⟩,
    ⟨_, (h fAc { grpT with issued := 1 }).2.1 _ _ _ _ (issues (by decide +kernel)) (by decide +kernel)⟩,
    ⟨_, (h fAc grpT).2.2 _ _ _ _ (.illegal, 7) (issues (by decide +kernel)) (by decide +kernel)⟩⟩

def sOp (k : TicketKind) : State := sTile { grpT with ops := [anOp k] } (thr .user [])
def completes (k : TicketKind) : Prop := ∃ u, exec (.ticketComplete 2) (sOp k) = .next u

theorem witness_TileOperations (h : Obligations.TileOperations) :
    completes (.mma 0 1 0 0x333 false none) ∧ completes (.mtrans 0 0 0x333 none) ∧ completes (.mperm 0 0 0x333 0x0101 none)
    ∧ completes (.mrsum 0 0 0x333 true none) ∧ completes (.aclr 0xF) :=
  ⟨(((h (sOp (.mma 0 1 0 0x333 false none)) 2 _ _ _ rfl rfl).1 rfl).1 0 1 0 0x333 false rfl (by decide +kernel) (by decide +kernel) (by decide +kernel)
      (by decide +kernel)).elim fun t e => ⟨t, e.elim fun _ e => e.1⟩,
    (((h (sOp (.mtrans 0 0 0x333 none)) 2 _ _ _ rfl rfl).1 rfl).2.1 0 0 0x333 rfl (by decide +kernel) (by decide +kernel) (by decide +kernel)).elim fun t e =>
      ⟨t, e.elim fun _ e => e.1⟩,
    (((h (sOp (.mperm 0 0 0x333 0x0101 none)) 2 _ _ _ rfl rfl).1 rfl).2.2.1 0 0 0x333 0x0101 rfl (by decide +kernel) (by decide +kernel)
      (by decide +kernel)).elim fun t e => ⟨t, e.elim fun _ e => e.1⟩,
    (((h (sOp (.mrsum 0 0 0x333 true none)) 2 _ _ _ rfl rfl).1 rfl).2.2.2.1 0 0 0x333 true rfl (by decide +kernel) (by decide +kernel)
      (by decide +kernel)).elim fun t e => ⟨t, e.elim fun _ e => e.1⟩,
    (((h (sOp (.aclr 0xF)) 2 _ _ _ rfl rfl).1 rfl).2.2.2.2 0xF rfl).elim fun t e => ⟨t, e.elim fun _ e => e.1⟩⟩

/-- A drain that has run, with nothing on its way, and one whose store flies. -/
def sRan (net : List Access1) : State :=
  { sTile { grpT with ops := [{ anOp (.aclr 1) with ran := some [(60, none)] }] } (thr .user []) with net := net }

theorem witness_TileOperations_ran (h : Obligations.TileOperations) :
    (∃ u, exec (.ticketComplete 2) (sRan []) = .next u) ∧ exec (.ticketComplete 2) (sRan [aStore]) = .next (sRan [aStore]) :=
  ⟨((h (sRan []) 2 _ _ _ rfl rfl).2.1 _ rfl (by decide +kernel)).elim fun t e => ⟨t, e.elim fun _ e => e.1⟩,
    (h (sRan [aStore]) 2 _ _ _ rfl rfl).2.2 _ rfl (by decide +kernel)⟩

theorem witness_OperandsInFlight (h : Rules.OperandsInFlight) :
    (∃ l, mixBytes 6 0 [[1, 2, 3]] [9, 2, 3] = l ∧ l.length = 3) ∧ (∃ l, mixBytes 8 0 [[1], [3]] [2] = l ∧ l.length = 1)
    ∧ ∃ l, mixBytes 16 0 [[1, 2]] [3, 4] = l ∧ l.length = 2 :=
  ⟨⟨_, rfl, (h 6 0 [[1, 2, 3]] [9, 2, 3] (by decide) (.inl ⟨rfl, rfl⟩)).1⟩,
    ⟨_, rfl, (h 8 0 [[1], [3]] [2] (by decide) (.inr (.inl rfl))).1⟩,
    ⟨_, rfl, (h 16 0 [[1, 2]] [3, 4] (by decide) (.inr (.inr ⟨rfl, rfl⟩))).1⟩⟩

def fTw (m : BitVec 10) : Fields := { bare .f64 with la := 1, d := .n 16, a := .n 1, m := m }
def fTwW : Fields := { bare .f64 with a := .n 1, b := .n 16, m := 2 }
def fKn (m : BitVec 10) : Fields := { bare .f64 with d := .n 10, a := .n 1, b := .n 2, m := m }
def sKnock (t : Thread) : State := { world t with wgs := [{ grp with bulk := 7 }], power := { Power.reset with bulkOut := 7 } }
/-- The last tile words of the small workgroup; an open operation writes its tile 3. -/
def tLastTile : Thread := thr .user [(1, 0x3587F)]
def grpOpen : Workgroup := { grp with ops := [anOp (.aclr 8)] }

theorem witness_TileWords (h : Obligations.TileWords) :
    (∃ u, exec (.aread (fTw 2)) (world tLastTile) = .next u) ∧ (∃ u, exec (.aread (fTw 2)) { world tLastTile with wgs := [grpOpen] } = .next u)
    ∧ (∃ u, exec (.awrite fTwW) (world tLastTile) = .next u) ∧ (∃ u, exec (.awrite fTwW) { world tLastTile with wgs := [grpOpen] } = .next u)
    ∧ ∃ u, exec (.ptread (fTw 0)) (world (thr .user [(1, 127)])) = .next u :=
  ⟨⟨_, (h (fTw 2) grp).1 _ _ _ _ (issues (by decide +kernel)) (by decide +kernel)⟩,
    ⟨_, (h (fTw 2) grpOpen).2.1 _ _ _ _ (issues (by decide +kernel)) (by decide +kernel)⟩,
    ⟨_, (h fTwW grp).2.2.1 _ _ _ _ (issues (by decide +kernel)) (by decide +kernel)⟩,
    ⟨_, (h fTwW grpOpen).2.2.2.1 _ _ _ _ (issues (by decide +kernel)) (by decide +kernel)⟩,
    ⟨_, (h (fTw 0) grp).2.2.2.2 _ _ _ _ (issues (by decide +kernel)) (by decide +kernel)⟩⟩

/-- A wave of pane 1 stands at an MMA, and its pane holds no token. -/
def sAsks : State :=
  let s := State.reset.withCode (leBytes 8 (encodeNat 0xA6 (fTk 0)))
  s.setCore 0 { s.core 0 with stocks := [] }

theorem witness_Tokens (h : Obligations.Tokens) :
    (∃ u, exec (.knock (fKn 1)) (sKnock (thr .user [(2, 7)])) = .next u) ∧ (∃ u, exec (.knock (fKn 0)) (sKnock (thr .user [(2, 1)])) = .next u)
    ∧ (∃ u, exec (.knockGrant 0 0 1 0) (sKnock (parked (.knock 0 1 90 (some 4)))) = .next u)
    ∧ (∃ u, exec (.knockGrant 0 0 1 0) { sKnock (parked (.knock 0 1 90 (some 4))) with power := { Power.reset with bulkOut := 7, stopped := true } } = .next u)
    ∧ (∃ u, exec (.knockGrant 0 0 1 0) (sKnock (parked (.knock 0 2 90 (some 4)))) = .next u)
    ∧ (∃ u, exec (.tokenGrant 0 0 1) sAsks = .next u) ∧ (∃ u, exec (.tokenGrant 0 0 0) (sPoor grpT tMma) = .next u)
    ∧ (∃ u, exec (.tokenIdleReturn 0 0 1) { sTile grpT tMma with clk := 1023 } = .next u)
    ∧ ∃ u, exec (.tokenIdleReturn 0 0 1) { sTile grpT tMma with clk := 1024 } = .next u :=
  have k (t : Thread) (b : Nat) (ht : t.run = .parked (.knock 0 b 90 (some 4)) 8) (p : Power) :=
    h.2.1 { sKnock t with power := p } 0 0 1 0 (wav t) { grp with bulk := 7 } t 0 b 90 (some 4) 8
  ⟨⟨_, (h.1 (fKn 1) { grp with bulk := 7 } 0 7 (by decide)).1 _ _ _ _ (issues (by decide +kernel)) (by decide +kernel)⟩,
    ⟨_, (h.1 (fKn 0) { grp with bulk := 7 } 0 1 (by decide)).2 _ _ _ _ (issues (by decide +kernel)) (by decide +kernel)⟩,
    ⟨_, (k (parked (.knock 0 1 90 (some 4))) 1 rfl _ rfl rfl rfl rfl).1 (by decide) rfl (by decide +kernel)⟩,
    ⟨_, (k (parked (.knock 0 1 90 (some 4))) 1 rfl _ rfl rfl rfl rfl).2.1 (by decide) (.inl rfl)⟩,
    ⟨_, (k (parked (.knock 0 2 90 (some 4))) 2 rfl _ rfl rfl rfl rfl).2.2 (by decide)⟩,
    ⟨_, (h.2.2.1 sAsks 0 0 1).1 (by decide +kernel)⟩, ⟨_, (h.2.2.1 (sPoor grpT tMma) 0 0 0).2 (by decide +kernel)⟩,
    ⟨_, (h.2.2.2 _ _ _ _ 0 [] rfl).2 (by decide +kernel)⟩, ⟨_, (h.2.2.2 _ _ _ _ 0 [] rfl).1 (by decide +kernel)⟩⟩

/-! ### Quantisation, launches, messages -/

theorem witness_BlockScales (h : Rules.BlockScales) :
    blockScale [0x3F800000, 0x7FC00000] = 255 ∧ (blockScale [0, 0x80000000] : Int) - 127 = 0
    ∧ (f32 (0x40400000 &&& 0x7FFFFFFF)).lt ((FVal.fin false 1 0).scale ((blockScale [0x40400000] : Int) - 127 + 1)) = true :=
  ⟨((h [0x3F800000, 0x7FC00000]).1 ⟨0x7FC00000, by simp, by decide +kernel⟩).1,
    ((h [0, 0x80000000]).2 (by
      intro x hx
      rcases (by simpa using hx : x = 0 ∨ x = 0x80000000) with rfl | rfl <;> decide +kernel)).2.2.2 (by
      intro x hx
      rcases (by simpa using hx : x = 0 ∨ x = 0x80000000) with rfl | rfl <;> decide +kernel),
    ((h [0x40400000]).2 (by
      intro x hx
      cases List.mem_singleton.mp hx
      decide +kernel)).2.1 0x40400000 (by simp) (by decide +kernel)⟩

def fQt : Fields := { bare .f64 with d := .n 10, a := .n 1, b := .n 2 }

theorem witness_Quantisation (h : Rules.Quantisation) :
    (∃ u, exec (.qblk fQt) (sFs 0x300 (thr .user [(1, 0x3F800000)])) = .next u) ∧ (∃ u, exec (.qblk fQt) (sFs 0x500 (thr .user [])) = .next u)
    ∧ ∃ u, exec (.qres { fQt with c := .n 3 }) (sFs 0x400 (thr .user [(1, 0x3F800000)])) = .next u :=
  ⟨⟨_, h.1 fQt (sFs 0x300 (thr .user [(1, 0x3F800000)])) _ [0] (group (by decide +kernel)) (by decide +kernel)⟩,
    ⟨_, h.2.1 fQt (sFs 0x500 (thr .user [])) _ [0] (group (by decide +kernel)) (by decide +kernel)⟩,
    ⟨_, h.2.2 { fQt with c := .n 3 } (sFs 0x400 (thr .user [(1, 0x3F800000)])) _ _ _ grp 0 (issues (by decide +kernel)) (by decide +kernel) rfl rfl
      (by decide +kernel) (okOf (by decide +kernel)) rfl (by decide +kernel)⟩⟩

def fNode (m : BitVec 10) : Fields := { bare .f64 with d := .n 10, a := .n 4, b := .n 2, c := .n 3, m := m }

theorem witness_NodeAddresses (h : Rules.NodeAddresses) :
    (∃ u, exec (.nodea (fNode 0)) (world (thr .user [(2, 0x105), (3, 31)])) = .next u)
    ∧ (∃ u, exec (.nodea (fNode 1)) (world (thr .user [(2, 0x11F), (3, 0xFFFFFFFF)])) = .next u)
    ∧ ∃ u, exec (.nodea (fNode 0)) (world (thr .user [(2, 0x105), (3, 32)])) = .next u :=
  ⟨⟨_, (h (fNode 0)).1 _ _ _ _ (issues (by decide +kernel)) ⟨⟨grp, by decide +kernel, rfl⟩, by decide +kernel⟩⟩,
    ⟨_, (h (fNode 1)).1 _ _ _ _ (issues (by decide +kernel)) ⟨⟨grp, by decide +kernel, rfl⟩, by decide +kernel⟩⟩,
    ⟨_, (h (fNode 0)).2 _ _ _ _ (issues (by decide +kernel)) fun hg => absurd hg.2.2.2 (by decide +kernel)⟩⟩

/-- The page at 0x10000 mapped, and queue 0 enabled for USER with its ring at 0x20000. -/
def sLaunch (tail : BitVec 16) (t : Thread) : State :=
  { mapped 0 t with
    parts := [(0, { Partition.reset with
      queues := [(0, { Queue.reset with en := true, ufeed := true, ring := 0x20000, tail := tail })], tvec := 0x4001 })] }
def fLaunch : Fields := { bare .f64 with d := .n 10, a := .n 2, b := .n 5 }

theorem witness_Launches (h : Rules.Launches) :
    (∃ u, exec (.launch fLaunch) (sLaunch 15 (tAt 0x10100)) = .next u) ∧ (∃ u, exec (.launch fLaunch) (sLaunch 16 (tAt 0x10100)) = .next u)
    ∧ (∃ u, exec (.launch fLaunch) (sLaunch 0 (tAt 0x10101)) = .next u)
    ∧ (∃ u, exec (.launch fLaunch) (sLaunch 0 ((tAt 0x10100).setReg 5 64)) = .next u)
    ∧ ∃ u, exec (.launch fLaunch) (world (tAt 0x10100)) = .next u :=
  ⟨⟨_, (h fLaunch (counted (sLaunch 15 (tAt 0x10100))) 0x10100 fetchLeaf).1 _ _ _ _ (issues (by decide +kernel)) (by decide +kernel)⟩,
    ⟨_, (h fLaunch (counted (sLaunch 16 (tAt 0x10100))) 0x10100 fetchLeaf).2.1 _ _ _ _ (issues (by decide +kernel)) (by decide +kernel)⟩,
    ⟨_, (h fLaunch State.reset 0 0).2.2 _ _ _ _ (.illegal, 7) (issues (by decide +kernel)) (by decide +kernel)⟩,
    ⟨_, (h fLaunch State.reset 0 0).2.2 _ _ _ _ (.permission, 0) (issues (by decide +kernel)) (by decide +kernel)⟩,
    ⟨_, (h fLaunch State.reset 0 0).2.2 _ _ _ _ (.permission, 0) (issues (by decide +kernel)) (by decide +kernel)⟩⟩

def fAm : Fields := { bare .f64 with a := .n 1, b := .n 2, c := .n 4 }
def sHandler (t : Thread) : State := { world t with waves := [{ wav t with kind := .handler (some 0) 0 }] }

theorem witness_MessagesSent (h : Rules.MessagesSent) :
    (∃ u, exec (.amsend fAm) (world (thr .user [(1, 255)])) = .next u) ∧ (∃ u, exec (.amsend fAm) (sHandler (thr .user [])) = .next u)
    ∧ ∃ u, exec (.amsend fAm) (world (thr .user [(1, 0x100)])) = .next u :=
  ⟨⟨_, (h fAm).1 _ _ _ _ (issues (by decide +kernel)) (by
      refine ⟨?_, ⟨by decide +kernel, by decide +kernel, ?_⟩, by decide +kernel⟩
      · rintro ⟨_, _, e⟩
        cases e
      · exact fun hn => absurd (by decide +kernel) hn)⟩,
    ⟨_, ((h fAm).2 _ _ _ _ (issues (by decide +kernel))).1 ⟨some 0, 0, rfl⟩⟩,
    ⟨_, ((h fAm).2 _ _ _ _ (issues (by decide +kernel))).2 (by
      rintro ⟨_, _, e⟩
      cases e) (by
      rintro ⟨_, _, hj⟩
      obtain ⟨j, hj, _⟩ := hj (by decide +kernel)
      exact absurd (show (none : Option Job) = some j from hj) (by simp))⟩⟩

def aMsg : Message :=
  { id := 60, pkg := 0, core := 5, handler := 0x3000, payload := [7, 8], notBefore := none, entry := some 0, srcPkg := 0, part := 0, wave := 3,
    lane := 0 }
def coreWith (n : Nat) : List (Nat × Core) := [(5, { Core.reset with messages := List.replicate n aMsg })]
def sMsg (n : Nat) (t : Thread) : State := { flying (works (.message aMsg .min)) t with cores := coreWith n }

theorem witness_Handlers (h : Rules.Handlers) :
    (∃ u, exec (.activeMessageArrive 60) (sMsg 15 (parked (.amsend 60))) = .next u)
    ∧ (∃ u, exec (.activeMessageArrive 60) (sMsg 16 (thr .user [])) = .next u) ∧ ∃ u, exec (.handlerStart 0 5) (sMsg 16 (thr .user [])) = .next u :=
  ⟨⟨_, (h.1 _ 60 _ aMsg .min rfl rfl rfl (by decide +kernel) rfl rfl).1 (by decide)⟩,
    ⟨_, (h.1 _ 60 _ aMsg .min rfl rfl rfl (by decide +kernel) rfl rfl).2 (by decide)⟩,
    (h.2 (sMsg 16 (thr .user [])) 0 5 aMsg _ (by decide) (by decide) rfl rfl (by decide) (by decide +kernel) (by decide)).elim fun _ e => ⟨_, e.1⟩⟩

/-! ### Control registers, translation, the shutter, windows -/

def fCsr : Fields := { bare .f64 with d := .n 4, a := .n 1 }
def fCsw (m : BitVec 10) : Fields := { bare .f64 with d := .n 4, a := .n 1, b := .n 2, m := m }

theorem witness_ControlRegisters (h : Rules.ControlRegisters) :
    (∃ u, exec (.csrr fCsr) (world (thr .super [(1, 0x302)])) = .next u) ∧ (∃ u, exec (.csrr fCsr) (world (thr .super [(1, 0x310)])) = .next u)
    ∧ (∃ u, exec (.csrr fCsr) (world (thr .sys [(1, 0x1302)])) = .next u) ∧ (∃ u, exec (.csrr fCsr) (world (thr .sys [(1, 0x301B)])) = .next u)
    ∧ (∃ u, exec (.csrw (fCsw 0)) (world (thr .super [(1, 0x310)])) = .next u)
    ∧ (∃ u, exec (.csrw (fCsw 1)) (world (thr .super [(1, 0x307), (2, 5)])) = .next u)
    ∧ (∃ u, exec (.csrw (fCsw 2)) (world (thr .super [(1, 0x3E0), (2, 5)])) = .next u)
    ∧ (∃ u, exec (.csrw (fCsw 0)) (world (thr .super [(1, 0x321), (2, 1)])) = .next u)
    ∧ (∃ v, (aTrap true).epc = v ∧ csrValue State.reset (wav (inSuper 0x1008)) (inSuper 0x1008) 0x302 = (inSuper 0x1008).super.epc.extractLsb' 0 32)
    ∧ csrValue State.reset (wav (inSuper 0x1008)) (inSuper 0x1008) (0x300 + 7 + 3) = (inSuper 0x1008).super.esav.getD 3 0 :=
  ⟨⟨_, (h.1 fCsr).1 _ _ _ _ (issues (by decide +kernel)) (by decide +kernel)⟩,
    ⟨_, (h.1 fCsr).2.1 _ _ _ _ (.priv, 0) (issues (by decide +kernel)) (by decide +kernel)⟩,
    ⟨_, (h.1 fCsr).2.1 _ _ _ _ (.illegal, 7) (issues (by decide +kernel)) (by decide +kernel)⟩,
    ⟨_, (h.1 fCsr).2.1 _ _ _ _ (.illegal, 7) (issues (by decide +kernel)) (by decide +kernel)⟩,
    ⟨_, (h.1 (fCsw 0)).2.2.1 _ _ _ _ (.priv, 0) (issues (by decide +kernel)) (by decide +kernel)⟩,
    ⟨_, (h.1 (fCsw 1)).2.2.2.1 _ _ _ _ (issues (by decide +kernel)) (by decide +kernel)⟩,
    ⟨_, (h.1 (fCsw 2)).2.2.2.2.1 _ _ _ _ (issues (by decide +kernel)) (by decide +kernel)⟩,
    ⟨_, (h.1 (fCsw 0)).2.2.2.2.2 _ _ _ _ (issues (by decide +kernel)) (by decide +kernel)⟩,
    ⟨_, rfl, (h.2.1 State.reset (wav (inSuper 0x1008)) (inSuper 0x1008) false _ 0 rfl).1⟩,
    (h.2.1 State.reset (wav (inSuper 0x1008)) (inSuper 0x1008) false _ 3 rfl).2.2.2.2.2 (by decide)⟩

theorem witness_RegisterWrites (h : Obligations.RegisterWrites) :
    ∃ u, exec (.registerWrite 0x300 0xFFFFFFFF { level := .sys, die := 7, core := 31, part := 0 }) State.reset = .next u :=
  ⟨_, (h State.reset 0xFFFFFFFF { level := .sys, die := 7, core := 31, part := 0 } (by decide) (by decide) (by decide +kernel) rfl).1⟩

/-- The small state whose core holds one leaf for the page at 0x10000. -/
def oneLeaf (e : DWord) : State := mapped e (tAt 0x10040)

/-- The small state whose core holds one 512 MiB leaf over frames of no partition. -/
def largeLeaf : State := { world (thr .user []) with cores := [(0, { Core.reset with tlb := [tlbEntry 0 1 0x3F 0x10000] })] }

theorem witness_TranslationChecks (h : Rules.TranslationChecks) :
    State.reset.lookupVa 0 0 .sys .r 0x0040000000000000 = .fault .translation
    ∧ State.reset.lookupVa 0 0 .user .r 0xFFC0000000000000 = .fault .permission
    ∧ State.reset.lookupVa 0 0 .super .r 0xFFC0000000000000 = .miss
    ∧ (oneLeaf 0x0000400000000000).lookupVa 0 0 .user .r 0x10040 = .fault .translation
    ∧ (oneLeaf 0x0000200000000000).lookupVa 0 0 .user .r 0x10040 = .fault .permission
    ∧ (∃ p, (oneLeaf 0x2000).lookupVa 0 0 .user .x 0x10040 = .psn p) ∧ (∃ p, (oneLeaf 0).lookupVa 0 0 .user .rw 0x10040 = .ok p (fetchLeaf ||| 0))
    ∧ largeLeaf.lookupVa 0 0 .user .rw 0x10040 = .fault .permission := by
  have k (e : DWord) (n : Need) (g : (tlbEntry 0 2 (fetchLeaf ||| e) fetchVa).tag = some 0) :=
    (h (oneLeaf e) 0 0 .user n 0x10040).2.2.2 (by decide +kernel) (tlbEntry 0 2 (fetchLeaf ||| e) fetchVa) rfl
      (show 0x10000 / 2 ^ 16 = 0x10040 / 2 ^ (42 - 13 * 2) by decide) (.inr ⟨by decide +kernel, g⟩)
  exact ⟨(h State.reset 0 0 .sys .r 0x0040000000000000).1 (by decide +kernel) (by decide +kernel),
    (h State.reset 0 0 .user .r 0xFFC0000000000000).2.1 (by decide +kernel) rfl,
    (h State.reset 0 0 .super .r 0xFFC0000000000000).2.2.1 (.inr ⟨by decide +kernel, by decide⟩) rfl rfl,
    (k 0x0000400000000000 .r (by decide +kernel)).1 (by decide +kernel), (k 0x0000200000000000 .r (by decide +kernel)).2.1 (by decide +kernel) (by decide +kernel),
    ⟨_, (k 0x2000 .x (by decide +kernel)).2.2.1 (by decide +kernel) (by decide +kernel) (by decide +kernel)⟩,
    ⟨_, (k 0 .rw (by decide +kernel)).2.2.2 (by decide +kernel) (by decide +kernel) (by decide +kernel)⟩,
    ((h largeLeaf 0 0 .user .rw 0x10040).2.2.2 (by decide +kernel) (tlbEntry 0 1 0x3F 0x10000) rfl (by decide +kernel)
      (.inr ⟨by decide +kernel, rfl⟩)).2.1 (by decide +kernel) (by decide +kernel)⟩

/-- A walk for the page at 0x10000 from a root, in memory that holds tables at 0x20000, 0x30000 and 0x40000. -/
def aWalk (root : DWord) (stale : Bool) : Walk :=
  { tag := 0, page := 1, root := root, busy := true, stale := stale, waiters := [{ core := 0, wave := 3, lane := 0, pc := 0x1000, va := 0x10040 }] }
def sWalk (root : DWord) (stale : Bool) : State :=
  { world (thr .user []) with
    mem := [(0x20000, 1), (0x20002, 3), (0x30000, 1), (0x30002, 4), (0x40008, 0x3F), (0x4000A, 1)]
    frames := [(1, 1), (2, 1), (3, 1), (4, 1)], dies := [(0, { Die.reset with walks := [aWalk root stale] })] }
def walked (s : State) : Prop := ∃ u, exec (.walkComplete 0 0 1) s = .next u

theorem witness_WalksComplete (h : Rules.WalksComplete) :
    walked (sWalk 0x20000 true) ∧ walked (sWalk 0x50000 false) ∧ walked { sWalk 0x20000 false with poison := [0x40008 / 32] }
    ∧ walked (sWalk 0x20000 false) :=
  ⟨⟨_, (h (sWalk 0x20000 true) 0 0 1 (aWalk 0x20000 true) (by decide +kernel)).1 rfl (by decide)⟩,
    ⟨_, (h (sWalk 0x50000 false) 0 0 1 (aWalk 0x50000 false) (by decide +kernel)).2.1 rfl .permission [] (by decide +kernel)⟩,
    ⟨_, (h { sWalk 0x20000 false with poison := [0x40008 / 32] } 0 0 1 (aWalk 0x20000 false) (by decide +kernel)).2.2.1 rfl 0x40008
      [0x30000, 0x20000] (by decide +kernel)⟩,
    ((h (sWalk 0x20000 false) 0 0 1 (aWalk 0x20000 false) (by decide +kernel)).2.2.2 rfl 2 0x1003F [(1, 0x40001), (0, 0x30001)]
      [0x40008, 0x30000, 0x20000] (by decide +kernel)).elim fun t e => ⟨t, e.1⟩⟩

def fInv : Fields := { bare .f64 with a := .n 6, b := .n 2, c := .n 1 }
def tInv : Thread := thr .super [(1, 0x100), (6, 0x10000)]
def aShoot (toDeliver : List Nat) (toAck : List (Nat × List Nat)) : Shootdown :=
  { id := 90, kind := 0, va := 0x10000, tag := 0, latch := ⟨2, 0x100⟩, wave := 3, lane := 0, toDeliver := toDeliver, toAck := toAck }
def sShoot (d : Shootdown) : State :=
  { mapped 0 (thr .user []) with
    wgs := [grpB (buf .empty true)], parts := [(0, { Partition.reset with tvec := 0x4001, shootdowns := [d] })] }

theorem witness_ShootDowns (h : Rules.ShootDowns) :
    (∃ u, exec (.tlbinv fInv) (withBuf (buf .empty true) tInv) = .next u)
    ∧ (∃ u, exec (.tlbinv fInv) { withBuf (buf .empty true) tInv with waves := [{ wav tInv with store := [aStore] }] } = .next u)
    ∧ (∃ u, exec (.shootdownDeliver 0 0) (sShoot (aShoot [0, 1] [])) = .next u)
    ∧ ∃ u, exec (.shootdownAck 0 0) (sShoot (aShoot [] [(0, [])])) = .next u :=
  ⟨⟨_, (h.1 fInv ⟨2, 0x100⟩).1 _ _ _ _ (issues (by decide +kernel)) (by let _ := @exceptEq; decide)⟩,
    ⟨_, (h.1 fInv ⟨2, 0x100⟩).2 _ _ _ _ (issues (by decide +kernel)) (by let _ := @exceptEq; decide)⟩,
    (h.2.1 (sShoot (aShoot [0, 1] [])) 0 0 (aShoot [0, 1] []) (by decide +kernel) (by decide +kernel) (by decide +kernel)).elim fun t e => ⟨t, e.1⟩,
    ⟨_, h.2.2 (sShoot (aShoot [] [(0, [])])) 0 0 (aShoot [] [(0, [])]) [] (by decide +kernel) (by decide +kernel) rfl rfl (by decide +kernel)
      (by decide) (by decide +kernel) (by decide +kernel)⟩⟩

def sSnap (at_ : Option Nat) (ext : Bool) : State :=
  { world (thr .sys []) with pcc := 2047, system := { System.reset with snapAt := at_, snapExt := ext } }
def fSnap : Fields := { bare .f64 with d := .n 10 }

theorem witness_Shutter (h : Rules.Shutter) :
    (∃ u, exec (.snap fSnap) (sSnap (some 2047) false) = .next u) ∧ (∃ u, exec (.snap fSnap) (sSnap (some 2048) false) = .next u)
    ∧ (∃ u, exec .shutterInput (sSnap none true) = .next u) ∧ (∃ u, exec (.shutterFramingTrigger 2048) (sSnap none true) = .next u)
    ∧ (∃ u, exec .shutterInput (sSnap (some 2048) true) = .next u) ∧ (∃ u, exec .shutterInput (sSnap none false) = .next u)
    ∧ ∃ u, exec .shutterTick (sSnap (some 2047) false) = .next u := by
  have clear (x : Bool) : ∀ t, (sSnap none x).system.snapAt = some t → t ≤ (sSnap none x).pcc.toNat := by
    intro t e
    cases e
  have k := h.2.1 (sSnap none true) rfl (by decide +kernel)
  exact ⟨⟨_, (h.1 fSnap).1 _ _ _ _ (issues (by decide +kernel)) ⟨by
      intro t e
      cases e
      decide +kernel, by decide +kernel⟩⟩,
    ⟨_, (h.1 fSnap).2 2048 _ _ _ _ (issues (by decide +kernel)) (by decide +kernel)⟩,
    ⟨_, (k.1 (clear true)).1⟩, ⟨_, (k.1 (clear true)).2 2048 (by decide +kernel)⟩,
    ⟨_, ((h.2.1 (sSnap (some 2048) true) rfl (by decide +kernel)).2 2048 ⟨rfl, by decide +kernel⟩).1⟩,
    ⟨_, (h.2.2.1 (sSnap none false) rfl).1⟩,
    (h.2.2.2 (sSnap (some 2047) false) 2047 rfl (by decide +kernel)).elim fun t e => ⟨t, e.1⟩⟩

/-- The page at 0x10000 mapped to window 5, with a latch buffer at 0x100. -/
def winLeaf : DWord := BitVec.ofNat 64 (mkPa 0 1 (5 * 2 ^ 32) + 0x3F)
def sWin (t : Thread) : State :=
  { withBuf (buf .empty true) t with cores := [(0, { Core.reset with tlb := [tlbEntry 0 2 winLeaf fetchVa] })] }
def fWarm : Fields := { bare .f64 with d := .n 10, a := .n 2, b := .n 5 }
def tWarm : Thread := (tAt 0x10040).setReg 5 0x100

/-- A binding record: kind, scope 4, program 0, blocks of 8 elements, `n` contributors, one block, BURST or not, agent core 0. -/
def aRecord (kind n burst : Byte) : List Byte := [kind, 4, 0, 3, n, 0, 1, 0, burst] ++ List.replicate 400 0
def boundW (kind n burst : Byte) : Window := { Window.reset with bound := true, record := aRecord kind n burst }
def aWarm : Park := .cwarm 0x10040 5 ⟨2, 0x100⟩ 60 none (some 4)
def sArm (w : Window) : State := { withBuf (buf .empty true) (parked aWarm) with windows := [(5, w)] }
def arms (w : Window) : Prop := ∃ u, exec (.windowArm 5) (sArm w) = .next u

theorem witness_WindowPhases (h : Rules.WindowPhases) :
    (∃ u, exec (.cwarm fWarm) (sWin tWarm) = .next u)
    ∧ (∃ u, exec (.cwstat { bare .f64 with la := 1, d := .n 10, a := .n 2 }) (sWin tWarm) = .next u)
    ∧ arms Window.reset ∧ arms { boundW 1 2 0 with state := .armed } ∧ arms (boundW 1 2 1) ∧ arms (boundW 1 2 0) := by
  have k (w : Window) := h.2.2 (sArm w) 5 _ 0 _ _ _ _ _ _ rfl rfl rfl (by decide) fun _ e => Option.some.inj e ▸ (by decide)
  exact ⟨⟨_, (h.1 fWarm (counted (sWin tWarm)) (mkPa 0 1 (5 * 2 ^ 32) + 0x40) winLeaf ⟨2, 0x100⟩).1 _ _ _ _ (issues (by decide +kernel))
      ⟨by decide +kernel, okOf (by decide +kernel), by decide +kernel⟩⟩,
    ⟨_, (h.1 { bare .f64 with la := 1, d := .n 10, a := .n 2 } (counted (sWin tWarm)) (mkPa 0 1 (5 * 2 ^ 32) + 0x40) winLeaf ⟨2, 0x100⟩).2 _ _ _ _
      (issues (by decide +kernel)) (by decide +kernel)⟩,
    ⟨_, (k Window.reset).1 (by decide +kernel) (by decide +kernel)⟩,
    ⟨_, ((k { boundW 1 2 0 with state := .armed }).2 (by decide +kernel) (by decide +kernel)).1 rfl⟩,
    ⟨_, ((k (boundW 1 2 1)).2 (by decide +kernel) (by decide +kernel)).2.1 (by decide) (by decide +kernel) (by decide +kernel) rfl⟩,
    ⟨_, ((k (boundW 1 2 0)).2 (by decide +kernel) (by decide +kernel)).2.2 (by decide) (by decide +kernel) rfl (by decide +kernel)⟩⟩

def aReport : Report := { cause := .translation, number := 7, descent := false, wave := some 3 }
def sReport : State := { world (thr .user []) with wgs := [{ grp with reports := [aReport] }] }

theorem witness_ImpreciseReports (h : Rules.ImpreciseReports) : ∃ u, exec (.impreciseFaultTake 2) sReport = .next u :=
  ⟨_, h sReport 2 0 { grp with reports := [aReport] } aReport [] (wav (thr .user [])) (thr .user []) rfl rfl rfl (by decide +kernel) (by
      intro x hx _
      exact List.mem_singleton.mp hx) rfl rfl rfl (by decide +kernel) rfl rfl rfl rfl (by decide +kernel) (by omega)⟩

/-! ### The collective executor -/

/-- A window 5 whose executor runs an invocation. -/
def exeV (w : Window) (v : Invocation) (i : Instr) : State :=
  { State.reset with
    windows := [(5, { w with running := some v })], programs := [(0, { Program.reset with loaded := [i] })]
    cur := .executor 5, nextId := 100 }
/-- An invocation with some first registers and a fragment of some bytes. -/
def invK (ks : List DWord) (data : List Byte) : Invocation := { inv with frag := { noFrag with data := data }, k := ks ++ List.replicate 12 0 }
def runs (i : Instr) (w : Window) (v : Invocation) : Prop := ∃ u, exec i (exeV w v i) = .next u
/-- Operands k0 and k1. -/
def c01 : CFields := { cbare with d := 2, a := 0, b := 1 }
def kk (a b : DWord) : Invocation := invK [a, b, 0, 0] []

theorem witness_CollectiveArithmetic (h : Rules.CollectiveArithmetic) :
    runs (.cadd c01) (boundW 1 2 0) (kk 3 4) ∧ runs (.cnop c01) (boundW 1 2 0) (kk 0 0)
    ∧ runs (.cjmp { c01 with imm := 255 }) (boundW 1 2 0) (kk 0 0) ∧ runs (.cbr { c01 with imm := 255 }) (boundW 1 2 0) (kk 1 0)
    ∧ runs (.cbr { c01 with imm := 255, op := 1 }) (boundW 1 2 0) (kk 1 0) :=
  ⟨⟨_, (h c01).1 (.cadd, fun c s w v => collA c s w v + collB c v)
      (List.mem_cons_of_mem _ (List.mem_cons_of_mem _ (List.mem_cons_self ..))) _ 5 _ rfl rfl (by decide) trivial⟩,
    ⟨_, (h c01).2.1 _ 5 _ rfl rfl (by decide) trivial⟩, ⟨_, (h { c01 with imm := 255 }).2.2.1 _ 5 _ rfl rfl (by decide) trivial⟩,
    ⟨_, (h { c01 with imm := 255 }).2.2.2.1 _ 5 _ rfl rfl (by decide) (by decide +kernel)⟩,
    ⟨_, (h { c01 with imm := 255, op := 1 }).2.2.2.2 _ 5 _ rfl rfl (by decide) (by decide +kernel)⟩⟩

def armedW : Window := { boundW 1 2 0 with state := .armed }

theorem witness_InvocationEnds (h : Rules.InvocationEnds) :
    runs (.cend c01) { armedW with suspended := [kk 1 1] } (kk 0 0) ∧ runs (.cdropf c01) armedW (kk 0 0)
    ∧ runs (.cdropf { c01 with op := 1 }) armedW (kk 0 0) ∧ runs (.cyield { c01 with imm := 3 }) armedW { kk 0 0 with steps := 254 }
    ∧ runs (.cyield c01) { armedW with suspended := [{ kk 1 1 with due := true }] } (kk 0 0)
    ∧ runs (.cnop c01) armedW { kk 0 0 with steps := 255 } ∧ ∃ u, (exeV armedW (kk 0 0) (.cend c01)).failPhase 5 4 = u :=
  ⟨⟨_, (h.1 c01 _ 5 _ rfl rfl).1⟩, ⟨_, (h.1 c01 _ 5 _ rfl rfl).2.1 rfl⟩, ⟨_, (h.1 { c01 with op := 1 } _ 5 _ rfl rfl).2.2.1 rfl⟩,
    ⟨_, (h.1 { c01 with imm := 3 } (exeV armedW { kk 0 0 with steps := 254 } _) 5 _ rfl rfl).2.2.2.1 (by decide) rfl rfl fun _ hx =>
      absurd (show _ ∈ ([] : List Invocation) from hx) (by simp)⟩,
    ⟨_, (h.1 c01 (exeV { armedW with suspended := [{ kk 1 1 with due := true }] } (kk 0 0) _) 5 _ rfl rfl).2.2.2.2.1 _ [] (by decide) rfl rfl rfl⟩,
    ⟨_, ((h.1 c01 (exeV armedW { kk 0 0 with steps := 255 } _) 5 _ rfl rfl).2.2.2.2.2 (by decide)).1⟩,
    ⟨_, h.2 _ 5 4 rfl (by decide +kernel)⟩⟩

theorem witness_FragmentFields (h : Rules.FragmentFields) :
    (∃ n, State.reset.fragField armedW { kk 0 0 with timer := true } 4 = n) ∧ (∃ n, State.reset.fragField armedW (kk 0 0) 4 = n)
    ∧ State.reset.fragField (boundW 1 1 0) { kk 0 0 with frag := { noFrag with port := 0 } } 0 = 0 :=
  ⟨⟨_, ((h State.reset armedW { kk 0 0 with timer := true }).1 rfl).2.2.2.2.1⟩, ⟨_, ((h State.reset armedW (kk 0 0)).2 rfl).2.2.2.1⟩,
    ((h State.reset (boundW 1 1 0) { kk 0 0 with frag := { noFrag with port := 0 } }).2 rfl).2.2.2.2.2 0 (by decide +kernel) (by
      intro j hj _
      have e : (boundW 1 1 0).ncontrib = 1 := by decide +kernel
      omega) (by decide +kernel)⟩

theorem witness_CollectiveBookkeeping (h : Rules.CollectiveBookkeeping) :
    runs (.cstage c01) armedW (invK [4095, 0, 0, 0] [7]) ∧ runs (.cstage c01) armedW (invK [4096, 0, 0, 0] [7])
    ∧ runs (.cseen c01) { armedW with seen := [1] } (kk 1 0) ∧ runs (.cseen c01) armedW (kk 1 0) ∧ runs (.cseen c01) armedW (kk 2 0)
    ∧ runs (.cready c01) armedW (kk 0 0) ∧ runs (.cready { c01 with op := 1 }) armedW (kk 0 0) ∧ runs (.cready c01) armedW (kk 1 0)
    ∧ runs (.ccnt c01) armedW (kk 7 0xFFFFFFFFFFFFFFFF) ∧ runs (.ccnt c01) armedW (kk 8 1) ∧ runs (.ctime c01) armedW (kk 0 0)
    ∧ runs (.ctime { c01 with op := 1 }) armedW (kk 9 0) ∧ runs (.csig c01) armedW (kk 0 5) :=
  ⟨⟨_, (h c01).1 _ 5 _ rfl rfl (by decide) (by decide +kernel)⟩, ⟨_, (h c01).2.1 _ 5 _ rfl rfl (by decide +kernel)⟩,
    ⟨_, (h c01).2.2.1 _ 5 _ rfl rfl (by decide) (by decide +kernel)⟩, ⟨_, (h c01).2.2.2.1 _ 5 _ rfl rfl (by decide) (by decide +kernel)⟩,
    ⟨_, (h c01).2.2.2.2.1 _ 5 _ rfl rfl (by decide +kernel)⟩, ⟨_, (h c01).2.2.2.2.2.1 _ 5 _ rfl rfl (by decide) (by decide +kernel)⟩,
    ⟨_, (h { c01 with op := 1 }).2.2.2.2.2.2.1 _ 5 _ rfl rfl (by decide) (by decide +kernel)⟩,
    ⟨_, (h c01).2.2.2.2.2.2.2.1 _ 5 _ rfl rfl (by decide +kernel)⟩,
    ⟨_, (h c01).2.2.2.2.2.2.2.2.1 _ 5 _ rfl rfl (by decide) (by decide +kernel)⟩,
    ⟨_, (h c01).2.2.2.2.2.2.2.2.2.1 _ 5 _ rfl rfl (by decide +kernel)⟩,
    ⟨_, (h c01).2.2.2.2.2.2.2.2.2.2.1 _ 5 _ rfl rfl (by decide) (by decide +kernel)⟩,
    ⟨_, (h { c01 with op := 1 }).2.2.2.2.2.2.2.2.2.2.2.1 _ 5 _ rfl rfl (by decide) (by decide +kernel)⟩,
    ⟨_, (h c01).2.2.2.2.2.2.2.2.2.2.2.2 _ 5 _ rfl rfl (by decide) trivial⟩⟩

/-- A contribution of 8 FP32 elements. -/
def contribution (a : DWord) (n : Nat) : Invocation := invK [a, 0, 0, 0] (List.replicate n 0)
def nodeOf (lo hi : Nat) : TreeNode := { blk := 0, lo := lo, hi := hi, value := [1, 2], bad := [] }

theorem witness_CombineTree (h : Obligations.CombineTree) :
    runs (.ccomb c01) armedW (contribution 1 31) ∧ runs (.ccomb c01) { armedW with present := [(0, 1)] } (contribution 1 32)
    ∧ runs (.ccomb c01) armedW (contribution 1 32) ∧ (∃ r, foldNode 2 0 1 [] (nodeOf 0 2) = r)
    ∧ (∃ r, foldNode 3 0 2 [nodeOf 2 3] (nodeOf 0 2) = r) ∧ ∃ r, foldNode 3 0 2 [nodeOf 0 2] (nodeOf 2 3) = r :=
  ⟨⟨_, (h.1 c01).1 _ 5 _ rfl rfl (by
      rintro ⟨_, _, e, _⟩
      exact absurd e (by decide +kernel))⟩,
    ⟨_, (h.1 c01).2.1 _ 5 _ rfl rfl (by decide) ⟨⟨by decide +kernel, by decide +kernel, by decide +kernel, by
      intro o e
      exact absurd (show (none : Option Nat) = some o from e) (by simp)⟩, by decide +kernel⟩⟩,
    ⟨_, (h.1 c01).2.2 _ 5 _ rfl rfl (by decide) ⟨⟨by decide +kernel, by decide +kernel, by decide +kernel, by
      intro o e
      exact absurd (show (none : Option Nat) = some o from e) (by simp)⟩, by decide +kernel⟩⟩,
    ⟨_, h.2.1 0 2 0 [] (nodeOf 0 2) rfl rfl⟩,
    ⟨_, (h.2.2.1 0 3 0 _ (nodeOf 0 2) (nodeOf 2 3) 2 (by decide) (by decide) (by decide) (by decide) ⟨1, rfl⟩ rfl rfl).1 rfl rfl rfl rfl⟩,
    ⟨_, (h.2.2.1 0 3 0 _ (nodeOf 2 3) (nodeOf 0 2) 2 (by decide) (by decide) (by decide) (by decide) ⟨1, rfl⟩ rfl rfl).2 rfl rfl rfl rfl⟩⟩

/-- An armed window whose entry 0 has a KIND and a limit of 32 bytes, at an address of peer or own windows. -/
def destW (kind : Byte) : Window :=
  { armedW with record := (((aRecord 1 2 0).set 72 32).set 80 kind).set 69 0x10, nodes := [{ nodeOf 0 2 with value := List.replicate 8 0 }] }
def cOut (op : BitVec 4) (imm : BitVec 40) : CFields := { c01 with op := op, imm := imm }

theorem witness_CollectiveOutput (h : Rules.CollectiveOutput) :
    runs (.cplace (cOut 0 0)) (destW 1) (kk 32 0) ∧ runs (.cplace (cOut 0 0)) (destW 1) (kk 33 0) ∧ runs (.cplace (cOut 0 0)) (destW 3) (kk 0 0)
    ∧ runs (.cplace (cOut 1 0x1F00)) (destW 2) (kk 0 4064) ∧ runs (.cplace (cOut 1 0x1F00)) (destW 2) (kk 0 4065)
    ∧ runs (.cplace (cOut 2 0)) (destW 2) (kk 0 0) ∧ runs (.cplace (cOut 3 0)) (destW 2) (kk 16 0) ∧ runs (.cplace (cOut 2 0)) (destW 2) (kk 0 1)
    ∧ runs (.cfwd (cOut 0 0)) (destW 3) (kk 0 0) ∧ runs (.cfwd (cOut 1 0)) (destW 3) (kk 0 0) ∧ runs (.cfwd (cOut 1 0)) (destW 3) (kk 0 1)
    ∧ runs (.cack (cOut 0 0)) (destW 3) (kk 5 0) ∧ runs (.cmcast (cOut 0 1)) (destW 1) (kk 0 0) ∧ runs (.cmcast (cOut 0 3)) (destW 1) (kk 0 0) := by
  have on (imm : BitVec 40) (h1 : ∀ k < 8, imm.getLsbD k = true → k = 0) : ∀ k, k < 8 → imm.getLsbD k = true → k = 0 := h1
  exact ⟨⟨_, (h (cOut 0 0)).1.1 _ 5 _ rfl rfl (by decide) (by decide +kernel)⟩, ⟨_, (h (cOut 0 0)).1.2 _ 5 _ rfl rfl (by decide +kernel)⟩,
    ⟨_, (h (cOut 0 0)).1.2 _ 5 _ rfl rfl (by decide +kernel)⟩, ⟨_, (h (cOut 1 0x1F00)).2.1.1 _ 5 _ rfl rfl (by decide) (by decide +kernel)⟩,
    ⟨_, (h (cOut 1 0x1F00)).2.2.1 _ 5 _ rfl rfl (by decide +kernel)⟩,
    ⟨_, ((h (cOut 2 0)).2.2.2.1 { nodeOf 0 2 with value := List.replicate 8 0 }).1 _ 5 _ rfl rfl (by decide) (by decide +kernel)⟩,
    ⟨_, ((h (cOut 3 0)).2.2.2.2.1 { nodeOf 0 2 with value := List.replicate 8 0 }).1 _ 5 _ rfl rfl (by decide) (by decide +kernel)⟩,
    ⟨_, (h (cOut 2 0)).2.2.2.2.2.1 _ 5 _ rfl rfl (by decide +kernel)⟩,
    ⟨_, (h (cOut 0 0)).2.2.2.2.2.2.1.1 _ 5 _ rfl rfl (by decide) (by decide +kernel)⟩,
    ⟨_, ((h (cOut 1 0)).2.2.2.2.2.2.2.1 { nodeOf 0 2 with value := List.replicate 8 0 }).1 _ 5 _ rfl rfl (by decide) (by decide +kernel)⟩,
    ⟨_, (h (cOut 1 0)).2.2.2.2.2.2.2.2.1 _ 5 _ rfl rfl (by decide +kernel)⟩,
    ⟨_, (h (cOut 0 0)).2.2.2.2.2.2.2.2.2.1.1 _ 5 _ rfl rfl (by decide) (by decide +kernel)⟩,
    ⟨_, (h (cOut 0 1)).2.2.2.2.2.2.2.2.2.2.1 _ 5 _ rfl rfl (by decide) (by
      intro k hk e
      obtain rfl := on 1 (by decide) k hk e
      decide +kernel)⟩,
    ⟨_, (h (cOut 0 3)).2.2.2.2.2.2.2.2.2.2.2 _ 5 _ rfl rfl ⟨1, by decide, by decide, by decide +kernel⟩⟩⟩

theorem witness_PlacementsBegin (h : Rules.PlacementsBegin) :
    (∃ r, sendTo 5 0 0 ([7], []) State.reset (destW 1) (kk 0 0) = r) ∧ (∃ r, sendTo 5 0 0 ([7], []) State.reset (destW 2) (kk 0 0) = r)
    ∧ ∃ r, sendTo 5 0 0 ([7], []) State.reset (destW 3) (kk 0 0) = r :=
  ⟨⟨_, (h 5 0 0 ([7], []) State.reset (destW 1) (kk 0 0) (by decide) (by decide +kernel)).1 (by decide +kernel)⟩,
    ⟨_, (h 5 0 0 ([7], []) State.reset (destW 2) (kk 0 0) (by decide) (by decide +kernel)).2.1 (by decide +kernel)⟩,
    ⟨_, (h 5 0 0 ([7], []) State.reset (destW 3) (kk 0 0) (by decide) (by decide +kernel)).2.2 (by decide +kernel)⟩⟩

/-- A fragment of core 0 for window 5. -/
def fragC (phase : Option Nat) : Fragment := { noFrag with port := 0, phase := phase, data := [1, 2, 3, 4] }
def sArr (w : Window) : State := { State.reset with windows := [(5, w)] }
def win1 (st : PhaseState) : Window := { boundW 1 1 0 with state := st, phi := 4 }
def reaches (w : Window) (g : Fragment) : Prop := ∃ r, (sArr w).reachWindow g = r
def flies (w : Window) : State := { sArr w with net := [works (.fragment (fragC none) .min)] }

/-- A fragment of the remote endpoint of contributor entry 0 for window 5. -/
def ueFrag (data : List Byte) : RemoteFragment := { window := 5, port := 16, src := 0, seq := 0, phase := 4, off := 0, data := data }
theorem reached {s : State} {g : Fragment} {d : Bool} (h : (s.reachWindow g).map (·.2) = some d) : ∃ u, s.reachWindow g = some (u, d) := by
  obtain ⟨r, e, rfl⟩ := Option.map_eq_some_iff.mp h
  exact ⟨r.1, e⟩
/-- A window whose entry 0 is the endpoint 0 of Ultra Ethernet. -/
def ueWin (st : PhaseState) : Window := { win1 st with record := (aRecord 1 1 0).set 323 0xC0 }

theorem witness_FragmentsArrive (h : Rules.FragmentsArrive) :
    reaches Window.reset (fragC none) ∧ reaches (win1 .armed) (fragC none) ∧ reaches (win1 .armed) (fragC (some 4))
    ∧ reaches (win1 .done) (fragC (some 4)) ∧ reaches (win1 .idle) (fragC (some 4))
    ∧ reaches { win1 .armed with hold := List.replicate 64 (fragC none) } (fragC (some 5))
    ∧ (∃ u, exec (.fragmentArrive 60) (flies (win1 .armed)) = .next u)
    ∧ (∃ u, exec (.fragmentArrive 60) (flies { win1 .idle with hold := List.replicate 64 (fragC none) }) = .next u)
    ∧ (∃ u, exec (.ueFragmentArrive (ueFrag [])) (sArr (win1 .armed)) = .next u) ∧ (∃ u, exec (.ueFragmentArrive (ueFrag [1])) (sArr Window.reset) = .next u)
    ∧ (∃ u, exec (.ueFragmentArrive (ueFrag [1])) (sArr (ueWin .armed)) = .next u)
    ∧ (∃ u, exec (.ueFragmentArrive (ueFrag [1])) (sArr { ueWin .idle with hold := List.replicate 64 (fragC none) }) = .next u)
    ∧ (∃ u, exec (.invocationStart 5) (sArr { win1 .armed with queue := [fragC (some 4)] }) = .next u)
    ∧ (∃ u, exec (.timerInvocation 5) (sArr { win1 .armed with timer := some 0 }) = .next u)
    ∧ ∃ u, exec (.timerInvocation 5) (sArr { win1 .done with timer := some 0 }) = .next u := by
  have named (st : PhaseState) (hold : List Fragment) (p : Option Nat) : (sArr { win1 st with hold := hold }).window 5 = { win1 st with hold := hold } ∧
      ((sArr { win1 st with hold := hold }).window 5).bound = true ∧ ∃ i, i < ((sArr { win1 st with hold := hold }).window 5).ncontrib
        ∧ ((sArr { win1 st with hold := hold }).window 5).contrib i = (sArr { win1 st with hold := hold }).senderEntry (fragC p) :=
    ⟨rfl, rfl, 0, show 0 < (win1 .armed).ncontrib by decide +kernel, show (win1 .armed).contrib 0 = State.reset.senderEntry (fragC none) by decide +kernel⟩
  exact ⟨⟨_, (h.1 (sArr Window.reset) (fragC none)).1 (by
      rintro ⟨e, _⟩
      exact absurd e (by decide +kernel))⟩,
    ⟨_, (h.1 (sArr (win1 .armed)) (fragC none)).2.1 (named .armed [] none).2 rfl rfl⟩,
    ⟨_, (h.1 (sArr (win1 .armed)) (fragC (some 4))).2.2.1 (named .armed [] (some 4)).2 4 rfl rfl rfl⟩,
    ⟨_, (h.1 (sArr (win1 .done)) (fragC (some 4))).2.2.2.1 (named .done [] (some 4)).2 4 rfl (.inr ⟨rfl, .inl rfl⟩)⟩,
    ⟨_, ((h.1 (sArr (win1 .idle)) (fragC (some 4))).2.2.2.2 (named .idle [] (some 4)).2 (by
      intro p e
      cases e
      exact .inr ⟨rfl, rfl⟩) (by
      intro e
      cases e)).1 (by decide +kernel)⟩,
    ⟨_, ((h.1 (sArr { win1 .armed with hold := List.replicate 64 (fragC none) }) (fragC (some 5))).2.2.2.2
      (named .armed (List.replicate 64 (fragC none)) (some 5)).2 (by
      intro p e
      cases e
      exact .inl (by decide)) (by
      intro e
      cases e)).2 (by decide +kernel)⟩,
    ⟨_, (h.2.1 (flies (win1 .armed)) 60 _ (fragC none) .min
      ((flies (win1 .armed)).setWindow 5 { win1 .armed with queue := [{ fragC none with phase := some 4 }], took := (0, 0, 0) }) false rfl rfl
      (by decide +kernel) rfl rfl (by decide +kernel)).1 (by decide +kernel)
      { win1 .armed with queue := [{ fragC none with phase := some 4 }], took := (0, 0, 0) } rfl rfl⟩,
    ⟨_, (h.2.1 (flies { win1 .idle with hold := List.replicate 64 (fragC none) }) 60 _ (fragC none) .min State.reset false rfl rfl (by decide +kernel)
      rfl rfl (by decide +kernel)).2 (by decide +kernel)⟩,
    ⟨_, (h.2.2.1 (sArr (win1 .armed)) (ueFrag []) (by decide) (by decide) (by decide) (by decide +kernel)).1 rfl⟩,
    ⟨_, ((h.2.2.1 (sArr Window.reset) (ueFrag [1]) (by decide) (by decide) (by decide) (by decide +kernel)).2 (by decide)).1 _ (reached (by decide +kernel)).choose_spec⟩,
    ⟨_, ((h.2.2.1 (sArr (ueWin .armed)) (ueFrag [1]) (by decide) (by decide) (by decide) (by decide +kernel)).2 (by decide)).2.1 _ (reached (by decide +kernel)).choose_spec⟩,
    ⟨_, ((h.2.2.1 (sArr { ueWin .idle with hold := List.replicate 64 (fragC none) }) (ueFrag [1]) (by decide) (by decide) (by decide)
      (by decide +kernel)).2 (by decide)).2.2 (by decide +kernel)⟩,
    ⟨_, h.2.2.2.1 _ 5 (fragC (some 4)) [] 4 rfl rfl rfl (by decide +kernel)⟩,
    ⟨_, (h.2.2.2.2 _ 5 0 rfl (by decide)).1 rfl⟩, ⟨_, (h.2.2.2.2 _ 5 0 rfl (by decide)).2 (by decide)⟩⟩

/-- A placement that window 5's phase began. -/
def aPlaced (what : Placed) : Placement := { id := 7, window := 5, phase := 4, bad := [], sent := [], what := what }
def delivers (s : State) (what : Placed) : Prop := ∃ u, exec (.placementDeliver 7) { s with placements := [aPlaced what] } = .next u
def sLaid (e : Entry) : State := { sArr (win1 .armed) with entries := [e] }
/-- An entry of one gang of one workgroup, not placed yet. -/
def unplaced : Entry := { ent with placed := 0, record := { words := (List.replicate 64 0).set 7 1 } }
def aUe (sends : Nat) : Placed := .ue 9 0 5 0 0 4 true [1] sends
def sSig (w : Window) : State := { withBuf (buf .empty true) (thr .user []) with windows := [(5, { w with latch := some ⟨2, 0x100⟩ })] }
def signals (s : State) : Prop := ∃ u, exec (.csigArrival 5) s = .next u

/-- A placement of Ultra Ethernet that has been sent `n` times, in MODE 0. -/
def sUe (n : Nat) : State := { sArr (win1 .armed) with placements := [aPlaced (aUe n)] }
/-- A window whose entry 0 is this package. -/
def ownWin (st : PhaseState) (hold : List Fragment) : Window := { win1 st with record := (aRecord 1 1 0).set 323 0x80, hold := hold }

theorem witness_PlacementsDeliver (h : Rules.PlacementsDeliver) :
    delivers (world (thr .user [])) (.vault 0 0 0x40 none [1, 2]) ∧ delivers (sLaid unplaced) (.vault 0 0 0x40 none [1, 2])
    ∧ delivers (sArr (win1 .armed)) (.vault 0 0 0x40 none [1, 2]) ∧ delivers (sArr (win1 .armed)) (.global 0x40 [1, 2])
    ∧ delivers (sArr (win1 .armed)) (.global (mkPa 1 0 0x40) [1, 2]) ∧ delivers (sArr (win1 .armed)) (.window 0 6 0 0 4 [1])
    ∧ delivers (sArr (win1 .armed)) (.window 0 5 0 0 4 [1]) ∧ delivers (sArr (ownWin .idle (List.replicate 64 (fragC none)))) (.window 0 5 0 0 4 [1])
    ∧ delivers (sArr (win1 .armed)) (.window 1 5 0 0 4 [1]) ∧ delivers (sArr (win1 .armed)) (aUe 0)
    ∧ (∃ u, exec (.ueRetransmit 7) (sUe 1) = .next u) ∧ (∃ u, exec (.ueTransportAck 7) (sUe 1) = .next u)
    ∧ signals { sSig (win1 .armed) with placements := [aPlaced (.global 0x40 [1])] }
    ∧ signals (sSig { win1 .armed with sigs := [(3, false)] }) ∧ signals (sSig { win1 .armed with sigs := [(3, true)] })
    ∧ signals (sSig { win1 .failed with failSignal := true })
    ∧ signals { sArr { win1 .failed with failSignal := true, latch := some ⟨2, 0x100⟩ } with clk := 1 } := by
  have none_ (s : State) (hs : s.placements = []) : ∀ p ∈ s.placements, p.window = 5 → p.waited = false := by
    rw [hs]
    simp
  have k (s : State) (what : Placed) := h.1 { s with placements := [aPlaced what] } 7 (aPlaced what) rfl rfl
  have ue (n : Nat) := (k (sArr (win1 .armed)) (aUe n)).2.2.2.2 9 0 5 0 0 4 true [1] n rfl
  exact ⟨⟨_, ((k (world (thr .user [])) _).1 0 0 0x40 none [1, 2] rfl).1 grp rfl (by decide) (by decide +kernel) rfl⟩,
    ⟨_, ((k (sLaid unplaced) _).1 0 0 0x40 none [1, 2] rfl).2.1 rfl⟩,
    ⟨_, ((k (sArr (win1 .armed)) _).1 0 0 0x40 none [1, 2] rfl).2.2 rfl (by decide +kernel)⟩,
    ⟨_, ((k (sArr (win1 .armed)) _).2.1 0x40 [1, 2] rfl).1 (by decide +kernel)⟩,
    ⟨_, ((k (sArr (win1 .armed)) _).2.1 (mkPa 1 0 0x40) [1, 2] rfl).2 (by decide +kernel)⟩,
    ⟨_, ((k (sArr (win1 .armed)) _).2.2.1 6 0 0 4 [1] rfl).1 (by decide +kernel) (by decide +kernel)⟩,
    ⟨_, (((k (sArr (win1 .armed)) (.window 0 5 0 0 4 [1])).2.2.1 5 0 0 4 [1] rfl).2 rfl (by decide +kernel)).1 _ true (reached (by decide +kernel)).choose_spec⟩,
    ⟨_, (((k (sArr (ownWin .idle (List.replicate 64 (fragC none)))) (.window 0 5 0 0 4 [1])).2.2.1 5 0 0 4 [1] rfl).2 rfl
      (by decide +kernel)).2 (by decide +kernel)⟩,
    ⟨_, (k (sArr (win1 .armed)) _).2.2.2.1 1 5 0 0 4 [1] rfl (by decide)⟩,
    (by
      rcases e : Config.ueRequires 9 with _ | _
      · exact ⟨_, (ue 0).1 rfl e⟩
      · exact ⟨_, (ue 0).2.1 rfl e (by decide +kernel)⟩),
    ⟨_, (ue 1).2.2.1 (by decide)⟩, ⟨_, (ue 1).2.2.2 (by decide) (by decide)⟩,
    ⟨_, (h.2 _ 5 ⟨2, 0x100⟩ rfl (by decide +kernel)).1 ⟨_, List.mem_singleton.mpr rfl, rfl, rfl⟩⟩,
    ⟨_, ((h.2 _ 5 ⟨2, 0x100⟩ rfl (by decide +kernel)).2 (none_ _ rfl)).1 3 [] rfl rfl (by decide +kernel)⟩,
    ⟨_, ((h.2 _ 5 ⟨2, 0x100⟩ rfl (by decide +kernel)).2 (none_ _ rfl)).2.1 3 [] rfl rfl (by decide +kernel) rfl (by decide +kernel)⟩,
    ⟨_, ((h.2 _ 5 ⟨2, 0x100⟩ rfl (by decide +kernel)).2 (none_ _ rfl)).2.2.2.1 rfl (by decide +kernel) (by decide +kernel)⟩,
    ⟨_, ((h.2 _ 5 ⟨2, 0x100⟩ rfl (by decide +kernel)).2 (none_ _ rfl)).2.2.2.2 rfl (by decide +kernel)⟩⟩

/-- A record in the window table for window 0, with program 0 loaded. -/
def sBind (r : List Byte) : State :=
  { State.reset with wtable := swrite [] 0 r, programs := [(0, { Program.reset with loaded := [.cend cbare] })] }
def sBound (st : PhaseState) : State := { State.reset with windows := [(0, { win1 st with owner := 1, late := 65535, hold := [fragC none] })] }
def sProg (w : DWord) : State := { State.reset with programs := [(3, { Program.reset with words := [(0, w)] })] }

theorem witness_Bindings (h : Obligations.Bindings) :
    (∃ u, exec (.windowBind 0 (.super 0)) (sBind (aRecord 1 1 0)) = .next u) ∧ (∃ u, exec (.windowBind 0 (.super 0)) (sBind []) = .next u)
    ∧ (∃ u, exec (.windowUnbind 0 (.super 1)) (sBound .armed) = .next u) ∧ (∃ u, exec (.windowUnbind 0 (.super 1)) (sBound .done) = .next u)
    ∧ (∃ u, exec (.programLoad 3 1) (sProg (BitVec.ofNat 64 (leNat (encode (.cend cbare))))) = .next u)
    ∧ (∃ u, exec (.programLoad 3 1) (sProg 0x3F) = .next u) ∧ ∃ u, exec (.endpointWrite 1023 7 0xFFFFFFFFFFFFFFFF .sys) State.reset = .next u :=
  ⟨((h.1 (sBind (aRecord 1 1 0)) 0 0 (by decide) (by decide +kernel)).1 (by decide +kernel)).elim fun t e => ⟨t, e.1⟩,
    ⟨_, (h.1 (sBind []) 0 0 (by decide) (by decide +kernel)).2 0 (by decide +kernel)⟩,
    ⟨_, (h.2.1 (sBound .armed) 0 rfl).1 rfl⟩, ⟨_, (h.2.1 (sBound .done) 0 rfl).2 (by decide +kernel) fun _ hk => absurd (show _ ∈ ([] : List PodPacket) from hk) (by simp)⟩,
    ⟨_, (h.2.2.1 (sProg (BitVec.ofNat 64 (leNat (encode (.cend cbare))))) 3 1 (by decide) (by decide) (by decide +kernel)).1 [.cend cbare]
      (by decide +kernel) (by
        intro i hi
        cases List.mem_singleton.mp hi
        exact trivial) (by
        intro i hi
        cases hi
        exact trivial)⟩,
    ⟨_, (h.2.2.1 (sProg 0x3F) 3 1 (by decide) (by decide) (by decide +kernel)).2 ⟨0x3F, by decide +kernel, by decide +kernel⟩⟩,
    ⟨_, h.2.2.2 State.reset 1023 7 0xFFFFFFFFFFFFFFFF (by decide) (by decide)⟩⟩

/-! ### Queues, entries and gangs -/

/-- Queue 0 of partition 0. -/
def sQueue (q : Queue) : State := State.reset.setQueue 0 0 q
def openQ : Queue := { Queue.reset with en := true, ring := 0x20000 }
def appendedAt (l : Level) : Appended := { level := l, launcher := none, notBefore := none, latchLast := none, killed := false }
/-- A queue with one record appended. -/
def busyQ : Queue := { openQ with tail := 1, appended := [appendedAt .user] }
def gives (i : Instr) (s : State) : Prop := ∃ u, exec i s = .next u

/-- A LAUNCH of this clk, by the first thread of the wave in slot 1 of core 0, has appended to the queue. -/
def aLaunched : Launched := { part := 0, queue := 0, place := 32, d := some 4, pc := 0x1000 }
def sUnlaunch : State := { sQueue busyQ with launched := [aLaunched], waves := [{ wav (thr .user []) with slot := 1 }] }

theorem witness_QueueRegisters (h : Rules.QueueRegisters) :
    gives (.qdoorWrite 0 0 0x10003 .super) (sQueue openQ) ∧ gives (.qdoorWrite 0 0 0x10003 .super) State.reset
    ∧ gives (.qcfgWrite 0 63 0xE00A0001) State.reset ∧ gives (.qcfgWrite 0 0 0) sUnlaunch ∧ gives (.qringWrite 0 0 0x3E5 0xFFFFFFFF) State.reset
    ∧ gives (.qrootWrite 0 0 0x3F1 0xFFFFFFFF) State.reset ∧ gives (.qphalWrite 0 0 0x3EE 5) (sQueue busyQ) ∧ gives (.srootWrite 0 0x3F3 1) State.reset :=
  ⟨⟨_, (h (sQueue openQ) 0 0 0x10003 (by decide +kernel) (by decide)).1 .super .super 3 rfl rfl (by decide +kernel) (by decide) (by decide +kernel)
      (by decide +kernel)⟩,
    ⟨_, (h State.reset 0 0 0x10003 (by decide +kernel) (by decide)).2.1 .super (.inr (.inl (by decide +kernel)))⟩,
    ⟨_, (h State.reset 0 63 0xE00A0001 (by decide +kernel) (by decide)).2.2.1 (.inl (by decide +kernel))⟩,
    ((h sUnlaunch 0 0 0 (by decide +kernel) (by decide)).2.2.2.1 aLaunched { wav (thr .user []) with slot := 1 } (by decide) (by decide +kernel)
      (by decide +kernel)).elim fun t e => ⟨t, e.1⟩,
    ⟨_, ((h State.reset 0 0 0xFFFFFFFF (by decide +kernel) (by decide)).2.2.2.2.1 (by decide +kernel)).1⟩,
    ⟨_, ((h State.reset 0 0 0xFFFFFFFF (by decide +kernel) (by decide)).2.2.2.2.1 (by decide +kernel)).2.2.2.2.2⟩,
    ⟨_, ((h (sQueue busyQ) 0 0 5 (by decide +kernel) (by decide)).2.2.2.2.2.1 (by decide +kernel) 0x3EE).2.2⟩,
    ⟨_, (h State.reset 0 0 1 (by decide +kernel) (by decide)).2.2.2.2.2.2.2⟩⟩

theorem witness_PhaserShares (h : Rules.PhaserShares) :
    gives (.qphalWrite 0 0 0x3EE 0x00800000) State.reset ∧ gives (.qphalWrite 0 0 0x3EE 0x00800001) State.reset
    ∧ gives (.pphalWrite 0 0x357 0x40000000) State.reset ∧ gives (.pphalWrite 0 0x357 0x41000000) State.reset := by
  refine ⟨⟨_, (h State.reset 0 0 0x00800000 (by decide +kernel) (by decide)).1 (by decide +kernel) (by decide +kernel) (by decide +kernel)⟩,
    ⟨_, (h State.reset 0 0 0x00800001 (by decide +kernel) (by decide)).2.1 (.inl (by decide +kernel))⟩,
    ⟨_, (h State.reset 0 0 0x40000000 (by decide +kernel) (by decide)).2.2.1 ⟨by decide +kernel, ?_, ?_⟩⟩,
    ⟨_, (h State.reset 0 0 0x41000000 (by decide +kernel) (by decide)).2.2.2 fun e => absurd e.1.1 (by decide +kernel)⟩⟩
  · intro o ho hne
    rw [show State.reset.partsNow = [0] by decide +kernel] at ho
    exact absurd (List.mem_singleton.1 ho) hne
  · intro x hx
    rw [show (State.reset.partition 0).queues = [] by decide +kernel] at hx
    cases hx

/-- A record: 1 x 1 threads of 1 wave of 1 block, of 3 gangs, with flags. -/
def recWords (flags : Word) : List Word :=
  [0x1000, 0, 3, 0, 1, 1, 65536, 0x00010101, 0, flags] ++ List.replicate 54 0
def entQ (flags : Word) : Entry := { ent with record := { words := recWords flags }, gangs := some 3, placed := 0 }
/-- The entry 0 of queue 0 with its gang 1. -/
def sEnt (e : Entry) : State :=
  { sQueue { openQ with tail := 1 } with entries := [e], gangs := [gang0], wgs := [grp], waves := [wav (thr .user [])], nextId := 100 }

theorem witness_PreemptRequests (h : Rules.PreemptRequests) :
    gives (.preqSave 0 0 5) State.reset ∧ gives (.preqKill 0 0 0) { sEnt (entQ 0) with entries := [] } ∧ gives (.preqSave 0 0 0) (sEnt (entQ 0))
    ∧ gives (.preqSave 0 0 0) (sEnt (entQ 4)) ∧ gives (.preqKill 0 0 0) (sEnt (entQ 4)) := by
  have k (e : Entry) := (h (sEnt e) 0 0 0 (by rfl) (by decide) (by decide)).2
  exact ⟨⟨_, ((h State.reset 0 0 5 (by decide +kernel) (by decide) (by decide)).1 (by decide +kernel)).1⟩,
    ⟨_, ((h { sEnt (entQ 0) with entries := [] } 0 0 0 (by decide +kernel) (by decide) (by decide)).1 (by decide +kernel)).2⟩,
    ⟨_, (k (entQ 0) ⟨by decide +kernel, by decide +kernel⟩ (entQ 0) (by decide +kernel)).1 (by decide +kernel)⟩,
    ⟨_, (k (entQ 4) ⟨by decide +kernel, by decide +kernel⟩ (entQ 4) (by decide +kernel)).2.1 (by decide +kernel)⟩,
    ((k (entQ 4) ⟨by decide +kernel, by decide +kernel⟩ (entQ 4) (by decide +kernel)).2.2 (by decide +kernel) (by decide +kernel)).elim
      fun t e => ⟨t, e.1⟩⟩

/-- The small state with a thread that a breakpoint halted. -/
def sHalt (halted : Bool) : State :=
  sEnt (entQ 4) |> fun s => { s with waves := [wav { thr .user [] with run := if halted then .halted 7 0x1008 else .running }] }

theorem witness_DebugControl (h : Rules.DebugControl) :
    gives (.dbgctlGo 0 0 1) (sHalt true) ∧ gives (.dbgctlGo 0 0 1) (sHalt false) ∧ gives (.dbgctlKill 0 0 1) (sHalt true)
    ∧ gives (.dbgctlKill 0 0 1) { sHalt true with entries := [] } :=
  ⟨⟨_, (h (sHalt true) 0 0 1 _ (by decide) (by decide) rfl).1 (by decide +kernel)⟩,
    ⟨_, (h (sHalt false) 0 0 1 _ (by decide) (by decide) rfl).2.1 (by decide +kernel)⟩,
    ⟨_, (h (sHalt true) 0 0 1 _ (by decide) (by decide) rfl).2.2.1 (entQ 4) (by decide +kernel) rfl (by decide +kernel) (by decide +kernel)⟩,
    ⟨_, (h { sHalt true with entries := [] } 0 0 1 _ (by decide) (by decide) rfl).2.2.2 (by decide +kernel)⟩⟩

/-- A ring whose first slot holds a record. -/
def sRing1 (ws : List Word) : State := { sQueue busyQ with mem := swrite [] 0x20000 (bytesOf ws), nextId := 100 }
/-- An entry that waits to become eligible, with a dependence. -/
def waitsFor (dep : DWord) : Entry :=
  { entQ 4 with eligibleAt := none, record := { words := (recWords 4).set 16 (dep.extractLsb' 0 32) |>.set 17 (dep.extractLsb' 32 32) }, settled := [(dep, false)] }
def sDep (dep : DWord) : State :=
  { sQueue { openQ with tail := 4, head := 2, finished := [(1, .killed)] } with entries := [{ waitsFor dep with number := 2 }], nextId := 100 }

theorem witness_EntryLife (h : Rules.EntryLife) :
    gives (.recordCheck 0 0) (sRing1 []) ∧ gives (.recordCheck 0 0) (sRing1 (recWords 4))
    ∧ gives (.recordCheck 0 0) (sRing1 ((recWords 5).set 2 0x1000000))
    ∧ gives (.entryEligible 0 0 2) (sDep 0x0000000020000001) ∧ gives (.entryEligible 0 0 2) (sDep 0)
    ∧ gives (.entryComplete 0 0 0) { sEnt { entQ 4 with status := some .done } with gangs := [] } := by
  have none_ (ws : List Word) : ∀ x ∈ (sRing1 ws).entriesOf 0 0, x.allPlaced = true := fun _ hx => nomatch hx
  have one (d : DWord) : ∀ x y, x ∈ (sDep d).entries → y ∈ (sDep d).entries → x.id = y.id → x = y := fun x y hx hy _ =>
    (List.mem_singleton.1 hx).trans (List.mem_singleton.1 hy).symm
  have check (ws : List Word) := h.1 (sRing1 ws) 0 0 (appendedAt .user) [] Nat.zero_lt_one rfl rfl (none_ _)
  exact ⟨⟨_, (check [] (by decide +kernel) (by decide +kernel)).1 (by decide +kernel)⟩,
    ⟨_, (check (recWords 4) (by decide +kernel) (by decide +kernel)).2.2 (by decide +kernel) (by decide +kernel)⟩,
    ⟨_, (check ((recWords 5).set 2 0x1000000) (by decide +kernel) (by decide +kernel)).2.1 (by decide +kernel) (by decide +kernel)⟩,
    ⟨_, (h.2.1 (sDep 0x0000000020000001) 0 0 2 _ rfl rfl rfl (one _)).1 (by decide +kernel)⟩,
    ⟨_, (h.2.1 (sDep 0) 0 0 2 _ rfl rfl rfl (one _)).2 (by decide +kernel) (by decide +kernel) (by decide +kernel) (by decide +kernel)
      (by decide +kernel) (by decide +kernel) 2 rfl⟩,
    (h.2.2 _ 0 0 0 _ .done (by rfl) (by decide +kernel) rfl (by decide +kernel)).elim fun t e => ⟨t, e.1⟩⟩

/-- An entry with three gangs to place, and nothing resident. -/
def sPlace : State := { sEnt (entQ 4) with clk := 1, gangs := [], wgs := [], waves := [] }

theorem witness_GangsPlaced (h : Rules.GangsPlaced) :
    gives (.gangPlace 0) sPlace ∧ sPlace.fitsAt 0 (entQ 4).record.demand = true ∧ sPlace.candidate (entQ 4) = true
    ∧ (∃ g ws, (sPlace.placeMember (entQ 4) 1 0 0).wgs = sPlace.wgs ++ [g] ∧ (sPlace.placeMember (entQ 4) 1 0 0).waves = sPlace.waves ++ ws)
    ∧ gives (.placementStarvation 0 0 0) sPlace :=
  ⟨⟨_, h.1 sPlace 0 0 (entQ 4) (by decide +kernel) rfl (by decide +kernel) (by decide +kernel) (by decide +kernel)⟩,
    (h.2.1 sPlace (entQ 4) 0 (by decide +kernel)).1, (h.2.2.1 sPlace 0 (entQ 4) (by decide +kernel)).2.2.1,
    (h.2.2.2.1 sPlace (entQ 4) 1 0 0 (by decide +kernel)).elim fun g e => e.elim fun ws e => ⟨g, ws, e.1, e.2.1⟩,
    ⟨_, h.2.2.2.2 sPlace 0 0 0⟩⟩

/-- A gang that PREQ asked for, in a queue with a pool of some 64 KiB units. -/
def sPreq (saving : Bool) (units : DWord) : State :=
  { sEnt (entQ 4) |>.setQueue 0 0 { openQ with tail := 1, slice := 1, ctx := 0x1000000 + 2 * units } with
    gangs := [{ gang0 with asked := true, saving := saving, reserved := if saving then some (0x1000000, 281152) else none }], clk := 1024 }
/-- A gang whose one wave has exited. -/
def sRetires : State := { sPlace with gangs := [gang0], wgs := [grp], waves := [wav { thr .user [] with run := .exited }] }
def theSaved : SavedGang :=
  { gang := gang0, wgs := [grp], waves := [wav (thr .user [])], ringOps := [], frame := 0x1000000, frameSize := 65536 }
def sSaved : State := { sPlace with saved := [theSaved] }

theorem witness_GangsSaved (h : Rules.GangsSaved) :
    gives (.sliceExpiry 1) (sPreq false 1) ∧ gives (.sliceExpiry 1) { sPreq false 1 with clk := 1023 } ∧ gives (.gangSave 1) (sPreq false 63)
    ∧ gives (.gangSave 1) (sPreq false 0) ∧ gives (.gangSave 1) sRetires ∧ gives (.gangSave 1) (sPreq true 63) ∧ gives (.gangRestore 0) sSaved :=
  ⟨⟨_, (h.1 (sPreq false 1) 1 _ rfl).1 (by decide +kernel) (by decide +kernel)⟩,
    ⟨_, (h.1 { sPreq false 1 with clk := 1023 } 1 _ rfl).2.1 (.inr (by decide +kernel))⟩,
    ⟨_, ((h.1 (sPreq false 63) 1 _ rfl).2.2.1 rfl rfl (by decide +kernel) (by decide +kernel)).1 (0x1000000, 281152) (by decide +kernel) (by decide +kernel)⟩,
    ⟨_, ((h.1 (sPreq false 0) 1 _ rfl).2.2.1 rfl rfl (by decide +kernel) (by decide +kernel)).2 0 0 (by decide +kernel) (by decide +kernel)
      (by decide +kernel)⟩,
    ⟨_, (h.1 sRetires 1 _ rfl).2.2.2.1 rfl (by decide +kernel) fun e => nomatch e⟩,
    ((h.1 (sPreq true 63) 1 _ rfl).2.2.2.2 rfl rfl (by decide) (by decide +kernel) (by decide +kernel) (0x1000000, 281152) rfl).elim fun t e =>
      e.elim fun _ e => ⟨t, e.1⟩,
    ⟨_, (h.2 sSaved 0 0 (entQ 4) theSaved [] (fun _ hg => nomatch hg) (by decide +kernel) (by decide +kernel) (by decide +kernel)
      (by decide +kernel)).1⟩⟩

theorem witness_WorkgroupsRetire (h : Rules.WorkgroupsRetire) :
    gives (.workgroupRetire 2) sRetires ∧ gives (.workgroupRetire 2) (sEnt (entQ 4)) ∧ gives (.jobBinding 0 none) State.reset :=
  ⟨(h.1 sRetires 2 grp gang0 rfl rfl rfl rfl (by decide +kernel) fun y hy _ => by
      cases List.mem_singleton.mp hy
      decide +kernel).elim fun t e => ⟨t, e.1⟩,
    ⟨_, h.2.1 (sEnt (entQ 4)) 2 grp grp rfl (List.mem_singleton_self _) rfl (.inl ⟨wav (thr .user []), by decide +kernel, by decide +kernel⟩)⟩,
    ⟨_, h.2.2 State.reset 0 none (by decide +kernel)⟩⟩

/-! ### Partitions, the fabric, the package -/

def sLay (f : System → System) : State := { State.reset with system := f System.reset }

theorem witness_LayoutChanges (h : Rules.LayoutChanges) :
    gives (.partctlGo 0 none) State.reset ∧ gives (.partctlGo 0x80000004 none) State.reset ∧ gives (.partctlGo 0x80000000 (some 0)) State.reset
    ∧ gives (.partctlGo 0x80000000 none) { State.reset with parts := [(0, { Partition.reset with ring := { Ring.reset with slots := [(0, { tag := 1, payload := [], ghost := none })] } })] }
    ∧ gives (.partctlGo 0x80000000 none) { State.reset with frames := [(0, 3)] } ∧ gives (.partctlGo 0x80000000 none) State.reset
    ∧ gives .layoutChangeDone (sLay fun y => { y with newLayout := some 0 })
    ∧ (sLay fun y => { y with newLayout := some 0, shown := 3 }).showLayout.system.shown.getLsbD 1 = true := by
  have free (e : (0x80000000 : Word).toNat % 8 ∈ [4, 5, 6] ∨ ∃ d, d < 8 ∧ (0 : Nat) ≠ 0 ∧ (0 : BitVec 8).getLsbD d = false) : False :=
    e.elim (fun e => absurd e (by decide)) fun ⟨_, _, e, _⟩ => e rfl
  exact ⟨⟨_, (h.1 State.reset 0 none).1 (.inl (by decide))⟩, ⟨_, ((h.1 State.reset 0x80000004 none).2 (by decide) rfl).1 (.inl (by decide))⟩,
    ⟨_, ((h.1 State.reset 0x80000000 (some 0)).2 (by decide) rfl).2.1 free ⟨0, by decide +kernel, .inr (.inr rfl)⟩⟩,
    ⟨_, ((h.1 _ 0x80000000 none).2 (by decide) rfl).2.2.1 free (by decide +kernel) ⟨0, by decide +kernel, _, List.mem_singleton.2 rfl, by decide⟩⟩,
    ⟨_, ((h.1 _ 0x80000000 none).2 (by decide) rfl).2.2.2.1 free (by decide +kernel) (by decide +kernel)
      ⟨_, List.mem_singleton.2 rfl, by decide, by decide +kernel, .inl (by decide)⟩⟩,
    ⟨_, ((h.1 State.reset 0x80000000 none).2 (by decide) rfl).2.2.2.2 free (by decide +kernel) (by decide +kernel) (by decide +kernel)⟩,
    (h.2.2 (sLay fun y => { y with newLayout := some 0 }) 0 rfl rfl rfl).elim fun t e => ⟨t, e.1⟩,
    (h.2.1 (sLay fun y => { y with newLayout := some 0, shown := 3 }) 0 rfl).2.2.2.1 1 (by decide)⟩

theorem witness_RingsAndFrames (h : Rules.RingsAndFrames) :
    gives (.ringClear 0) State.reset ∧ gives (.fptsetSelect 9437183) State.reset ∧ gives (.fptsetSelect 9437184) State.reset
    ∧ gives (.fptsetWrite 0x41 (.super 1)) State.reset ∧ gives (.fptsetWrite 0x41 (.super 0)) State.reset :=
  ⟨⟨_, h.1 State.reset 0 (by decide +kernel) fun _ ho => nomatch ho⟩, ⟨_, (h.2 State.reset 9437183).1 (by decide)⟩,
    ⟨_, (h.2 State.reset 9437184).2.1 (by decide)⟩, ⟨_, ((h.2 State.reset 0x41).2.2.2 1).1 (by decide +kernel)⟩,
    ⟨_, ((h.2 State.reset 0x41).2.2.2 0).2 (by decide +kernel)⟩⟩

/-- Die 0 with some routers. -/
def sDie (f : Die → Die) : State := { State.reset with dies := [(0, f Die.reset)], clk := 1024 }

/-- Die 0 holds one dirty line of a peer package, in class `.BNC`. -/
def sPeerLine : State := sDie fun d => { d with lines := [(2 ^ 40 + 1, { filling := false, dirty := true, cls := .bnc, only := true })] }

theorem witness_SlicesAndRouters (h : Rules.SlicesAndRouters) :
    gives (.slcfgWrite 0 0xFE) (sDie fun d => { d with slMap := 0x249249 }) ∧ gives (.slcfgWrite 0 0xFE) (sDie id)
    ∧ gives (.slmapWrite 0 0) (sDie id) ∧ gives (.slmapWrite 0 0) sPeerLine ∧ gives (.slmapWrite 0 0) (sDie fun d => { d with slOn := 0xFE })
    ∧ gives (.routerPowerDown 0 63) (sDie id) ∧ gives (.routerPowerDown 0 63) State.reset ∧ gives (.routerWake 0 63) (sDie id)
    ∧ gives (.routerWake 0 63) State.reset
    ∧ gives (.routerWake 0 1) (sDie fun d => { d with routers := [(1, { asleep := false, idleSince := 0, awakeUntil := 1025 })] }) :=
  have none_ (s : State) (e : (s.die 0).lines = []) : ∀ l ∈ (s.die 0).lines, l.2.asked = none ∧ s.peerDram (128 * l.1) = false := by
    rw [e]
    simp
  ⟨⟨_, (h.1 (sDie fun d => { d with slMap := 0x249249 }) 0 0xFE).1 (none_ _ rfl) rfl (by decide) (by decide +kernel) (by decide +kernel)⟩,
    ⟨_, (h.1 (sDie id) 0 0xFE).2.1 (.inr (.inr ⟨0, by decide, by decide +kernel⟩))⟩,
    ⟨_, (h.1 (sDie id) 0 0).2.2.1 (none_ _ rfl) rfl (by decide +kernel)⟩,
    ((h.1 sPeerLine 0 0).2.2.2.1 (2 ^ 40 + 1) _ rfl rfl rfl (by decide +kernel) (by decide +kernel) rfl (by decide +kernel) (by decide +kernel)).elim
      fun t e => e.elim fun _ e => ⟨t, e.1⟩,
    ⟨_, (h.1 (sDie fun d => { d with slOn := 0xFE }) 0 0).2.2.2.2.1 (.inr ⟨0, by decide, by decide +kernel⟩)⟩,
    ⟨_, (h.2 (sDie id) 0 63 (by decide)).1 (by decide +kernel)⟩, ⟨_, (h.2 State.reset 0 63 (by decide)).2.1 (by decide +kernel)⟩,
    ⟨_, ((h.2 (sDie id) 0 63 (by decide)).2.2.1 (by decide +kernel)).1 (.inr (by decide +kernel))⟩,
    ⟨_, ((h.2 State.reset 0 63 (by decide)).2.2.1 (by decide +kernel)).2 (by decide +kernel)⟩,
    ⟨_, (h.2 (sDie fun d => { d with routers := [(1, { asleep := false, idleSince := 0, awakeUntil := 1025 })] }) 0 1 (by decide)).2.2.2 (by decide +kernel)⟩⟩

/-- A packet of package 1 for this one. -/
def pkt (stream index : Nat) (x : PodPayload) : PodPacket :=
  { src := 1, dst := 0, hop := 0, part := 0, number := 7, cls := .min, stream := stream, index := index, full := false, payload := x }
def sFab (f : Fabric → Fabric) : State := { State.reset with fabric := f Fabric.reset, clk := 42000 }
def aFrag : RemoteFragment := { window := 5, off := 0, data := [1, 2, 3, 4], seq := 0, src := 1, port := 32, phase := 4 }
def aWrite : PodPayload := .write 0x100 [1] [] none 3
def anAtomic : PodPayload := .atomic .add true true 0x100 1 2 none 3
/-- Window 5 holds 64 fragments and has the sender's package as its contributor 0. -/
def sStuck : State := sArr { ownWin .idle (List.replicate 64 (fragC none)) with record := ((aRecord 1 1 0).set 320 1).set 323 0x80 }
def receives (s : State) (k : PodPacket) : Prop := gives (.podPacketReceive k) s

theorem none_waits {s : State} (hs : s.fabric = Fabric.reset) (k : PodPacket) : ∀ x ∈ s.fabric.heldMin ++ s.fabric.ingress,
    ¬ (x.src = k.src ∧ x.part = k.part ∧ x.number = k.number) := by
  rw [hs]
  exact fun x hx => absurd (show x ∈ ([] : List PodPacket) from hx) (by simp)
theorem none_seen {s : State} (hs : s.fabric = Fabric.reset) (k : PodPacket) : (k.src, k.part, k.number) ∉ s.fabric.seen := by
  rw [hs]
  exact fun hx => absurd (show _ ∈ ([] : List (Nat × Nat × Nat)) from hx) (by simp)

theorem witness_PodPackets (h : Rules.PodPackets) :
    receives State.reset { pkt 0 0 aWrite with hop := 2 } ∧ receives State.reset { pkt 0 0 aWrite with full := true }
    ∧ receives State.reset { pkt 0 0 aWrite with dst := 3 } ∧ receives (sFab fun f => { f with ingress := [pkt 0 0 aWrite] }) (pkt 0 0 aWrite)
    ∧ receives (sFab fun f => { f with seen := [(1, 0, 7)] }) (pkt 0 0 aWrite) ∧ receives State.reset (pkt 1 2 aWrite)
    ∧ receives sStuck (pkt 0 0 (.fragment aFrag)) :=
  ⟨⟨_, (h State.reset _).1 (by decide)⟩, ⟨_, (h State.reset _).2.1 rfl rfl⟩,
    ((h State.reset { pkt 0 0 aWrite with dst := 3 }).2.2.1 rfl rfl (by decide)).elim fun _ e => ⟨_, e.2⟩,
    ⟨_, (h (sFab fun f => { f with ingress := [pkt 0 0 aWrite] }) (pkt 0 0 aWrite)).2.2.2.1 rfl rfl rfl
      ⟨_, List.mem_singleton_self _, rfl, rfl, rfl⟩⟩,
    ⟨_, ((h (sFab fun f => { f with seen := [(1, 0, 7)] }) (pkt 0 0 aWrite)).2.2.2.2 rfl rfl rfl fun x hx =>
      absurd (show x ∈ ([] : List PodPacket) from hx) (by simp)).1 (by decide) nofun⟩,
    ⟨_, ((h State.reset (pkt 1 2 aWrite)).2.2.2.2 rfl rfl rfl (none_waits rfl _)).2.1 (none_seen rfl _) (by decide) (by decide +kernel)⟩,
    have k := ((h sStuck (pkt 0 0 (.fragment aFrag))).2.2.2.2 rfl rfl rfl (none_waits rfl _)).2.2.1 (none_seen rfl _) (.inl rfl) (by decide +kernel)
    (Nat.lt_or_ge Config.ingressBytes (sStuck.fabric.waitingBytes (pkt 0 0 (.fragment aFrag)).diePort (fun _ => true)
        + (pkt 0 0 (.fragment aFrag)).bytes)).elim (fun e => ⟨_, k.1 e⟩) fun e => (k.2.2 e).elim fun _ e => ⟨_, e.1⟩⟩

theorem witness_PodPackets_delivered (h : Rules.PodPackets) :
    receives State.reset (pkt 1 0 aWrite) ∧ receives State.reset (pkt 0 0 (.read 0x100 32 3))
    ∧ receives { State.reset with poison := [8] } (pkt 0 0 (.read 0x100 32 3)) ∧ receives State.reset (pkt 0 0 anAtomic)
    ∧ receives State.reset (pkt 0 0 (.fetch 0x100 true 3)) ∧ receives (sArr Window.reset) (pkt 0 0 (.fragment aFrag)) := by
  have taken (s : State) (x : PodPayload) (stream : Nat) (hs : s.fabric = Fabric.reset) (hp : s.system.pkgid = 0) :=
    ((h s (pkt stream 0 x)).2.2.2.2 hp.symm rfl hp.symm (none_waits hs _)).2.2.2 (none_seen hs _) (.inr (Nat.zero_le _))
      (congrArg Fabric.heldMin hs) (congrArg Fabric.ingress hs)
  exact ⟨⟨_, (taken State.reset aWrite 1 rfl rfl).1 _ _ _ _ _ rfl (.inl (by decide +kernel))⟩,
    ⟨_, (taken State.reset (.read 0x100 32 3) 0 rfl rfl).2.1 _ _ _ rfl (by decide +kernel) (by decide +kernel)⟩,
    ((taken { State.reset with poison := [8] } (.read 0x100 32 3) 0 rfl rfl).2.2.1 _ _ _ rfl (by decide +kernel) (by decide +kernel)).elim
      fun _ e => e.elim fun _ e => ⟨_, e.1⟩,
    ((taken State.reset anAtomic 0 rfl rfl).2.2.2.1 _ _ _ _ _ _ _ _ rfl).elim fun _ e => ⟨_, e.1⟩,
    ((taken State.reset (.fetch 0x100 true 3) 0 rfl rfl).2.2.2.2.1 _ _ rfl (by decide +kernel) (by decide +kernel)).elim fun _ e => ⟨_, e.1⟩,
    ⟨_, (taken (sArr Window.reset) (.fragment aFrag) 0 rfl rfl).2.2.2.2.2 aFrag _ _ rfl (by decide +kernel) rfl rfl⟩⟩

def keptP (plane : Nat) (resent : Option Bool) : Kept :=
  { id := 9, packet := pkt 2 0 aWrite, plane := plane, sentAt := 0, moved := false, resent := resent }
/-- A packet of the same stream that waits until the stream is free. -/
def waitsBehind : Kept := { keptP 256 none with id := 10 }
def sKept (ks : List Kept) : State := sFab fun f => { f with planes := 3, kept := ks, ways := [((0, 2), 1)] }
def sCode (c : Nat) : State := sFab fun f => { f with codes := [(3, (c, 40976))] }
def ueP (sends : Nat) : Placement := { id := 9, window := 5, phase := 4, what := .ue 1 1 5 0 0 4 true [1] sends }

theorem witness_PodTransport (h : Rules.PodTransport) :
    ((sKept []).fabric.emit (keptP 256 none) 5).plane = 1
    ∧ (sKept []).fabric.planes.getLsbD ((sKept []).fabric.emit { keptP 256 none with packet := pkt 0 0 aWrite } 5).plane = true
    ∧ gives (.retransmitRequest 9) (sKept [keptP 1 none]) ∧ gives (.retransmitRequest 9) (sKept [keptP 1 (some false)])
    ∧ gives (.podRetransmitTimeout 9) (sKept [keptP 1 none]) ∧ gives (.podRetransmitTimeout 9) (sKept [keptP 256 none])
    ∧ gives (.podAck 9) (sKept [keptP 1 none]) ∧ gives (.podAck 9) (sKept [keptP 1 none, waitsBehind]) ∧ gives (.backNotice 3 15) (sCode 2)
    ∧ gives (.pacingDecay 3) (sCode 2) ∧ gives (.pacingDecay 3) (sCode 1) ∧ gives (.pacingDecay 3) State.reset
    ∧ gives (.planeFail 1) (sKept [keptP 0 none]) ∧ gives (.planeFail 1) (sKept [keptP 1 none])
    ∧ gives (.negativeAcknowledgement 9) { State.reset with placements := [ueP 1] } := by
  have one (k : Kept) (hk : k.id = 9) := h.2.1 (sKept [k]) 9 k (by simp [sKept, sFab, hk])
  exact ⟨(h.1 (sKept []).fabric (keptP 256 none) 5).2.2.1 1 (by decide) rfl,
    ((h.1 (sKept []).fabric { keptP 256 none with packet := pkt 0 0 aWrite } 5).2.2.2 rfl (by decide)).1,
    ⟨_, (one (keptP 1 none) rfl).1 (by decide) (by decide)⟩, ⟨_, (one (keptP 1 (some false)) rfl).2.1 (.inl rfl)⟩,
    ⟨_, (one (keptP 1 none) rfl).2.2.1 (by decide) (by decide +kernel)⟩, ⟨_, (one (keptP 256 none) rfl).2.2.2.1 (.inr (by decide +kernel))⟩,
    ⟨_, (one (keptP 1 none) rfl).2.2.2.2.1 (.inr (by decide +kernel))⟩,
    ⟨_, (h.2.1 (sKept [keptP 1 none, waitsBehind]) 9 (keptP 1 none) (by decide +kernel)).2.2.2.2.2 waitsBehind (by decide +kernel) (by decide +kernel)
      (by decide +kernel)⟩,
    ⟨_, (h.2.2.1 (sCode 2) 3 15).1 (by decide) (by decide)⟩, ⟨_, (h.2.2.1 (sCode 2) 3 0).2.1 (by decide +kernel) (by decide +kernel)⟩,
    ⟨_, (h.2.2.1 (sCode 1) 3 0).2.2.1 (by decide +kernel) (by decide +kernel)⟩, ⟨_, (h.2.2.1 State.reset 3 0).2.2.2 (.inl (by decide +kernel))⟩,
    (h.2.2.2.1 (sKept [keptP 0 none]) 1 (by decide) (by decide +kernel)).elim fun _ e => ⟨_, e.2.1 fun k hk => by
      cases List.mem_singleton.mp hk
      decide⟩,
    (h.2.2.2.1 (sKept [keptP 1 none]) 1 (by decide) (by decide +kernel)).elim fun _ e => ⟨_, e.2.2 (keptP 1 none) rfl fun x hx _ =>
      List.mem_singleton.mp hx⟩,
    ⟨_, h.2.2.2.2 { State.reset with placements := [ueP 1] } 9 (ueP 1) 1 1 5 0 0 4 0 true [1] rfl rfl (by decide) fun x hx _ =>
      List.mem_singleton.1 hx⟩⟩

theorem witness_HostAndErrors (h : Rules.HostAndErrors) :
    gives (.uncorrectableError (.dram 0x40)) State.reset ∧ gives (.uncorrectableError (.vault 2 4095)) (world (thr .user []))
    ∧ gives (.hostBar2Access 0x40 (.read 8)) (sLay fun y => { y with ready := true })
    ∧ gives (.hostBar2Access (576 * 2 ^ 30) (.read 8)) (sLay fun y => { y with ready := true })
    ∧ gives (.hostBar2Access 0 (.write [1])) (sLay fun y => { y with ready := true }) ∧ gives (.podTimeMeasure 1 (-5)) State.reset
    ∧ gives (.podTimeMeasure 0 (-5)) (sFab fun f => { f with planes := 3 }) ∧ gives (.podTimeMeasure 0 (-5)) { State.reset with fabric := { Fabric.reset with planes := 3 } } :=
  ⟨(h.1 State.reset 0x40 0 (by decide +kernel) (by decide)).elim fun t e => ⟨t, e.1⟩,
    (h.2.1 (world (thr .user [])) 2 4095 0 grp rfl rfl (by decide)).elim fun t e => e.elim fun _ e => ⟨t, e.1⟩,
    ((h.2.2.1 (sLay fun y => { y with ready := true }) 0x40 rfl).1 8 (by decide) (by decide) rfl rfl (by decide +kernel)).elim fun t e => ⟨t, e.1⟩,
    ((h.2.2.1 (sLay fun y => { y with ready := true }) (576 * 2 ^ 30) rfl).2.1 8 (by decide) (by decide) (by decide)).elim fun t e => ⟨t, e.1⟩,
    ⟨_, (h.2.2.1 (sLay fun y => { y with ready := true }) 0 rfl).2.2 [1] (by decide) (by decide) (by decide)⟩, ⟨_, (h.2.2.2 State.reset 1 (-5)).1 (.inr (.inr (.inr (by decide +kernel))))⟩,
    ⟨_, (h.2.2.2 (sFab fun f => { f with planes := 3 }) 0 (-5)).1 (.inl (by decide +kernel))⟩,
    ⟨_, (h.2.2.2 { State.reset with fabric := { Fabric.reset with planes := 3 } } 0 (-5)).2 (by decide +kernel) (by decide +kernel) (by decide +kernel) (by decide +kernel)⟩⟩

def sPow (f : Power → Power) : State := { State.reset with power := f Power.reset }

theorem witness_PowerControl (h : Rules.PowerControl) :
    gives (.powerEvaluate 4751 0 0) State.reset ∧ gives (.powerEvaluate 0 0 100) (sPow fun p => { p with collLimit := 0 })
    ∧ gives (.powerEvaluate 4751 0 0) (sPow fun p => { p with collLimit := 0, bulkLimit := 0 })
    ∧ gives (.powerEvaluate 4751 0 0) (sPow fun p => { p with collLimit := 0, bulkLimit := 0, drainLimit := 0 })
    ∧ gives (.powerEvaluate 4649 0 99) (sPow fun p => { p with matLimit := 0 }) ∧ gives (.powerEvaluate 0 0 0) (sPow fun p => { p with drainLimit := 0 })
    ∧ gives (.powerEvaluate 0 0 0) (sPow fun p => { p with bulkLimit := 0 }) ∧ gives (.powerEvaluate 0 0 0) (sPow fun p => { p with collLimit := 0 })
    ∧ gives (.powerEvaluate 4650 0 0) State.reset ∧ gives (.thermalTrip 115) State.reset ∧ gives (.thermalTrip 114) State.reset
    ∧ gives (.powerEvaluate 0 0 115) State.reset := by
  have p (f : Power → Power) (a t : Nat) (ha : a ≤ 8191) (ht : t < 115) := h.1 (sPow f) a 0 t rfl ha ht
  exact ⟨⟨_, (p id 4751 0 (by decide) (by decide)).1 (by decide +kernel) (by decide)⟩,
    ⟨_, (p (fun p => { p with collLimit := 0 }) 0 100 (by decide) (by decide)).2.1 (by decide +kernel) rfl (by decide)⟩,
    ⟨_, (p (fun p => { p with collLimit := 0, bulkLimit := 0 }) 4751 0 (by decide) (by decide)).2.2.1 (by decide +kernel) rfl rfl (by decide)⟩,
    ⟨_, (p (fun p => { p with collLimit := 0, bulkLimit := 0, drainLimit := 0 }) 4751 0 (by decide) (by decide)).2.2.2.1 (by decide +kernel) rfl rfl rfl⟩,
    ⟨_, (p (fun p => { p with matLimit := 0 }) 4649 99 (by decide) (by decide)).2.2.2.2.1 (by decide +kernel) (by decide)⟩,
    ⟨_, (p (fun p => { p with drainLimit := 0 }) 0 0 (by decide) (by decide)).2.2.2.2.2.1 (by decide +kernel) (by decide) (by decide)⟩,
    ⟨_, (p (fun p => { p with bulkLimit := 0 }) 0 0 (by decide) (by decide)).2.2.2.2.2.2.1 (by decide +kernel) (by decide) (by decide) (by decide)⟩,
    ⟨_, (p (fun p => { p with collLimit := 0 }) 0 0 (by decide) (by decide)).2.2.2.2.2.2.2.1 (by decide +kernel) (by decide) (by decide) (by decide)⟩,
    ⟨_, (p id 4650 0 (by decide) (by decide)).2.2.2.2.2.2.2.2 (by decide +kernel) (by decide +kernel)⟩, ⟨_, (h.2.2 State.reset 115 (by decide)).1 (by decide)⟩,
    ⟨_, (h.2.2 State.reset 114 (by decide)).2 (by decide)⟩, (h.2.1 State.reset 0 0 115 (by decide) (by decide)).elim fun t e => ⟨t, e.1⟩⟩

/-- An image of an empty body. -/
def image : List Byte := [0x57, 0x46, 0x4B, 0x5A] ++ List.replicate 252 0
def sBoot (a b : List Byte) : State := sLay fun y => { y with slotA := a, slotB := b }
def sMail : State := sLay fun y => { y with err := 2 }

/-- The clauses about images that the ROM accepts are met where the fused key verifies this one and its hash is that of no bytes. -/
theorem witness_PackageResets (h : Rules.PackageResets) (hv : Config.verify 0 (image.take 72) ((image.drop 72).take 96) = true)
    (hd : Config.sha384 [] = List.replicate 48 0) :
    System.reset.accepts image = true ∧ gives .packageReset (sBoot image []) ∧ gives .packageReset (sBoot [] image) ∧ gives .packageReset (sBoot [] [])
    ∧ gives (.recoveryImage image) sMail ∧ gives (.recoveryImage []) sMail := by
  have ok (y : System) (hr : y.revoked.getLsbD 0 = false) (hm : y.minSvn ≤ 0) : y.accepts image = true :=
    (h.1 y image).2 ⟨by decide +kernel, by decide +kernel, by decide +kernel, by decide +kernel, by decide +kernel, hr, hv, hm, hd⟩
  have no (y : System) : y.accepts [] = false := rfl
  exact ⟨ok _ rfl (by decide), ((h.2.1 (sBoot image [])).1 (ok _ rfl (by decide))).elim fun t e => ⟨t, e.1⟩,
    ((h.2.1 (sBoot [] image)).2.1 (no _) (ok _ rfl (by decide))).elim fun t e => ⟨t, e.1⟩,
    ((h.2.1 (sBoot [] [])).2.2 (no _) (no _)).elim fun t e => ⟨t, e.1⟩,
    ((h.2.2 sMail image rfl rfl).1 (ok _ rfl (by decide))).elim fun t e => ⟨t, e.1⟩, ⟨_, (h.2.2 sMail [] rfl rfl).2 (no _)⟩⟩

/-! ### The rest of the arithmetic -/

theorem witness_Nop (h : Rules.Nop) : gives (.nop (bare .f64)) (world (thr .user [])) := ⟨_, h (bare .f64) _ _ [0] (group (by decide +kernel))⟩

theorem witness_BitOperations (h : Rules.BitOperations) : gives (.popc (da 0)) (world (thr .user [(1, 7)])) :=
  ⟨_, h.2.1 (da 0) _ _ [0] (group (by decide +kernel))⟩

theorem witness_BytesAndMoves (h : Rules.BytesAndMoves) :
    gives (.movi { bare .f96 with d := .n 0, m := 1, imm := 0x80000000 }) (world (thr .user []))
    ∧ gives (.lea { bare .f64 with d := .n 0, a := .n 2, b := .n 4, m := 7 }) (world (thr .user [(4, 0xFFFFFFFF)])) :=
  ⟨⟨_, h.2.2.2.2.1 _ _ _ [0] (group (by decide +kernel))⟩, ⟨_, h.2.1 _ _ _ [0] (group (by decide +kernel))⟩⟩

theorem witness_Comparisons (h : Rules.Comparisons) :
    gives (.icmp { dab 0x10 with d := .n 7 }) (world (thr .user [(1, 0xFFFFFFFF)])) :=
  ⟨_, h.1 _ _ _ [0] (group (by decide +kernel))⟩

theorem witness_Predicates (h : Rules.Predicates) : gives (.ppack { bare .f64 with d := .n 0 }) (world (thr .user [])) :=
  h.2.1.elim fun _ e => ⟨_, e.1 _ _ _ [0] (group (by decide +kernel))⟩

theorem witness_FloatConversions (h : Rules.FloatConversions) : gives (.f2i (da 8)) (world (thr .user [(1, 0xBF800000)])) :=
  ⟨_, h.1 (da 8) _ _ [0] (group (by decide +kernel))⟩

theorem witness_WaveInstructions (h : Rules.WaveInstructions) : gives (.wredux (da 8)) sTwo :=
  ⟨_, h.2.2 (da 8) _ _ [0, 1] (group (by decide +kernel))⟩

theorem witness_Pauses (h : Rules.Pauses) :
    gives (.yield (bare .f64)) (world (thr .user [])) ∧ gives (.sleep { bare .f64 with a := .n 1 }) (world (thr .user [(1, 1)]))
    ∧ gives (.sleepto { bare .f64 with a := .n 2 }) (world (thr .user [])) :=
  ⟨⟨_, (h (bare .f64)).1 _ _ _ _ (issues (by decide +kernel)) trivial⟩,
    ⟨_, (h { bare .f64 with a := .n 1 }).2.1 _ _ _ _ (issues (by decide +kernel)) trivial⟩,
    ⟨_, (h { bare .f64 with a := .n 2 }).2.2 _ _ _ _ (issues (by decide +kernel)) trivial⟩⟩

theorem witness_FloatArithmetic_runs (h : Rules.FloatArithmetic) : gives (.fadd (dab 0)) (world (thr .user [])) :=
  ⟨_, (h _ (List.mem_cons_self ..)).1 (dab 0) _ _ [0] (group (by decide +kernel))⟩

theorem witness_BfloatPairs (h : Rules.BfloatPairs) : gives (.hadd2 (dab 0)) (world (thr .user [(1, 0x3F80BF80)])) :=
  ⟨_, h.1 (dab 0) _ _ [0] (group (by decide +kernel))⟩

/-! ## The assembler: images written out from the worked encodings and listings of the spec -/

/-- The image of a text, as 32-bit words. -/
def imageWords (t : String) : Option (List Nat) :=
  match Asm.assemble t with
  | .ok m => some ((List.range (m.image.length / 4)).map fun i => leNat ((m.image.drop (4 * i)).take 4))
  | .error _ => none

/-- The error of a text. -/
def asmError (t : String) : Option (Nat × Asm.Why) :=
  match Asm.assemble t with
  | .ok _ => none
  | .error e => some e

/-- R137, R138: the worked example of FMUL. -/
theorem test_asm_fmul : imageWords ".kernel k\n (p2) FMUL n12, q0, 0x3F80_0000 ; scaled\n.endk" =
    some [0x007008E5, 0x003FFFE0, 0x3F800000] := by decide +kernel

/-- R171: the branch of R162's listing; its label binds past the padding, and the listing's offsets hold. -/
theorem test_asm_listing : (imageWords
    ".kernel k\nIVL 3\nFMUL n12, n8, 0x3F80_0000\nFADD n13, n12, 1.5\nloop: IADD n4, n4, 100\nICMP.LT.NRM p1, n4, 64\n(p1) BRA loop\nEXIT\n.endk").map (fun ws => (ws.length, (ws.drop 14).take 5)) = some (21, [3, 3, 0xFFFC0405, 0x003FFFFF, 0xFFFFFFE0]) := by
  decide +kernel

/-- R324: the two ring operations of the door program. -/
theorem test_asm_ring : imageWords ".kernel k\nRDRMW.CAS.RET n34, 0x0F01, n10, n12, w0\nRDCAP.W n12, 0x0F01, w0\n.endk" =
    some [0xF0C80245, 0x280381AF, 0x0F01, 0xF0700241, 0x023FFFFF, 0x0F01] := by decide +kernel

/-- R163: the worked `.fmtslot`. -/
theorem test_asm_fmtslot : (match Asm.assemble
      ".kernel k\n.fmtslot 1, AFMT=TF8, BFMT=TF8, OFMT=BF16, RND=RSR, SAT=1, SMODE=both\nEXIT\n.endk" with
    | .ok m => m.kernels.map fun k => leNat ((k.record.drop 100).take 4)
    | .error _ => []) = [0x3C133] := by decide +kernel

/-- R165: the example of R41, and the same with one path short of a push. -/
theorem test_asm_join : asmError
      ".kernel k\nICMP.LT.NRM p1, LANE, 16\n(!p1) BRA b\nIADD NONE, n8, 1\nIMUL NONE, q0, 3\nBRA j\nb: ISUB NONE, n8, 1\nIMUL NONE, q0, 5\nj: .join\nEXIT\n.endk"
        = none
    ∧ asmError ".kernel k\nICMP.LT.NRM p1, LANE, 16\n(!p1) BRA b\nIADD NONE, n8, 1\nIMUL NONE, q0, 3\nBRA j\nb: ISUB NONE, n8, 1\nj: .join\nEXIT\n.endk"
        = some (8, .join) := by decide +kernel

/-- R158, R166, R428: errors at their lines. -/
theorem test_asm_errors :
    asmError ".kernel k\nFADD n1, 1.5, 2.5\n.endk" = some (2, .twoImmediates)
    ∧ asmError ".kernel k\nFADD n1, n2, n3 la=1\n.endk" = some (2, .lookahead)
    ∧ asmError ".kernel a\nx: EXIT\n.endk\n.kernel b\nBRA x\n.endk" = some (5, .undefinedName)
    ∧ asmError ".kernel k\nICMP.LT.NRM p1, p1, n1, 2\n.endk" = some (2, .encoding) := by decide +kernel

/-- A draft of `MOV n0, 5`, one instruction of 8 bytes. -/
def movDraft : Asm.Draft := { opc := 0x27, f := { bare .f64 with d := .n 0, a := .const 5 }, imms := [] }

theorem witness_AssemblerPads (h : Rules.AssemblerPads) :
    ∃ n, (({ Asm.Work.empty with here := 28 }).emit 1 movDraft none).here = 28 + 4 * n + 8 := by
  obtain ⟨n, -, -, h3, -⟩ := h.1 { Asm.Work.empty with here := 28 } 1 movDraft none (by decide)
  exact ⟨n, h3⟩

theorem witness_AssemblerForms_accepted (h : Rules.AssemblerForms) :
    (Instr.mov { bare .f64 with d := .n 0, a := .const 5 }).wellFormed = true :=
  (h.1 { line := 1, addr := 0, draft := movDraft, env := [], records := none } .empty [] []
    (.mov { bare .f64 with d := .n 0, a := .const 5 }) (by let _ := @exceptEq; decide)).1

theorem witness_AssemblerForms_shortest (h : Rules.AssemblerForms) :
    Asm.firstForm [] 0x27 [.src (.n 0), .expr (.num 100)]
        ([Form.f64, Form.f96, Form.f128].map fun form => Asm.bare form 0 false 0 0 0)
      = .ok { opc := 0x27, f := { bare .f96 with d := .n 0, a := .imm }, imms := [.word 100] } :=
  h.2 [] 0x27 [.src (.n 0), .expr (.num 100)] [Asm.bare .f64 0 false 0 0 0] [Asm.bare .f128 0 false 0 0 0]
    (Asm.bare .f96 0 false 0 0 0) _ (by
      intro g hg
      rw [List.mem_singleton.mp hg]
      let _ := @exceptEq
      decide) (by let _ := @exceptEq; decide)

end Sys2Proof.Tests
end

section
/-! PROOFS. What the state reads as right after package reset, and that it is settled (O5). -/

namespace Sys2Proof.Machine

open Sys2Proof

/-! ## What reset holds: every table is empty, so each key reads as its own reset value -/

@[simp] theorem lookD_nil {α : Type} (d : α) (k : Nat) : lookD d [] k = d := rfl

@[simp] theorem State.reset_waves : State.reset.waves = [] := rfl

@[simp] theorem State.reset_core (c : Nat) : State.reset.core c = Core.reset := lookD_nil _ c

@[simp] theorem State.reset_die (d : Nat) : State.reset.die d = Die.reset := lookD_nil _ d

@[simp] theorem State.reset_partition (p : Nat) : State.reset.partition p = Partition.reset := lookD_nil _ p

@[simp] theorem State.reset_queue (p q : Nat) : State.reset.queue p q = Queue.reset := by
  unfold State.queue
  rw [State.reset_partition]
  exact lookD_nil _ q

@[simp] theorem State.reset_window (n : Nat) : State.reset.window n = Window.reset := lookD_nil _ n

/-- R409: layout 0b111 gives every die to partition 0. -/
theorem State.reset_dieSet (p : Nat) : State.reset.dieSet p = if p = 0 then List.range 8 else [] := by
  have allToZero : ∀ d ∈ List.range 8, partOfIn 0b111 d = 0 := by decide
  change (List.range 8).filter (fun d => partOfIn 0b111 d = p) = _
  split
  case isTrue h => exact List.filter_eq_self.2 fun d hd => by simp [allToZero d hd, h]
  case isFalse h => exact List.filter_eq_nil_iff.2 fun d hd => by simp [allToZero d hd, Ne.symm h]

theorem State.reset_partsNow : State.reset.partsNow = [0] := by
  simp only [State.partsNow, State.reset_dieSet]
  decide

/-! ## A thread at the start of a wave -/

@[simp] theorem Thread.start_reg (pc : DWord) (l : Level) (k : Nat) : (Thread.start pc l).reg k = 0 := rfl

/-- R40: the queue of a starting thread reads 0, inside its 16 entries and beyond them. -/
@[simp] theorem Thread.start_q (pc : DWord) (l : Level) (j : Nat) : (Thread.start pc l).q j = 0 := by
  change (((List.replicate 16 (QEntry.val 0))[j]?).map QEntry.word).getD 0 = 0
  rw [List.getElem?_replicate]
  split <;> rfl

/-! ## No wave, nothing left over -/

theorem State.dueTrap_of_no_waves {s : State} (h : s.waves = []) : s.dueTrap = none := by
  simp [State.dueTrap, h]

theorem State.settled_of_no_waves {s : State} (hcur : s.cur = .none) (h : s.waves = []) : s.Settled where
  idle := hcur
  trapped := State.dueTrap_of_no_waves h
  reported := by simp [h]
  handled := by simp [h]

/-! ## The obligation -/

theorem resetValues : Rules.ResetValues :=
  ⟨rfl, rfl, rfl, rfl, State.reset_partsNow, State.reset_dieSet 0,
    fun d => by simp [Die.reset],
    fun c => by simp [Core.reset],
    fun p q => by simp [Queue.reset],
    fun n => by simp [Window.reset],
    fun pc l => ⟨rfl, Thread.start_q pc l, Thread.start_reg pc l, rfl, rfl⟩⟩

theorem resetSettled : Rules.ResetSettled := State.settled_of_no_waves rfl State.reset_waves

/-- An empty table is in canonical form. -/
theorem resetMemory : Rules.ResetMemory := rfl

/-- Settles O5: every table of the reset state is empty, so each register reads its reset value, and without a wave
there is nothing to settle. -/
theorem resetState : Obligations.ResetState := ⟨resetValues, resetSettled, resetMemory⟩

end Sys2Proof.Machine
end

section
/-! PROOFS. How pending results enter a thread's queue, and how they arrive (O26). -/

namespace Sys2Proof.Machine

open Sys2Proof

/-! ## Registers after a write -/

theorem Thread.reg_setRegs (t : Thread) (k : Nat) (ws : List Word) (h : swf 0 t.regs = true) (r : Nat) :
    (t.setRegs k ws).reg r = if k ≤ r ∧ r < k + ws.length then ws.getD (r - k) 0 else t.reg r := by
  induction ws generalizing t k with
  | nil => rw [if_neg (by simp)]; rfl
  | cons v ws ih =>
    rw [Thread.setRegs, ih _ _ (swf_sset 0 k v h), List.length_cons]
    by_cases hk : r = k
    · subst hk
      rw [if_neg (by omega), if_pos (by omega), Nat.sub_self]
      exact sget_sset_self 0 r v h
    · have old : (t.setReg k v).reg r = t.reg r := sget_sset_of_ne 0 v h hk
      by_cases hr : k + 1 ≤ r ∧ r < k + 1 + ws.length
      · rw [if_pos hr, if_pos (by omega), show r - k = (r - (k + 1)) + 1 by omega, List.getD_cons_succ]
      · rw [if_neg hr, if_neg (by omega), old]

/-! ## A result becomes pending -/

@[simp] theorem length_pendEntries (id n : Nat) : (pendEntries id n).length = n := by
  induction n with
  | zero => rfl
  | succ n ih => simp [pendEntries, ih]

theorem getElem?_pendEntries (id : Nat) {n k : Nat} (h : k < n) : (pendEntries id n)[k]? = some (QEntry.pend id k) := by
  induction n with
  | zero => omega
  | succ n ih =>
    rw [pendEntries]
    by_cases hk : k < n
    · rw [List.getElem?_append_left (by simpa using hk), ih hk]
    · obtain rfl : k = n := by omega
      rw [List.getElem?_append_right (by simp), length_pendEntries, Nat.sub_self]; rfl

section

variable (t : Thread) (id seq la n : Nat) (d : Option Nat) (acc : Access) (v : Option (List Word))

theorem Thread.pend_queue : (t.pend id seq la n d acc v).queue = (pendEntries id n ++ t.queue).take 16 := rfl

theorem Thread.pend_queue_length (h : t.queue.length = 16) : (t.pend id seq la n d acc v).queue.length = 16 := by
  rw [Thread.pend_queue, List.length_take, List.length_append, h]; omega

theorem Thread.pend_queue_new {k : Nat} (hn : n ≤ 16) (hk : k < n) :
    (t.pend id seq la n d acc v).queue[k]? = some (QEntry.pend id k) := by
  rw [Thread.pend_queue, List.getElem?_take_of_lt (by omega), List.getElem?_append_left (by simpa using hk),
    getElem?_pendEntries id hk]

theorem Thread.pend_queue_old {k : Nat} (hk : n ≤ k) (h16 : k < 16) :
    (t.pend id seq la n d acc v).queue[k]? = t.queue[k - n]? := by
  rw [Thread.pend_queue, List.getElem?_take_of_lt h16, List.getElem?_append_right (by simpa using hk), length_pendEntries]

end

/-! ## A pending result arrives -/

/-- A queue entry after the words of result `id` have arrived (R38). -/
def QEntry.filled (e : QEntry) (id : Nat) (ws : List Word) : QEntry :=
  match e with
  | .pend i k => if i = id then .val (ws.getD k 0) else .pend i k
  | .val v => .val v

theorem Thread.deliver_queue (t : Thread) (p : Pending) (ws : List Word) :
    (t.deliver p ws).queue = t.queue.map fun e => e.filled p.id ws := by
  rw [Thread.deliver, Thread.writeD_queue]
  refine List.map_congr_left fun e _ => ?_
  cases e <;> rfl

theorem Thread.deliver_entry {t : Thread} (p : Pending) (ws : List Word) {k : Nat} {e : QEntry} (h : t.queue[k]? = some e) :
    (t.deliver p ws).queue[k]? = some (e.filled p.id ws) := by
  rw [Thread.deliver_queue, List.getElem?_map, h]; rfl

/-- The destination receives the words that it still keeps (R53). -/
theorem Thread.deliver_reg_some {t : Thread} {p : Pending} {ws : List Word} {d : Nat} (hd : p.dst = some d)
    (hw : ws.length = p.words) (h : swf 0 t.regs = true) (r : Nat) :
    (t.deliver p ws).reg r = if d ≤ r ∧ r < d + min p.kept p.words then ws.getD (r - d) 0 else t.reg r := by
  unfold Thread.deliver
  rw [hd]
  dsimp only [Thread.writeD]
  rw [Thread.reg_setRegs, List.length_take, hw]
  · by_cases hr : d ≤ r ∧ r < d + min p.kept p.words
    · rw [if_pos hr, if_pos hr, List.getD_eq_getElem?_getD, List.getD_eq_getElem?_getD, List.getElem?_take_of_lt (by omega)]
    · rw [if_neg hr, if_neg hr]; rfl
  · exact h

theorem Thread.deliver_reg_none {t : Thread} {p : Pending} {ws : List Word} (hd : p.dst = none) (r : Nat) :
    (t.deliver p ws).reg r = t.reg r := by
  unfold Thread.deliver
  rw [hd]; rfl

theorem pendingResults : Rules.PendingResults := by
  refine ⟨fun t id seq la n d acc v hn hq => ?_, fun t p ws hw hr => ?_⟩
  · exact ⟨t.pend_queue_length id seq la n d acc v hq, fun k hk => t.pend_queue_new id seq la n d acc v hn hk,
      fun k hk h16 => t.pend_queue_old id seq la n d acc v hk h16, rfl, rfl, rfl, rfl, rfl, rfl, rfl⟩
  · refine ⟨fun k v hk => Thread.deliver_entry p ws hk, fun k j hk => ?_, fun k i j hi hk => ?_, fun r => ?_,
      Thread.writeD_preds .., Thread.writeD_pc .., Thread.writeD_run .., Thread.writeD_due ..⟩
    · exact (Thread.deliver_entry p ws hk).trans (by rw [QEntry.filled, if_pos rfl])
    · exact (Thread.deliver_entry p ws hk).trans (by rw [QEntry.filled, if_neg hi])
    · cases hd : p.dst with
      | none => exact Thread.deliver_reg_none hd r
      | some d => exact Thread.deliver_reg_some hd hw hr r

/-! ## What a performed read leaves of workgroups and gangs -/

/-- The second state has the workgroups and the gangs of the first. -/
def SameGangs (s u : State) : Prop := u.wgs = s.wgs ∧ u.gangs = s.gangs

theorem SameGangs.refl {s : State} : SameGangs s s := ⟨Eq.refl _, Eq.refl _⟩

theorem SameGangs.trans {s u v : State} (h : SameGangs s u) (h' : SameGangs u v) : SameGangs s v :=
  ⟨h'.1.trans h.1, h'.2.trans h.2⟩

theorem sameGangs_foldl {α : Type} {step : State → α → State} (h : ∀ s a, SameGangs s (step s a)) (l : List α) (s : State) :
    SameGangs s (l.foldl step s) := by
  induction l generalizing s with
  | nil => exact .refl
  | cons a l ih => exact (h s a).trans (ih (step s a))

theorem sameGangs_correct (s : State) (die : Nat) (sites : List ErrorSite) : SameGangs s (s.correct die sites) := by
  unfold State.correct
  dsimp only
  split <;> exact .refl

theorem sameGangs_reclaim (s : State) (pa n : Nat) : SameGangs s (s.reclaim pa n) := by
  refine sameGangs_foldl (fun _ _ => ?_) _ s
  exact .refl

theorem sameGangs_dropLine (s : State) (die line : Nat) : SameGangs s (s.dropLine die line) := by
  unfold State.dropLine
  cases look (s.die die).lines line with
  | none => exact .refl
  | some l =>
    dsimp only
    split
    · exact .refl
    · split <;> exact .refl

theorem sameGangs_makeRoom (s : State) (die pa : Nat) : SameGangs s (s.makeRoom die pa) := by
  unfold State.makeRoom
  dsimp only
  split
  · exact .refl
  · split
    · exact .refl
    · exact sameGangs_dropLine s die _

theorem sameGangs_countLine (s : State) (die pa : Nat) : SameGangs s (s.countLine die pa) := by
  unfold State.countLine
  dsimp only
  split <;> exact .refl

theorem sameGangs_placeLine (s : State) (die pa : Nat) (cls : Route) (write : Bool) :
    SameGangs s (s.placeLine die pa cls write) := by
  unfold State.placeLine
  dsimp only
  split
  · exact sameGangs_reclaim s pa 1
  · exact (sameGangs_reclaim s pa 1).trans (sameGangs_makeRoom { s.reclaim pa 1 with dies := _ } die pa)

theorem sameGangs_touchLine (s : State) (die pa : Nat) (cls : Route) (write : Bool) :
    SameGangs s (s.touchLine die pa cls write) :=
  (sameGangs_countLine s die pa).trans (sameGangs_placeLine _ die pa cls write)

/-! ## A wave whose gang is being saved -/

theorem SameGangs.waveSaving {s u : State} (h : SameGangs s u) (w : Wave) : u.waveSaving w = s.waveSaving w := by
  unfold State.waveSaving State.wg? State.gang?
  rw [h.1, h.2]

/-- An acquire marks a workgroup, whose gang stays. -/
theorem waveSaving_acquired (s : State) (recs : RelRecords) (sc : Scope) (o : Origin) (w : Wave) :
    (s.acquired recs sc o).waveSaving w = s.waveSaving w := by
  unfold State.acquired
  split
  · unfold State.waveSaving State.wg? State.modWg State.gang?
    dsimp only
    have ids : (fun x : Workgroup => decide (x.id = w.wg)) ∘ (fun x => if x.id = o.wg then { x with scopeMiss := true } else x)
        = fun x => decide (x.id = w.wg) := by
      funext x
      dsimp only [Function.comp]
      split <;> rfl
    rw [List.find?_map, ids]
    cases List.find? (fun x : Workgroup => decide (x.id = w.wg)) s.wgs with
    | none => rfl
    | some g =>
      simp only [Option.map_some, Option.bind_some]
      split <;> rfl
  · rfl

/-! ## A result of a running thread -/

/-- The slot holds one wave, in which a running thread, with no trap due and its gang not being saved, has a pending result. -/
structure Awaits (s : State) (die core slot lane id : Nat) (w : Wave) (t : Thread) (p : Pending) : Prop where
  only : (s.waves.filter fun x => x.core = 32 * die + core && x.slot = slot) = [w]
  thread : w.threads[lane]? = some t
  pending : (t.pending.find? fun x => x.id = id) = some p
  saving : s.waveSaving w = false
  due : t.due = none
  running : t.run = .running

section

variable {s : State} {die core slot lane id : Nat} {w : Wave} {t : Thread} {p : Pending}

theorem Awaits.id_eq (h : Awaits s die core slot lane id w t p) : p.id = id := by
  simpa using List.find?_some h.pending

/-- A running thread's result is written once its window has closed or a ninth waits for it (R50, R51). -/
theorem Awaits.arriveResult (h : Awaits s die core slot lane id w t p) (u : State) (hu : u.waveSaving w = s.waveSaving w)
    (ws : List Word) :
    u.arriveResult w lane p ws =
      (if p.left = 0 || u.ninth w t then u.modThread w.id lane fun t => t.deliver p ws
        else u.modThread w.id lane fun t => t.fill id ws).undrain w.core id := by
  have hmay : u.mayWrite w lane p = (p.left = 0 || u.ninth w t) := by
    simp [State.mayWrite, h.thread, hu, h.saving, h.due, h.running]
  rw [State.arriveResult, hmay, State.deliver, h.id_eq]
  cases (decide (p.left = 0) || u.ninth w t) <;> rfl

/-- The wave and the pending result that LONG_LATENCY_RESULT names. -/
theorem Awaits.found (h : Awaits s die core slot lane id w t p) :
    (s.wavesAt (32 * die + core) slot).findSome? (fun w : Wave =>
      ((w.threads[lane]?).bind fun t => t.pending.find? fun p => p.id = id).map fun p => (w, p)) = some (w, p) := by
  rw [State.wavesAt, h.only]
  simp [h.thread, h.pending]

theorem Awaits.exec_value (h : Awaits s die core slot lane id w t p) {ws : List Word} (hv : p.value = some ws) :
    exec (.longLatencyResult die core slot lane id) s = .next (s.arriveResult w lane p ws) := by
  change execLongLatencyResult die core slot lane id s = _
  simp only [execLongLatencyResult, h.found, hv]

theorem Awaits.exec_bufqL (h : Awaits s die core slot lane id w t p) (hv : p.value = none) {k : LatchRef}
    (ha : p.access = .bufqL k) :
    exec (.longLatencyResult die core slot lane id) s =
      .next ((s.drawnBy 2).arriveResult w lane p [s.latchWord k 1, s.latchWord k 2]) := by
  change execLongLatencyResult die core slot lane id s = _
  simp only [execLongLatencyResult, h.found, hv, ha, State.snapshot]
  rfl

/-- A vault read, or a cached one, with no earlier one outstanding is performed, then delivered. -/
theorem Awaits.exec_read (h : Awaits s die core slot lane id w t p) (hv : p.value = none) (hin : p.inOrder = true)
    (hd : p.access.readsDirect = false) (hshot : s.snapshot w p.access = none) (hb : w.readsBefore p.seq lane = [])
    {u : State} {ws : List Word} (hp : s.performRead w lane p = .value u ws) :
    exec (.longLatencyResult die core slot lane id) s = .next (u.arriveResult w lane p ws) := by
  change execLongLatencyResult die core slot lane id s = _
  have hread : s.deliverRead w lane p = u.arriveResult w lane p ws := by
    simp only [State.deliverRead, hb, State.performReads, hp]
  have hcw : ∀ k va via, p.access ≠ .cwstat k va via := by
    intro k va via hc
    simp [hc, State.snapshot] at hshot
  simp only [execLongLatencyResult, h.found, hv, hshot, hin, hd, hread, Bool.not_false, Bool.and_self, if_true]

end

/-! ## Reads that are at hand -/

theorem performRead_vault {s : State} {w : Wave} {lane : Nat} {p : Pending} {g : Workgroup} {wg off len : Nat}
    (ha : p.access = .vault wg off len) (hg : s.wg? wg = some g)
    (hp : poisonSeen g.poison off len (vaultStores wg (s.ownWrites w lane p.seq)) = none) :
    s.performRead w lane p = .value (s.vaultRead g off len)
      (wordsOf p.words (overlay off (sbytes g.vault off len) (vaultStores wg (s.ownWrites w lane p.seq)))) := by
  simp only [State.performRead, ha, hg, hp]

/-- The state after a cached read of global memory is performed. -/
def State.cachedRead (s : State) (w : Wave) (lane seq pa len : Nat) (route : Route) (acq : Option Scope) : State :=
  let u1 := s.touchLine (dieOf w.core) pa route false
  let u2 := if s.ownDram pa then u1.readDone pa len else u1
  match acq with
  | some sc => u2.acquired (u1.recordsRead pa len (globalStores (s.ownWrites w lane seq))) sc (s.originOf w)
  | none => u2

theorem performRead_cached {s : State} {w : Wave} {lane : Nat} {p : Pending} {pa len : Nat} {va : DWord} {route : Route}
    {acq : Option Scope} {via : Option TlbEntry} (ha : p.access = .global pa len va route false acq via)
    (hat : s.ownDram pa = true ∨ s.lineServes (dieOf w.core) pa false = true) (hown : s.ownAtomic w lane p.seq pa len = false)
    (hp : poisonSeen s.poison pa len (globalStores (s.ownWrites w lane p.seq)) = none) :
    s.performRead w lane p = .value (s.cachedRead w lane p.seq pa len route acq)
      (wordsOf p.words (overlay pa ((s.touchLine (dieOf w.core) pa route false).peek pa len)
        (globalStores (s.ownWrites w lane p.seq)))) := by
  have hwait : (s.peerDram pa && !s.lineServes (dieOf w.core) pa false) = false := by
    rcases hat with h | h
    · simp only [State.ownDram, Bool.and_eq_true, decide_eq_true_eq] at h
      simp [State.peerDram, h.1]
    · simp [h]
  simp only [State.performRead, ha, hown, hp, Bool.not_false, Bool.and_true, hwait, Bool.or_self, Bool.false_eq_true, if_false,
    Bool.false_and]
  rfl

theorem waveSaving_cachedRead (s : State) (w : Wave) (lane seq pa len : Nat) (route : Route) (acq : Option Scope) :
    (s.cachedRead w lane seq pa len route acq).waveSaving w = s.waveSaving w := by
  have touched := sameGangs_touchLine s (dieOf w.core) pa route false
  have done : SameGangs s (if s.ownDram pa then (s.touchLine (dieOf w.core) pa route false).readDone pa len
      else s.touchLine (dieOf w.core) pa route false) := by
    split
    · exact touched.trans (sameGangs_correct _ _ _)
    · exact touched
  unfold State.cachedRead
  cases acq with
  | none => exact done.waveSaving w
  | some sc => exact (waveSaving_acquired _ _ _ _ w).trans (done.waveSaving w)

theorem resultsArrive : Rules.ResultsArrive := by
  intro s die core slot lane id w t p honly _ hthread hpend hsave hdue hrun
  have h : Awaits s die core slot lane id w t p := ⟨honly, hthread, hpend, hsave, hdue, hrun⟩
  refine ⟨fun ws hv => ?_, fun k hv ha => ?_, fun g wg off len hv ha hg hb hp => ?_,
    fun pa len va route acq via hv ha hat hb hown hp => ?_⟩
  · rw [h.exec_value hv, h.arriveResult _ rfl]
  · rw [h.exec_bufqL hv ha, h.arriveResult (s.drawnBy 2) rfl]
  · rw [h.exec_read hv (by simp [Pending.inOrder, hv, ha]) (by simp [ha, Access.readsDirect]) (by simp [ha, State.snapshot])
      hb (performRead_vault ha hg hp), h.arriveResult (s.vaultRead g off len) ((sameGangs_correct s _ _).waveSaving w)]
  · rw [h.exec_read hv (by simp [Pending.inOrder, hv, ha]) (by simp [ha, Access.readsDirect]) (by simp [ha, State.snapshot])
      hb (performRead_cached ha hat hown hp), h.arriveResult _ (waveSaving_cachedRead s w lane p.seq pa len route acq)]
    cases acq <;> rfl

/-- Settles O26: a result's entries stand above the old ones until its words replace them, and LONG_LATENCY_RESULT finds
the words, which the read that fetches them leaves for a running thread to take. -/
theorem lateResults : Obligations.LateResults := ⟨pendingResults, resultsArrive⟩

end Sys2Proof.Machine
end

section
/-! PROOFS. Register blocks that a wave gains and returns, and the blocks that it keeps resident (O33). -/

namespace Sys2Proof.Machine

open Sys2Proof

/-! ## Wave instructions that one lane issues -/

section

variable {i : Instr} {need : Level} {sh : Shape} {f : Fields} {P : State → Wave → Nat → Thread → Prop}
  {vals : State → Wave → Nat → Thread → List Word} {body : State → Wave → List Nat → List Word → WRes}

theorem faultsOn_of_wave {c : State → Wave → Nat → Thread → Option (Cause × DWord)}
    (he : ∀ s, exec i s = execWaveAt need sh f vals body s)
    (hb : ∀ s w l t r, c s w l t = some r → body s w [l] (vals s w l t) = .fault r.1 r.2 ∧ r.1 ≠ .poison) :
    FaultsOn i need sh f c := by
  intro s w lane t r hi hc
  obtain ⟨hr, hp⟩ := hb _ _ _ _ _ hc
  have ht := thread?_counted hi
  rw [he, execWaveAt_one hi, hr]
  simp only [logVault, hp, if_false]
  rw [runOthers_one hi ht, modThread_of_thread? _ (thread?_setThread ht), setThread_setThread]

theorem waits_of_wave (he : ∀ s, exec i s = execWaveAt need sh f vals body s)
    (hb : ∀ s w l t, P s w l t → body s w [l] (vals s w l t) = .hold) : Waits i need sh f P := by
  intro s w lane t hi hp
  rw [he, execWaveAt_one hi, hb _ _ _ _ hp]

/-- The wave of an instruction stands in the state in which it runs. -/
theorem completes_of_standing {after : State → Wave → Nat → Thread → State × Thread}
    (h : Completes i need sh f (fun s w l t => s.wave? w.id = some w ∧ P s w l t) after) : Completes i need sh f P after :=
  fun s w lane t hi hp => h s w lane t hi ⟨wave?_counted hi.wave, hp⟩

/-- A wave instruction that one lane issues and that completes in a state whose thread, changed or not, issues too. -/
theorem execWaveAt_done {s s' : State} {w : Wave} {lane : Nat} {t t' : Thread} {g : Nat → Thread → Thread}
    (hi : Issues need sh f s w lane t)
    (hb : body (s.counted w) w.counted [lane] (vals (s.counted w) w.counted lane (t.issued s sh f)) = .done s' g)
    (ht : s'.thread? w.id lane = some t') (hq : t'.qual f = true) (hl : t'.lookahead sh f = none) :
    execWaveAt need sh f vals body s = .next (s'.setThread w.id lane (g lane (t'.issued s' sh f))) := by
  have ho : runOthers sh f w.counted s' lane = s'.setThread w.id lane t' := by
    have ht' : s'.thread? w.counted.id lane = some t' := ht
    simp only [runOthers, modThread_of_thread? _ ht', hq, hl, Bool.not_true, Bool.false_eq_true, if_false]
    rfl
  rw [execWaveAt_one hi, hb]
  simp only []
  rw [ho, modThread_of_thread? _ (thread?_setThread ht), setThread_setThread, issued_congr (State.setThread_pcc ..)]

end

/-! ## Waves and threads after an update -/

theorem wave?_setThread {s : State} {id : Nat} {v : Wave} (lane : Nat) (t : Thread) (h : s.wave? id = some v) :
    (s.setThread id lane t).wave? id = some { v with threads := setAt v.threads lane t } := by
  have ids : (fun x : Wave => decide (x.id = id)) ∘
      (fun x => if x.id = id then { x with threads := setAt x.threads lane t } else x) = fun x => decide (x.id = id) := by
    funext x
    dsimp only [Function.comp]
    split <;> rfl
  have hv : v.id = id := by simpa using List.find?_some h
  unfold State.wave? State.setThread at *
  dsimp only
  rw [List.find?_map, ids, h, Option.map_some, if_pos hv]

theorem thread?_of_wave? {s : State} {id : Nat} {v : Wave} (h : s.wave? id = some v) (l : Nat) :
    s.thread? id l = v.threads[l]? := by
  rw [State.thread?, h, Option.bind_some]

section

variable (t : Thread) (s : State) (sh : Shape) (f : Fields)

@[simp] theorem Thread.issued_pc : (t.issued s sh f).pc = t.pc := by
  unfold Thread.issued Thread.sampled
  dsimp only
  split <;> rfl

@[simp] theorem Thread.issued_regs : (t.issued s sh f).regs = t.regs := by
  unfold Thread.issued Thread.sampled
  dsimp only
  split <;> rfl

end

/-! ## A result of one word -/

theorem Thread.result_one_q (t : Thread) (d : Option Nat) (v : Word) : (t.result d [v]).q 0 = v := by
  rw [Thread.q, Thread.result, Thread.writeD_queue]
  simp [Thread.pushAll, Thread.push, Thread.pushEntry, QEntry.word]

theorem Thread.result_one_reg (t : Thread) (d : Option Nat) (v : Word) (h : swf 0 t.regs = true) (k : Nat) :
    (t.result d [v]).reg k = if d = some k then v else t.reg k := by
  cases d with
  | none => rfl
  | some j =>
    change sget 0 (sset 0 t.regs j v) k = _
    by_cases hk : k = j
    · subst hk
      rw [if_pos rfl]
      exact sget_sset_self 0 k v h
    · rw [if_neg fun e => hk (Option.some.inj e).symm]
      exact sget_sset_of_ne 0 v h hk

/-- A park's end delivers one word as an instruction does, but to a register that is still held (R53). -/
theorem Thread.unpark_one (t : Thread) (len : Nat) (d : Option Nat) (v : Word) :
    t.unpark len d [v] = { t.result (t.stillHeld d) [v] with run := .running }.advance len := by
  unfold Thread.unpark Thread.lateD Thread.stillHeld Thread.result
  cases d with
  | none => rfl
  | some k =>
    dsimp only [Option.bind_some]
    rw [Thread.pushAll_cut]
    by_cases hk : k < t.cut
    · rw [if_pos hk, List.take_of_length_le (by simp only [List.length_singleton]; omega)]
    · rw [if_neg hk, show t.cut - k = 0 by omega]
      rfl

/-! ## The registers below a bound -/

section

variable {α : Type} [DecidableEq α] (d : α) {l : Sparse α} {lo : Option Nat}

theorem swfFrom_filter_lt (top : Nat) (h : swfFrom d lo l = true) :
    swfFrom d lo (l.filter fun p => decide (p.1 < top)) = true := by
  induction l generalizing lo with
  | nil => rfl
  | cons p l ih =>
    obtain ⟨a, u⟩ := p
    simp only [swfFrom, Bool.and_eq_true] at h
    obtain ⟨⟨hlo, hu⟩, hl⟩ := h
    by_cases ha : a < top
    · rw [List.filter_cons_of_pos (by simpa using ha)]
      simp only [swfFrom, Bool.and_eq_true]
      exact ⟨⟨hlo, hu⟩, ih hl⟩
    · rw [List.filter_cons_of_neg (by simpa using ha)]
      refine swfFrom_weaken d (ih hl) fun b hb => ?_
      subst hb
      exact Nat.le_of_lt (of_decide_eq_true hlo)

theorem sget_filter_lt (top k : Nat) (h : swfFrom d lo l = true) :
    sget d (l.filter fun p => decide (p.1 < top)) k = if k < top then sget d l k else d := by
  induction l generalizing lo with
  | nil => simp [sget]
  | cons p l ih =>
    obtain ⟨a, u⟩ := p
    simp only [swfFrom, Bool.and_eq_true] at h
    by_cases ha : a < top
    · rw [List.filter_cons_of_pos (by simpa using ha), sget, sget, ih h.2]
      by_cases hka : k < a
      · rw [if_pos hka, if_pos hka, ite_self]
      · rw [if_neg hka, if_neg hka]
        by_cases hk : k = a
        · rw [if_pos hk, if_pos hk, if_pos (by omega)]
        · rw [if_neg hk, if_neg hk]
    · rw [List.filter_cons_of_neg (by simpa using ha), ih h.2]
      by_cases hk : k < top
      · rw [if_pos hk, if_pos hk, sget, if_pos (by omega), sget_of_lt d h.2 (by omega)]
      · rw [if_neg hk, if_neg hk]

end

/-! ## A thread whose upper registers are returned -/

/-- A chain of tests finds nothing where its first one fails and the rest find nothing. -/
theorem ite_some_eq_none_iff {α : Type} (b : Bool) (a : α) (x : Option α) :
    (if b = true then some a else x) = none ↔ b = false ∧ x = none := by
  cases b <;> simp

section

variable (t : Thread) (top : Nat)

@[simp] theorem Thread.shrink_pc : (t.shrink top).pc = t.pc := rfl

/-- The returned registers are lost (R53), and the others stay. -/
theorem Thread.shrink_reg (h : swf 0 t.regs = true) (k : Nat) :
    (t.shrink top).reg k = if k < top then t.reg k else 0 := sget_filter_lt 0 top k h

theorem Thread.swf_shrink (h : swf 0 t.regs = true) : swf 0 (t.shrink top).regs = true := swfFrom_filter_lt 0 top h

theorem Thread.shrink_shrink_regs : ((t.shrink top).shrink top).regs = (t.shrink top).regs := by
  simp [Thread.shrink]

theorem Thread.issued_shrink_regs (s : State) (sh : Shape) (f : Fields) :
    ((t.issued s sh f).shrink top).regs = (t.shrink top).regs := by
  simp [Thread.shrink]

theorem Pending.shrink_dst (p : Pending) : (p.shrink top).dst = p.dst := by
  unfold Pending.shrink
  split <;> rfl

theorem Pending.shrink_kept_le (p : Pending) : (p.shrink top).kept ≤ p.kept := by
  unfold Pending.shrink
  split
  · exact Nat.min_le_left _ _
  · exact Nat.le_refl _

variable {t}

/-- A result that writes fewer registers meets no more of them. -/
theorem Thread.pendingReg_shrink {k m : Nat} (h : t.pendingReg k m = false) : (t.shrink top).pendingReg k m = false := by
  unfold Thread.pendingReg Thread.shrink at *
  rw [List.any_eq_false] at h ⊢
  intro q hq
  obtain ⟨p, hp, rfl⟩ := List.mem_map.1 hq
  have hp' := h p hp
  have hk := p.shrink_kept_le top
  rw [Pending.shrink_dst]
  cases hd : p.dst with
  | none => simp
  | some d =>
    simp only [hd, decide_eq_true_eq] at hp' ⊢
    omega

theorem Thread.pendingSrc_shrink {u : Use} {o : Src} (h : t.pendingSrc u o = false) : (t.shrink top).pendingSrc u o = false := by
  cases o with
  | n k =>
    simp only [Thread.pendingSrc, Bool.and_eq_false_iff] at h ⊢
    exact h.imp_right (Thread.pendingReg_shrink top)
  | _ => exact h

theorem Thread.pendingDst_shrink {u : DUse} {o : Src} (h : t.pendingDst u o = false) : (t.shrink top).pendingDst u o = false := by
  cases o with
  | n k =>
    simp only [Thread.pendingDst, Bool.and_eq_false_iff] at h ⊢
    exact h.imp_right (Thread.pendingReg_shrink top)
  | _ => exact h

variable (t) in
theorem Thread.lookahead_eq_none_iff (sh : Shape) (f : Fields) : t.lookahead sh f = none ↔
    t.pendingSrc sh.a f.a = false ∧ t.pendingSrc sh.b f.b = false ∧ t.pendingSrc sh.c f.c = false
      ∧ t.pendingSrc sh.e f.e = false ∧ t.pendingSrc sh.f f.f = false ∧ t.pendingDst sh.d f.d = false := by
  simp only [Thread.lookahead, ite_some_eq_none_iff, and_true]

theorem Thread.lookahead_shrink {sh : Shape} {f : Fields} (h : t.lookahead sh f = none) :
    (t.shrink top).lookahead sh f = none := by
  rw [Thread.lookahead_eq_none_iff] at h ⊢
  obtain ⟨ha, hb, hc, he, hf, hd⟩ := h
  exact ⟨t.pendingSrc_shrink top ha, t.pendingSrc_shrink top hb, t.pendingSrc_shrink top hc, t.pendingSrc_shrink top he,
    t.pendingSrc_shrink top hf, t.pendingDst_shrink top hd⟩

end

/-! ## A wave whose upper blocks are returned -/

section

variable {s : State} {w : Wave} (lo hi : Nat)

theorem State.returnBlocks_wave? (h : s.wave? w.id = some w) :
    (s.returnBlocks w lo hi).wave? w.id = some { w with
      blocks := lo
      interval := w.interval &&& BitVec.ofNat 31 (2 ^ lo - 1)
      threads := w.threads.map fun t => t.shrink (8 * lo) } := by
  have hc : ∀ c v, (s.setCore c v).wave? w.id = some w := fun _ _ => h
  simp only [State.returnBlocks, hc]
  exact wave?_setWave { w with blocks := lo, interval := _, threads := _ } (hc _ _) rfl

variable (s w)

theorem State.returnBlocks_mem : (s.returnBlocks w lo hi).mem = s.mem := by
  unfold State.returnBlocks
  dsimp only
  split <;> rfl

theorem State.returnBlocks_wgs : (s.returnBlocks w lo hi).wgs = s.wgs := by
  unfold State.returnBlocks
  dsimp only
  split <;> rfl

end

/-- The state after RSHRINK returns `g` blocks of a wave. -/
def State.shrunk (s : State) (w : Wave) (g : Nat) : State :=
  if g = 0 then s else s.returnBlocks w (w.blocks - g) w.blocks

theorem State.shrunk_mem (s : State) (w : Wave) (g : Nat) : (s.shrunk w g).mem = s.mem := by
  unfold State.shrunk
  split
  · rfl
  · exact s.returnBlocks_mem w _ _

theorem State.shrunk_wgs (s : State) (w : Wave) (g : Nat) : (s.shrunk w g).wgs = s.wgs := by
  unfold State.shrunk
  split
  · rfl
  · exact s.returnBlocks_wgs w _ _

/-- A thread of the wave is as it was, or without the registers that its wave returned. -/
theorem State.shrunk_wave? {s : State} {w : Wave} (g : Nat) (h : s.wave? w.id = some w) {l : Nat} {t : Thread}
    (ht : w.threads[l]? = some t) :
    ∃ v u, (s.shrunk w g).wave? w.id = some v ∧ v.blocks = w.blocks - g ∧ v.threads[l]? = some u
      ∧ (u = t ∨ u = t.shrink (8 * (w.blocks - g))) := by
  unfold State.shrunk
  split
  · rename_i hg
    exact ⟨w, t, h, by omega, ht, .inl rfl⟩
  · exact ⟨_, t.shrink (8 * (w.blocks - g)), s.returnBlocks_wave? _ _ h, rfl, by simp [ht], .inr rfl⟩

/-! ## RGROW and RSHRINK at issue -/

/-- The register of a D field that lies below a bound. -/
def destBelow (f : Fields) (top : Nat) : Option Nat := f.d.reg.bind fun k => if k < top then some k else none

theorem destBelow_eq_some {f : Fields} {top k : Nat} : destBelow f top = some k ↔ f.d = .n k ∧ k < top := by
  unfold destBelow
  cases f.d with
  | n j =>
    simp only [Src.reg, Option.bind_some, Option.ite_none_right_eq_some, Option.some.injEq, Src.n.injEq]
    exact ⟨fun ⟨h, e⟩ => ⟨e, e ▸ h⟩, fun ⟨e, h⟩ => ⟨e ▸ h, e⟩⟩
  | _ => simp [Src.reg]

/-- What RGROW does, from the number of blocks that its threads ask for. -/
def rgrowBody (f : Fields) (s : State) (w : Wave) (_ : List Nat) (v : List Word) : WRes :=
  let g := (word v 0).toNat
  if 31 < w.blocks + g then .fault .illegal 7
  else if g = 0 then .done s fun _ t => (t.result f.d.reg [BitVec.ofNat 32 w.blocks]).advance f.form.len
  else .done s fun _ t => t.park (.rgrow g w.seq s.clk f.d.reg) f

/-- What RSHRINK does, from the number of blocks that its threads return. -/
def rshrinkBody (f : Fields) (s : State) (w : Wave) (_ : List Nat) (v : List Word) : WRes :=
  let g := (word v 0).toNat
  if w.blocks < g + 1 then .fault .illegal 7
  else if w.threads.any Thread.missing then .hold
  else .done (s.shrunk w g) fun _ t =>
    ((t.shrink (8 * (w.blocks - g))).result (destBelow f (8 * (w.blocks - g))) [BitVec.ofNat 32 (w.blocks - g)]).past f

/-- The value of source A, which the threads of a wave instruction agree on. -/
def valsA (f : Fields) (s : State) (w : Wave) (lane : Nat) (t : Thread) : List Word := [read32 s w lane t f f.a]

theorem exec_rgrow (f : Fields) (s : State) :
    exec (.rgrow f) s = execWaveAt .user (shapeDA f 0) f (valsA f) (rgrowBody f) s := rfl

theorem exec_rshrink (f : Fields) (s : State) :
    exec (.rshrink f) s = execWaveAt .user (shapeDA f 0) f (valsA f) (rshrinkBody f) s := rfl

section

variable (f : Fields) (s : State) (w : Wave) (l : Nat) (t : Thread)

theorem rgrowBody_full (h : 31 < w.blocks + (read32 s w l t f f.a).toNat) :
    rgrowBody f s w [l] (valsA f s w l t) = .fault .illegal 7 := if_pos h

theorem rgrowBody_none (hw : w.blocks ≤ 31) (h : (read32 s w l t f f.a).toNat = 0) :
    rgrowBody f s w [l] (valsA f s w l t) = .done s fun _ t => (t.result f.d.reg [BitVec.ofNat 32 w.blocks]).past f := by
  have hg : (word (valsA f s w l t) 0).toNat = 0 := h
  simp only [rgrowBody, hg, Nat.add_zero, Nat.not_lt.2 hw, if_false, if_true]
  rfl

theorem rgrowBody_parks (hg : (read32 s w l t f f.a).toNat ≠ 0) (h : w.blocks + (read32 s w l t f f.a).toNat ≤ 31) :
    rgrowBody f s w [l] (valsA f s w l t) =
      .done s fun _ u => u.park (.rgrow (read32 s w l t f f.a).toNat w.seq s.clk f.d.reg) f :=
  (if_neg (Nat.not_lt.2 h)).trans (if_neg hg)

theorem rshrinkBody_empty (h : w.blocks < (read32 s w l t f f.a).toNat + 1) :
    rshrinkBody f s w [l] (valsA f s w l t) = .fault .illegal 7 := if_pos h

theorem rshrinkBody_waits (h : (read32 s w l t f f.a).toNat < w.blocks) (hm : ∃ x ∈ w.threads, x.missing = true) :
    rshrinkBody f s w [l] (valsA f s w l t) = .hold :=
  (if_neg (Nat.not_lt.2 h)).trans (if_pos (List.any_eq_true.2 hm))

theorem rshrinkBody_returns {g : Nat} (hg : (read32 s w l t f f.a).toNat = g) (h : g < w.blocks)
    (hm : ∀ x ∈ w.threads, x.missing = false) :
    rshrinkBody f s w [l] (valsA f s w l t) = .done (s.shrunk w g) fun _ t =>
      ((t.shrink (8 * (w.blocks - g))).result (destBelow f (8 * (w.blocks - g))) [BitVec.ofNat 32 (w.blocks - g)]).past f := by
  subst hg
  have none_missing : ¬ w.threads.any Thread.missing = true := by simpa using hm
  exact (if_neg (Nat.not_lt.2 h)).trans (if_neg none_missing)

end

section

variable (f : Fields)

theorem rgrow_nothing : Completes (.rgrow f) .user (shapeDA f 0) f
    (fun s w l t => s.wave? w.id = some w ∧ w.blocks ≤ 31 ∧ (read32 s w l t f f.a).toNat = 0)
    (fun s w _ t => (s, (t.result f.d.reg [BitVec.ofNat 32 w.blocks]).past f)) :=
  completes_of_wave (exec_rgrow f) (fun _ s w l t ⟨_, hb, hg⟩ => ⟨_, rgrowBody_none f s w l t hb hg, rfl⟩)
    fun _ _ _ _ _ => ⟨rfl, rfl⟩

theorem rgrow_parks : Completes (.rgrow f) .user (shapeDA f 0) f
    (fun s w l t => s.wave? w.id = some w ∧ (read32 s w l t f f.a).toNat ≠ 0 ∧ w.blocks + (read32 s w l t f f.a).toNat ≤ 31)
    (fun s w l t => (s, t.park (.rgrow (read32 s w l t f f.a).toNat w.seq s.clk f.d.reg) f)) :=
  completes_of_wave (exec_rgrow f) (fun _ s w l t ⟨_, hg, hb⟩ => ⟨_, rgrowBody_parks f s w l t hg hb, rfl⟩)
    fun _ _ _ _ _ => ⟨rfl, rfl⟩

theorem rgrow_faults : FaultsOn (.rgrow f) .user (shapeDA f 0) f
    (fun s w l t => if 31 < w.blocks + (read32 s w l t f f.a).toNat then some (.illegal, 7) else none) := by
  refine faultsOn_of_wave (exec_rgrow f) fun s w l t r hr => ?_
  obtain ⟨h, hr⟩ := Option.ite_none_right_eq_some.1 hr
  obtain rfl := Option.some.inj hr
  exact ⟨rgrowBody_full f s w l t h, by simp⟩

theorem rshrink_faults : FaultsOn (.rshrink f) .user (shapeDA f 0) f
    (fun s w l t => if w.blocks < (read32 s w l t f f.a).toNat + 1 then some (.illegal, 7) else none) := by
  refine faultsOn_of_wave (exec_rshrink f) fun s w l t r hr => ?_
  obtain ⟨h, hr⟩ := Option.ite_none_right_eq_some.1 hr
  obtain rfl := Option.some.inj hr
  exact ⟨rshrinkBody_empty f s w l t h, by simp⟩

theorem rshrink_waits : Waits (.rshrink f) .user (shapeDA f 0) f
    (fun s w l t => (read32 s w l t f f.a).toNat < w.blocks ∧ ∃ x ∈ w.threads, x.missing = true) :=
  waits_of_wave (exec_rshrink f) fun s w l t ⟨hg, hm⟩ => rshrinkBody_waits f s w l t hg hm

variable {f}

/-- RSHRINK that returns blocks: the state around the thread, and the thread, which lost its upper registers and holds the
new count. -/
theorem rshrink_returns {s : State} {w : Wave} {lane : Nat} {t : Thread} (hi : Issues .user (shapeDA f 0) f s w lane t)
    (hm : ∀ x ∈ w.threads, x.missing = false) {g : Nat}
    (hg : (read32 (s.counted w) w.counted lane (t.issued s (shapeDA f 0) f) f f.a).toNat = g) (hlt : g < w.blocks) :
    ∃ v u y, exec (.rshrink f) s = .next (((s.counted w).shrunk w.counted g).setThread w.id lane y)
      ∧ ((s.counted w).shrunk w.counted g).wave? w.id = some v ∧ v.blocks = w.blocks - g ∧ v.threads[lane]? = some u
      ∧ y.pc = t.pc + BitVec.ofNat 64 f.form.len ∧ y.q 0 = BitVec.ofNat 32 (w.blocks - g)
      ∧ (swf 0 t.regs = true → ∀ k, y.reg k =
        if destBelow f (8 * (w.blocks - g)) = some k then BitVec.ofNat 32 (w.blocks - g)
        else if k < 8 * (w.blocks - g) then t.reg k else 0) := by
  obtain ⟨v, u, hv, hb, hu, hut⟩ := State.shrunk_wave? (w := w.counted) g (wave?_counted hi.wave) (l := lane) hi.thread
  have hthread : ((s.counted w).shrunk w.counted g).thread? w.id lane = some u :=
    (thread?_of_wave? hv lane).trans hu
  have hlook : u.lookahead (shapeDA f 0) f = none := by
    rcases hut with rfl | rfl
    · exact hi.clear
    · exact Thread.lookahead_shrink _ hi.clear
  have hqual : u.qual f = true := by
    rcases hut with rfl | rfl <;> exact hi.on
  have hpc : u.pc = t.pc := by
    rcases hut with rfl | rfl <;> rfl
  have hregs (x : State) :
      ((u.issued x (shapeDA f 0) f).shrink (8 * (w.blocks - g))).regs = (t.shrink (8 * (w.blocks - g))).regs := by
    rw [Thread.issued_shrink_regs]
    rcases hut with rfl | rfl
    · rfl
    · exact t.shrink_shrink_regs _
  refine ⟨v, u, _, (exec_rshrink f s).trans
    (execWaveAt_done hi (rshrinkBody_returns f _ _ lane _ hg hlt hm) hthread hqual hlook), hv, hb, hu, ?_, ?_, fun h k => ?_⟩
  · rw [Thread.past, Thread.advance, Thread.result_pc, Thread.shrink_pc, Thread.issued_pc, hpc]
  · exact Thread.result_one_q _ _ _
  · have hswf (x : State) : swf 0 ((u.issued x (shapeDA f 0) f).shrink (8 * (w.blocks - g))).regs = true := by
      rw [hregs]
      exact t.swf_shrink _ h
    have hreg (x : State) : ((u.issued x (shapeDA f 0) f).shrink (8 * (w.blocks - g))).reg k =
        if k < 8 * (w.blocks - g) then t.reg k else 0 :=
      (congrArg (sget 0 · k) (hregs x)).trans (t.shrink_reg _ h k)
    rw [← hreg ((s.counted w).shrunk w.counted g)]
    exact Thread.result_one_reg _ _ _ (hswf _) k

end

/-! ## Grants -/

theorem State.grantBlocks_idle {s : State} {core : Nat} (h : s.nextGrow core = none) (fuel : Nat) :
    State.grantBlocks core fuel s = s := by
  cases fuel with
  | zero => rfl
  | succ n => simp only [State.grantBlocks, h]

/-- A wave after a request of it is granted (R52). -/
def GrowReq.granted (r : GrowReq) : Wave :=
  { r.wave with
    blocks := r.wave.blocks + r.g
    threads := r.wave.threads.map fun t => t.granted (r.wave.blocks + r.g) r.g r.seq }

/-- One request fits, and none after it is granted. -/
theorem State.grantBlocks_one {s : State} {core : Nat} {r : GrowReq} (h : s.nextGrow core = some r)
    (h' : (s.setWave r.granted).nextGrow core = none) (n : Nat) :
    State.grantBlocks core (n + 1) s = s.setWave r.granted := by
  simp only [State.grantBlocks, h]
  exact State.grantBlocks_idle h' n

theorem registerBlocks : Rules.RegisterBlocks := by
  refine ⟨fun f => ⟨rgrow_nothing f, rgrow_parks f, rgrow_faults f, rshrink_faults f, rshrink_waits f, ?_⟩, ?_⟩
  · intro s w lane t hi hswf hm u n c hn
    obtain ⟨v, o, y, he, hv, hb, ho, hpc, hq, hreg⟩ := rshrink_returns hi hm rfl hn
    have hreg := hreg hswf
    refine ⟨_, _, y, he, wave?_setThread lane y hv, ?_, hb, hpc, hq, fun k hk hd => ?_, fun k hd hk => ?_, fun k hk _ => ?_,
      State.shrunk_mem _ _ _, State.shrunk_wgs _ _ _⟩
    · exact getElem?_setAt_self _ _ _ (List.getElem?_eq_some_iff.1 ho).1
    · rw [hreg, if_neg fun e => hd (destBelow_eq_some.1 e).1, if_pos hk]
    · rw [hreg, if_pos (destBelow_eq_some.2 ⟨hd, hk⟩)]
    · rw [hreg, if_neg fun e => absurd (destBelow_eq_some.1 e).2 (Nat.not_lt.2 hk), if_neg (Nat.not_lt.2 hk)]
  · intro s die core w g q clk hnext c v hnone
    have hv : v = GrowReq.granted { wave := w, g := g, seq := q, at_ := clk } := by
      unfold GrowReq.granted
      dsimp only [v]
      congr 1
      refine List.map_congr_left fun t _ => ?_
      unfold Thread.granted
      rw [Nat.add_sub_cancel]
      cases hr : t.run with
      | parked p len =>
        cases p with
        | rgrow h x a d =>
          dsimp only
          rw [Thread.unpark_one]
          rfl
        | _ => rfl
      | _ => rfl
    rw [hv] at hnone ⊢
    exact congrArg Host.Outcome.next (State.grantBlocks_one hnext hnone 63)

/-! ## Interval sets -/

theorem sum_map_toNat {α : Type} (b : α → Bool) (l : List α) : (l.map fun i => (b i).toNat).sum = (l.filter b).length := by
  induction l with
  | nil => rfl
  | cons a l ih => cases h : b a <;> simp [h, ih]; omega

theorem toNat_lt_two_pow_iff (a : Word) (n : Nat) : a.toNat < 2 ^ n ↔ ∀ i, a.getLsbD i = true → i < n := by
  constructor
  · intro h i hi
    refine Nat.lt_of_not_le fun hn => ?_
    have clear : a.getLsbD i = false :=
      Nat.testBit_lt_two_pow (Nat.lt_of_lt_of_le h (Nat.pow_le_pow_right Nat.two_pos hn))
    exact Bool.false_ne_true (clear.symm.trans hi)
  · intro h
    exact Nat.lt_pow_two_of_testBit _ fun i hi => Bool.eq_false_iff.2 fun hb => Nat.not_lt.2 hi (h i hb)

/-- A mask that IVL accepts (R46): bit 31 clear, at most 8 blocks, each of them held. -/
theorem intervalOk_iff (blocks : Nat) (a : Word) : intervalOk blocks a = true ↔
    a.getLsbD 31 = false ∧ ((List.range 31).map fun i => (a.getLsbD i).toNat).sum ≤ 8
      ∧ ∀ i, a.getLsbD i = true → i < blocks := by
  rw [intervalOk, Bool.and_eq_true, Bool.and_eq_true, sum_map_toNat, decide_eq_true_eq, decide_eq_true_eq,
    toNat_lt_two_pow_iff, Bool.not_eq_true', and_assoc]

/-- What IVL does, from its mask. -/
def ivlBody (f : Fields) (s : State) (w : Wave) (_ : List Nat) (v : List Word) : WRes :=
  let a := word v 0
  if !intervalOk w.blocks a then .faultAll .illegal 7
  else
    let s := match s.wave? w.id with
      | some w => s.setWave { w with interval := a.extractLsb' 0 31, resident := a = 0 }
      | none => s
    .done s fun _ t => t.advance f.form.len

theorem exec_ivl (f : Fields) (s : State) : exec (.ivl f) s = execWaveAt .user (shapeA32 f) f (valsA f) (ivlBody f) s := rfl

/-- The wave with the interval set of a mask, which is to be brought in where it names a block (R46, R177). -/
def Wave.withInterval (w : Wave) (a : Word) : Wave := { w with interval := a.extractLsb' 0 31, resident := decide (a = 0) }

theorem ivlBody_accepts {f : Fields} {s : State} {w : Wave} {l : Nat} {t : Thread} (hw : s.wave? w.id = some w)
    (h : intervalOk w.blocks (read32 s w l t f f.a) = true) :
    ivlBody f s w [l] (valsA f s w l t) = .done (s.setWave (w.withInterval (read32 s w l t f f.a))) fun _ t => t.past f := by
  have hv : word (valsA f s w l t) 0 = read32 s w l t f f.a := rfl
  simp only [ivlBody, hv, h, hw, Bool.not_true, Bool.false_eq_true, if_false]
  rfl

theorem ivl_replaces (f : Fields) : Completes (.ivl f) .user (shapeA32 f) f
    (fun s w l t => intervalOk w.blocks (read32 s w l t f f.a) = true)
    (fun s w l t => (s.setWave (w.withInterval (read32 s w l t f f.a)), t.past f)) := by
  refine completes_of_standing (completes_of_wave (exec_ivl f) (fun _ s w l t ⟨hw, h⟩ => ⟨_, ivlBody_accepts hw h, rfl⟩)
    fun s w l t hw => ⟨?_, rfl⟩)
  have hv := wave?_setWave (w.withInterval (read32 s w l t f f.a)) hw rfl
  rw [State.thread?, hv, thread?_of_wave? hw]
  rfl

theorem ivl_faults {f : Fields} {s : State} {w : Wave} {lane : Nat} {t : Thread} (hi : Issues .user (shapeA32 f) f s w lane t)
    (h : ¬ intervalOk w.blocks (read32 (s.counted w) w.counted lane (t.issued s (shapeA32 f) f) f f.a) = true) :
    exec (.ivl f) s = .next ((s.counted w).setThread w.id lane (t.fault .illegal 7 (w.seq + 1))) := by
  have hb : ivlBody f (s.counted w) w.counted [lane] (valsA f (s.counted w) w.counted lane (t.issued s (shapeA32 f) f)) =
      .faultAll .illegal 7 := if_pos (congrArg not (Bool.eq_false_iff.2 h))
  rw [exec_ivl, execWaveAt_one hi, hb]
  exact congrArg Host.Outcome.next (modThread_of_thread? _ (thread?_counted hi))

theorem intervals : Rules.Intervals := by
  refine ⟨fun f s w lane t hi hgood => ?_, fun f s w lane t hi hbad => ?_, fun die core slot s => ?_⟩
  · exact ivl_replaces f s w lane t hi ((intervalOk_iff _ _).2 hgood)
  · exact ivl_faults hi fun h => hbad ((intervalOk_iff _ _).1 h)
  · change execIntervalReload die core slot s = _
    simp only [execIntervalReload, Bool.and_eq_true, decide_eq_true_eq]

/-- Settles O33: RGROW and RSHRINK change the blocks of their wave alone, a grant is given to the threads of its own request,
and the masks that IVL accepts are those of R46. -/
theorem blocksAndIntervals : Obligations.BlocksAndIntervals := ⟨registerBlocks, intervals⟩

end Sys2Proof.Machine
end
